-- ==== Sys2Proof/Word.lean ====
section
/-! DEFINITION. The word types of the Umette 840 (spec 00_scope R3, R5) and their plainest arithmetic. -/

namespace Sys2Proof

/-- R5: a byte is 8 bits. -/
abbrev Byte := BitVec 8
/-- R5: a half is 16 bits. -/
abbrev W16 := BitVec 16
/-- R5: a word is 32 bits. -/
abbrev W32 := BitVec 32
/-- R5: a dword is 64 bits. -/
abbrev W64 := BitVec 64

/-- R13: a group is 32 lanes in lock-step. -/
abbrev Lanes (α : Type) := Vector α 32

/-- The list of lane numbers 0 to 31, ascending. -/
def laneList : List Nat := List.range 32

/-- Bit `i` of a lane mask (R3: bit 0 is the least significant). -/
abbrev inMask (m : W32) (i : Nat) : Bool := m.getLsbD i

/-- The mask whose only set bit is `i`. -/
def laneBit (i : Nat) : W32 := 1#32 <<< i

/-- A lane mask from a test on lane numbers. -/
def maskOf (f : Nat → Bool) : W32 :=
  laneList.foldl (fun m i => if f i then m ||| laneBit i else m) 0#32

/-- R232: the lanes of a mask whose 64-bit words, of lanes 2i and 2i + 1, lie in it whole. -/
def wholeWords (m : W32) : W32 := maskOf (fun l => inMask m (l / 2 * 2) && inMask m (l / 2 * 2 + 1))

/-- The number of set bits of a mask. -/
def popMask (m : W32) : Nat := (laneList.filter (inMask m)).length

/-- The lowest set bit of a mask, 0 when none is set. -/
def lowLane (m : W32) : Nat := ((laneList.filter (inMask m)).head?).getD 0

end Sys2Proof
end

