-- ==== Sys2Proof/Syntax.lean ====
section
/-! DEFINITION. The syntax: every row of the opcode table is a constructor of `Instr` (138 instruction words, spec
14_encoding R315 to R330 and 15 to 20, and 117 events, spec 95_what_each_step_holds), after the plain data the events carry. -/

namespace Sys2Proof

/-- R36, R94: which stream of a block acts: the bellwether, or a path (the second one when the flag is set) of a group. -/
inductive Who where
  | bell
  | path (grp : Nat) (second : Bool)
  deriving DecidableEq, Repr

/-- A party of the machine: a stream of the block that the device knows by number `blk`. -/
structure Party where
  blk : Nat
  who : Who
  deriving DecidableEq, Repr

/-- R277, R281: a packet of queue `queue` of context `ctx`, by its absolute ring index. -/
structure PktRef where
  ctx : Nat
  queue : Nat
  slot : Nat
  deriving DecidableEq, Repr

/-- R222: the answers a Page Response may carry. -/
inductive PrCode where
  | success | invalid | failure
  deriving DecidableEq, Repr

/-- R300: how a sent AtomicOp completes. -/
inductive CplStatus where
  | success | unsupported | abort
  deriving DecidableEq, Repr

/-- R194: the states a package's L2 gives a line shared in the pod. -/
inductive FState where
  | inv | shared | excl | modified | owned | herd
  deriving DecidableEq, Repr

/-- R312: the control masters. -/
inductive Master where
  | host | board | fabric
  deriving DecidableEq, Repr

/-- R232: where a column group of 64 consecutive 64-bit words lies. -/
inductive ArrayRef where
  | l2 (pa : Nat)
  | scratch (blk off : Nat)
  | acc (blk row : Nat)
  | vregs (blk grp reg : Nat)
  | chan (blk ch entry : Nat)
  | sregs (blk grp : Nat)
  | wregs (blk : Nat)
  /-- R204, R209: a core slot's Herd partial in its slice. -/
  | herd (line slot : Nat)
  /-- R247: a core slot's sealed partial. -/
  | herdSealed (line slot : Nat)
  /-- R234: a line of HBM, which its device-side ECC covers. -/
  | hbm (line : Nat)
  /-- R232: an entry, by its place in the list, of the caches of translations and of walks. -/
  | tlb (n : Nat)
  | walk (n : Nat)
  deriving DecidableEq, Repr

/-- R232: a cache, which holds parity only. -/
def ArrayRef.cached : ArrayRef → Bool
  | .tlb _ | .walk _ => true
  | _ => false

/-- R232, R233: a column group as read: its words with their horizontal parity, and the vertical word with its own. -/
structure ColumnGroup where
  words : List W64
  hpar : List Byte
  v : W64
  vpar : Byte
  deriving DecidableEq, Repr

/-- R303: a packet on a link: its link, key epoch and sequence number, what its tag covers (the header less the tag, and the payload), and
the tag. -/
structure LinkPacket where
  link : Nat
  epoch : Nat
  seq : Nat
  covered : List Byte
  tag : W64
  deriving DecidableEq, Repr

/-- R239: the hop of a failed data check: it leads to a core or, without one, to the line's home slice; `link`: it is a link, which resends. -/
structure CheckHop where
  /-- R301: no failed check: poison that this device behind the line's memory-tier port has sent with the line. -/
  device : Option Nat
  core : Option Nat
  link : Bool
  deriving DecidableEq, Repr

/-- R196, R197, R199, R304: what goes with a line from its supplier: lease end, number of INVs, LEND and floor; and the owner index of the
request that it answers. -/
structure Terms where
  owner : Nat
  leaseEnd : Nat
  invs : Nat
  lend : Nat
  floor : Nat
  deriving DecidableEq, Repr

/-- R197: for whom, and with what, an owner gives a line up. -/
structure Supply where
  requester : Nat
  terms : Terms
  deriving DecidableEq, Repr

/-- R198 to R200: an acknowledgement: a sharer's with its t_ack, or the aggregated one that completes an LREVOKE asked for. -/
inductive AckOf where
  | sharer (tAck : Nat)
  | revoked
  deriving DecidableEq, Repr

/-- R211, R308: why the directory recalls a line: an eviction, a Herd update or a merge of it, a cut or a mode switch; or the revocation of
the window that it lies in. -/
inductive RecallReason where
  | giveBack | revoked
  deriving DecidableEq, Repr

/-- R196, R211, R304: a recall: its line, its reason, and the owner index that it carries. -/
structure RecallMsg where
  line : Nat
  reason : RecallReason
  owner : Nat
  deriving DecidableEq, Repr

/-- R196, R198, R304: the package that an INV answers to, and the owner index that it carries. -/
structure InvMsg where
  requester : Nat
  owner : Nat
  deriving DecidableEq, Repr

/-- R196, R207, R304: a collection: the number of its merge, and the owner index that it carries. -/
structure CollMsg where
  merge : Nat
  owner : Nat
  deriving DecidableEq, Repr

/-- R196, R200, R304: an LREVOKE: its line, and the owner index that it carries. -/
structure RevokeMsg where
  line : Nat
  owner : Nat
  deriving DecidableEq, Repr

/-- R213: a line that a census poisons: its owner is lost, or else its reports contradict each other. -/
structure CensusMsg where
  line : Nat
  lost : Bool
  deriving DecidableEq, Repr

/-- R49, R310: the completion of a grid barrier's phase: `pod`, the second tier has declared it for the whole placement. -/
structure BarrierMsg where
  grid : Nat
  pod : Bool
  deriving DecidableEq, Repr

/-- R207, R209: beside a merged value: whether it is poisoned, and the LEND kept from the state S, 0 without one. -/
structure MergeMarks where
  poison : Bool
  lend : Nat
  deriving DecidableEq, Repr

/-- R196, R304: the data of a copy given up, empty for a clean one; `idle`: the line's entry is I then; `owner`: the owner index that the
message carries. -/
structure GivenUp where
  owner : Nat
  bytes : List Byte
  idle : Bool
  deriving DecidableEq, Repr

/-- R248: an item that the checkpoint bitmaps track. -/
inductive Item where
  | gran (blk grp idx : Nat)
  | scratch (blk line : Nat)
  | acc (blk rowGroup : Nat)
  | page (ia : Nat)
  deriving DecidableEq, Repr

/-- R189, R190: a dirty byte that another package's cache (its cache number) writes back at a mode switch. -/
structure RemoteDirty where
  cache : Nat
  pa : Nat
  val : Byte
  deriving DecidableEq, Repr

/-- R242: what a stop request comes from. -/
inductive StopCause where
  | preempt | faultStop | coreDisabled | rollback | cut | heapq | discard | flr
  deriving DecidableEq, Repr

/-- R7: the registers a REGISTER_WRITE may name. -/
inductive RegRef where
  | fnReg (fn off : Nat)
  | vfS2root (vf : Nat)
  | ownerIndex (fn : Nat)
  | exportWin (win : Nat)
  | health
  | hdm (port : Nat)
  | mgmtown
  | qthresh
  | savecost (ctx : Nat)
  deriving DecidableEq, Repr

/-- R314: an image that Boot ROM checks, with its version and signature. -/
structure BootImage where
  data : List Byte
  svn : Nat
  sig : List Byte
  deriving DecidableEq, Repr

/-- R347: what one lane asks of an owner. -/
inductive Machine.SyncOp where
  | write (data : List Byte)
  | rmw (aop ty : Nat) (x : List Byte)
  | rmw2 (aop ty : Nat) (x0 x1 : List Byte)
  | cas (cmp new : List Byte)
  | cnta (n : W64)
  deriving DecidableEq, Repr

/-- R296, R297: an access of the host: the function that it comes through, and whether it is one of CXL.mem, which the HDM range bounds. -/
structure HostReq where
  fn : Nat
  mem : Bool
  deriving DecidableEq, Repr

/-- R165, R180, R307, R422: what a request from another package asks of the home: a line, a plain write, a step at its owner, or a monitor on
a word: its width and its condition. -/
inductive ReqKind where
  | read
  | write (data : List Byte)
  | atomic (op : Machine.SyncOp)
  | watch (width cond : Nat) (signed : Bool) (v : W64)
  deriving DecidableEq, Repr

/-- Every row of the opcode table, instruction words first, in the table's order, but for the rows without a field, which stand last. -/
inductive Instr where
  /-- NOP (R426): No operation; takes a run position, folds into BRAND and invalidates its latch. -/
  | opNop (e : Bool)
  /-- SETM (R452): Writes an immediate to the stream's MODE. -/
  | opSetm (e : Bool) (i : BitVec 16)
  /-- GETM (R394): Reads the stream's MODE, zero-extended, into the destination. -/
  | opGetm (e : Bool) (d : BitVec 8)
  /-- SETMX (R453): Writes bits 15:0 of a scalar source to MODE. -/
  | opSetmx (e : Bool) (a : BitVec 8)
  /-- SYSV (R468): Reads the system value named by the selector into the destination. -/
  | opSysv (e : Bool) (d : BitVec 8) (i : BitVec 16)
  /-- CRD (R384): Reads the control register named by IMM16 into the destination. -/
  | opCrd (e : Bool) (d : BitVec 8) (i : BitVec 16)
  /-- CWR (R388): Writes a control register named by IMM16 under its access code. -/
  | opCwr (e : Bool) (a : BitVec 8) (i : BitVec 16)
  /-- TRAP (R472): Raises TRAPI and enters the trap handler with k2 holding the immediate. -/
  | opTrap (e : Bool) (i : BitVec 16)
  /-- RTE (R447): Returns from a trap handler, restoring MODE and resuming mid-run or at a run start. -/
  | opRte (e : Bool)
  /-- YIELD (R480): Gives way: delays the path's age by 64 clocks or withholds the bellwether stream for 16 clocks. -/
  | opYield (e : Bool)
  /-- CKPT (R372): Sends the front end a cut request for the path's own context and completes at once. -/
  | opCkpt (e : Bool)
  /-- CHQ (R371): Reads a channel's kind and entry count without popping or peeking it. -/
  | opChq (e : Bool) (d : BitVec 8) (c : BitVec 8)
  /-- ADD (R343): Adds two sources per ACTIVE lane under MODE.TYPE. -/
  | opAdd (e : Bool) (d : BitVec 8) (a : BitVec 8) (b : BitVec 8)
  /-- SUB (R467): Subtracts the second source from the first per ACTIVE lane. -/
  | opSub (e : Bool) (d : BitVec 8) (a : BitVec 8) (b : BitVec 8)
  /-- MUL (R419): Multiplies two sources per ACTIVE lane. -/
  | opMul (e : Bool) (d : BitVec 8) (a : BitVec 8) (b : BitVec 8)
  /-- MAD (R408): Fused multiply-add into the X register with one rounding. -/
  | opMad (e : Bool) (x : BitVec 8) (y : BitVec 8) (z : BitVec 8)
  /-- MIN (R416): Returns the smaller operand per ACTIVE lane. -/
  | opMin (e : Bool) (d : BitVec 8) (a : BitVec 8) (b : BitVec 8)
  /-- MAX (R409): Returns the larger operand per ACTIVE lane. -/
  | opMax (e : Bool) (d : BitVec 8) (a : BitVec 8) (b : BitVec 8)
  /-- AND (R344): Bitwise AND of two integer sources per ACTIVE lane. -/
  | opAnd (e : Bool) (d : BitVec 8) (a : BitVec 8) (b : BitVec 8)
  /-- OR (R428): Bitwise OR of two integer sources per ACTIVE lane. -/
  | opOr (e : Bool) (d : BitVec 8) (a : BitVec 8) (b : BitVec 8)
  /-- XOR (R479): Bitwise exclusive OR of two integer sources per ACTIVE lane. -/
  | opXor (e : Bool) (d : BitVec 8) (a : BitVec 8) (b : BitVec 8)
  /-- SHL (R449): Shifts each lane's element left by a 32-bit unsigned count. -/
  | opShl (e : Bool) (d : BitVec 8) (a : BitVec 8) (b : BitVec 8)
  /-- SHR (R449): Shifts each lane's element right logically. -/
  | opShr (e : Bool) (d : BitVec 8) (a : BitVec 8) (b : BitVec 8)
  /-- SAR (R449): Shifts each lane's element right, filling with its top bit. -/
  | opSar (e : Bool) (d : BitVec 8) (a : BitVec 8) (b : BitVec 8)
  /-- SEL (R451): Selects A where the guard passes and B elsewhere, over the live lanes. -/
  | opSel (e : Bool) (d : BitVec 8) (a : BitVec 8) (b : BitVec 8)
  /-- MULH (R420): Returns the high half of the exact integer product per lane. -/
  | opMulh (e : Bool) (d : BitVec 8) (a : BitVec 8) (b : BitVec 8)
  /-- CMP (R375): Compares two sources per ACTIVE lane into a predicate under a condition code. -/
  | opCmp (e : Bool) (c : BitVec 4) (p : BitVec 4) (a : BitVec 8) (b : BitVec 8)
  /-- MOV (R417): Copies the source to the destination per ACTIVE lane without conversion. -/
  | opMov (e : Bool) (d : BitVec 8) (a : BitVec 8)
  /-- ABS (R341): Absolute value per ACTIVE lane. -/
  | opAbs (e : Bool) (d : BitVec 8) (a : BitVec 8)
  /-- NEG (R425): Negation per ACTIVE lane. -/
  | opNeg (e : Bool) (d : BitVec 8) (a : BitVec 8)
  /-- NOT (R427): Bitwise complement per ACTIVE lane. -/
  | opNot (e : Bool) (d : BitVec 8) (a : BitVec 8)
  /-- RCP (R439): Correctly rounded reciprocal per ACTIVE lane. -/
  | opRcp (e : Bool) (d : BitVec 8) (a : BitVec 8)
  /-- RSQ (R446): Correctly rounded reciprocal square root per ACTIVE lane. -/
  | opRsq (e : Bool) (d : BitVec 8) (a : BitVec 8)
  /-- SQRT (R460): Correctly rounded square root per ACTIVE lane. -/
  | opSqrt (e : Bool) (d : BitVec 8) (a : BitVec 8)
  /-- EXP2 (R392): Correctly rounded power of two per ACTIVE lane. -/
  | opExp2 (e : Bool) (d : BitVec 8) (a : BitVec 8)
  /-- LOG2 (R407): Correctly rounded base-2 logarithm per ACTIVE lane. -/
  | opLog2 (e : Bool) (d : BitVec 8) (a : BitVec 8)
  /-- SIN (R455): Correctly rounded sine of a fraction of a turn per ACTIVE lane. -/
  | opSin (e : Bool) (d : BitVec 8) (a : BitVec 8)
  /-- COS (R379): Correctly rounded cosine of a fraction of a turn per ACTIVE lane. -/
  | opCos (e : Bool) (d : BitVec 8) (a : BitVec 8)
  /-- RINT (R445): Rounds each lane to an integral value under RND. -/
  | opRint (e : Bool) (d : BitVec 8) (a : BitVec 8)
  /-- CLZ (R374): Counts leading zero bits per ACTIVE lane. -/
  | opClz (e : Bool) (d : BitVec 8) (a : BitVec 8)
  /-- POPC (R432): Counts set bits per ACTIVE lane. -/
  | opPopc (e : Bool) (d : BitVec 8) (a : BitVec 8)
  /-- BREV (R365): Reverses the bits of each lane's element. -/
  | opBrev (e : Bool) (d : BitVec 8) (a : BitVec 8)
  /-- CLASS (R373): Classifies each lane's float into a one-hot 10-bit result. -/
  | opClass (e : Bool) (d : BitVec 8) (a : BitVec 8)
  /-- CVT (R385): Converts each ACTIVE lane from MODE.TYPE to the destination type in FN. -/
  | opCvt (e : Bool) (d : BitVec 8) (a : BitVec 8) (t : BitVec 4)
  /-- CVTB (R387): Packs the group's lanes into one f4 or f4s block, choosing the header. -/
  | opCvtb (e : Bool) (d : BitVec 8) (a : BitVec 8)
  /-- CVTB_GIVEN (R387): Packs the group's lanes into one block under the header already in lane 4 of D. -/
  | opCvtbGiven (e : Bool) (d : BitVec 8) (a : BitVec 8)
  /-- UNPB (R474): Decodes a block held in register form into FP32 lanes. -/
  | opUnpb (e : Bool) (d : BitVec 8) (a : BitVec 8)
  /-- BFE (R358): Extracts a bit field per ACTIVE lane. -/
  | opBfe (e : Bool) (x : BitVec 8) (y : BitVec 8) (z : BitVec 8)
  /-- BFI (R359): Inserts a bit field into the X register per ACTIVE lane. -/
  | opBfi (e : Bool) (x : BitVec 8) (y : BitVec 8) (z : BitVec 8)
  /-- SHFL (R454): Indexed shuffle: each lane reads lane n of the source. -/
  | opShfl (e : Bool) (d : BitVec 8) (a : BitVec 8) (b : BitVec 8)
  /-- SHFX (R454): Butterfly shuffle: each lane reads lane l XOR n. -/
  | opShfx (e : Bool) (d : BitVec 8) (a : BitVec 8) (b : BitVec 8)
  /-- SHUP (R454): Shuffle up: each lane reads lane l minus n. -/
  | opShup (e : Bool) (d : BitVec 8) (a : BitVec 8) (b : BitVec 8)
  /-- SHDN (R454): Shuffle down: each lane reads lane l plus n. -/
  | opShdn (e : Bool) (d : BitVec 8) (a : BitVec 8) (b : BitVec 8)
  /-- VANY (R475): Votes whether any live lane's predicate bit is set. -/
  | opVany (e : Bool) (d : BitVec 8) (a : BitVec 8)
  /-- VALL (R475): Votes whether every live lane's predicate bit is set. -/
  | opVall (e : Bool) (d : BitVec 8) (a : BitVec 8)
  /-- VUNI (R475): Votes whether the live lanes' predicate bits are all equal. -/
  | opVuni (e : Bool) (d : BitVec 8) (a : BitVec 8)
  /-- VBAL (R475): Returns the predicate masked by the live set. -/
  | opVbal (e : Bool) (d : BitVec 8) (a : BitVec 8)
  /-- GSUM (R399): Sums the ACTIVE lanes by the fixed tree. -/
  | opGsum (e : Bool) (d : BitVec 8) (a : BitVec 8)
  /-- GMIN (R397): Returns the minimum over the ACTIVE lanes. -/
  | opGmin (e : Bool) (d : BitVec 8) (a : BitVec 8)
  /-- GMAX (R396): Returns the maximum over the ACTIVE lanes. -/
  | opGmax (e : Bool) (d : BitVec 8) (a : BitVec 8)
  /-- GSCAN (R398): Inclusive prefix sum, each prefix a whole tree. -/
  | opGscan (e : Bool) (d : BitVec 8) (a : BitVec 8)
  /-- PAND (R429): Predicate AND per ACTIVE lane. -/
  | opPand (e : Bool) (x : BitVec 8) (y : BitVec 8) (b : BitVec 4)
  /-- POR (R433): Predicate OR per ACTIVE lane. -/
  | opPor (e : Bool) (x : BitVec 8) (y : BitVec 8) (b : BitVec 4)
  /-- PXOR (R438): Predicate exclusive OR per ACTIVE lane. -/
  | opPxor (e : Bool) (x : BitVec 8) (y : BitVec 8) (b : BitVec 4)
  /-- PNOT (R431): Predicate complement per ACTIVE lane. -/
  | opPnot (e : Bool) (x : BitVec 8) (y : BitVec 8)
  /-- PSET (R437): Sets a predicate from bits 31:0 of a scalar. -/
  | opPset (e : Bool) (d : BitVec 8) (a : BitVec 8)
  /-- PSET_FIRST (R437): Sets a predicate to the first n lanes. -/
  | opPsetFirst (e : Bool) (d : BitVec 8) (a : BitVec 8)
  /-- PSET_NZ (R437): Sets a predicate in lanes whose source is nonzero. -/
  | opPsetNz (e : Bool) (d : BitVec 8) (a : BitVec 8)
  /-- PCNT (R430): Counts the predicate's set bits in the live set. -/
  | opPcnt (e : Bool) (d : BitVec 8) (a : BitVec 8)
  /-- SADD (R448): Scalar 64-bit add. -/
  | opSadd (e : Bool) (d : BitVec 8) (a : BitVec 8) (b : BitVec 8)
  /-- SSUB (R448): Scalar 64-bit subtract. -/
  | opSsub (e : Bool) (d : BitVec 8) (a : BitVec 8) (b : BitVec 8)
  /-- SMUL (R448): Scalar 64-bit multiply, low half. -/
  | opSmul (e : Bool) (d : BitVec 8) (a : BitVec 8) (b : BitVec 8)
  /-- SAND (R448): Scalar bitwise AND. -/
  | opSand (e : Bool) (d : BitVec 8) (a : BitVec 8) (b : BitVec 8)
  /-- SOR (R448): Scalar bitwise OR. -/
  | opSor (e : Bool) (d : BitVec 8) (a : BitVec 8) (b : BitVec 8)
  /-- SXOR (R448): Scalar bitwise exclusive OR. -/
  | opSxor (e : Bool) (d : BitVec 8) (a : BitVec 8) (b : BitVec 8)
  /-- SSHL (R448): Scalar shift left. -/
  | opSshl (e : Bool) (d : BitVec 8) (a : BitVec 8) (b : BitVec 8)
  /-- SSHR (R448): Scalar logical shift right. -/
  | opSshr (e : Bool) (d : BitVec 8) (a : BitVec 8) (b : BitVec 8)
  /-- SMIN (R448): Scalar signed minimum. -/
  | opSmin (e : Bool) (d : BitVec 8) (a : BitVec 8) (b : BitVec 8)
  /-- SMAX (R448): Scalar signed maximum. -/
  | opSmax (e : Bool) (d : BitVec 8) (a : BitVec 8) (b : BitVec 8)
  /-- SMOV (R448): Scalar move. -/
  | opSmov (e : Bool) (d : BitVec 8) (a : BitVec 8)
  /-- SCMP (R450): Compares two 64-bit scalars into a whole predicate. -/
  | opScmp (e : Bool) (c : BitVec 4) (p : BitVec 4) (a : BitVec 8) (b : BitVec 8)
  /-- SLI (R459): Loads a sign-extended 16-bit immediate into a scalar. -/
  | opSli (e : Bool) (d : BitVec 8) (i : BitVec 16)
  /-- SLH (R458): Shifts a scalar left by 16 and inserts a 16-bit immediate. -/
  | opSlh (e : Bool) (d : BitVec 8) (i : BitVec 16)
  /-- SLD (R457): Scalar 8-byte plain load. -/
  | opSld (e : Bool) (d : BitVec 8) (a : BitVec 8) (s : BitVec 5) (h : BitVec 3)
  /-- SST (R461): Scalar 8-byte plain store. -/
  | opSst (e : Bool) (d : BitVec 8) (a : BitVec 8) (s : BitVec 5) (h : BitVec 3)
  /-- LD (R402): Per-lane gather load as plain reads. -/
  | opLd (e : Bool) (d : BitVec 8) (a : BitVec 8) (s : BitVec 5) (h : BitVec 3)
  /-- ST (R463): Per-lane scatter store as plain writes. -/
  | opSt (e : Bool) (d : BitVec 8) (a : BitVec 8) (s : BitVec 5) (h : BitVec 3)
  /-- LDA (R403): Per-lane load-acquire at a scope. -/
  | opLda (e : Bool) (d : BitVec 8) (a : BitVec 8) (s : BitVec 5) (h : BitVec 3)
  /-- STL (R465): Per-lane store-release at a scope; notify store when it targets TAIL. -/
  | opStl (e : Bool) (d : BitVec 8) (a : BitVec 8) (s : BitVec 5) (h : BitVec 3)
  /-- LDS (R405): Per-lane load from own or peer scratchpad, or a port. -/
  | opLds (e : Bool) (d : BitVec 8) (a : BitVec 8) (s : BitVec 5)
  /-- STS (R466): Per-lane store to own or peer scratchpad, or a port. -/
  | opSts (e : Bool) (d : BitVec 8) (a : BitVec 8) (s : BitVec 5)
  /-- LDACC (R404): Loads one 32-column segment of an accumulator row into lanes. -/
  | opLdacc (e : Bool) (x : BitVec 8) (y : BitVec 8) (z : BitVec 8)
  /-- STACC (R464): Stores lanes into one 32-column segment of an accumulator row. -/
  | opStacc (e : Bool) (x : BitVec 8) (y : BitVec 8) (z : BitVec 8)
  /-- PREF (R436): Prefetches lines into the home slice and L1 without delivering data. -/
  | opPref (e : Bool) (a : BitVec 8) (s : BitVec 5) (h : BitVec 3)
  /-- TAGQ (R470): Looks up each lane's address in the software-cached region's tag table. -/
  | opTagq (e : Bool) (d : BitVec 8) (a : BitVec 8)
  /-- TAGW (R471): Installs each lane's address in the tag table, returning slot and old entry. -/
  | opTagw (e : Bool) (d : BitVec 8) (a : BitVec 8)
  /-- TAGX (R471): Evicts each lane's address from the tag table, returning slot and old entry. -/
  | opTagx (e : Bool) (d : BitVec 8) (a : BitVec 8)
  /-- FENCE (R393): Holds later accesses of the path until the scope's completion condition holds. -/
  | opFence (e : Bool) (h : BitVec 3)
  /-- WAITC (R476): Waits until a counter class is at most n. -/
  | opWaitc (e : Bool) (c : BitVec 2) (n : BitVec 8)
  /-- WAITG (R477): Waits until SC and AC are zero and FT passes GWMAX. -/
  | opWaitg (e : Bool)
  /-- ATOM (R347): Per-lane atomic read-modify-write returning the old value. -/
  | opAtom (e : Bool) (d : BitVec 8) (a : BitVec 8) (o : BitVec 4) (s : BitVec 3)
  /-- RED (R440): Per-lane atomic update discarding the old value. -/
  | opRed (e : Bool) (d : BitVec 8) (a : BitVec 8) (o : BitVec 4) (s : BitVec 3)
  /-- CAS (R369): Per-lane 32- or 64-bit compare and swap. -/
  | opCas (e : Bool) (d : BitVec 8) (a : BitVec 8) (s : BitVec 3)
  /-- CAS128 (R370): Per-lane 128-bit compare and swap. -/
  | opCas128 (e : Bool) (d : BitVec 8) (a : BitVec 8) (s : BitVec 3)
  /-- ATOM2 (R350): Atomic operation on two adjacent elements per lane. -/
  | opAtom2 (e : Bool) (d : BitVec 8) (a : BitVec 8) (o : BitVec 4) (s : BitVec 3)
  /-- REDH (R442): Combines lane data into the core's Herd partial of each touched line. -/
  | opRedh (e : Bool) (d : BitVec 8) (a : BitVec 8) (t : BitVec 4) (s : BitVec 3)
  /-- MWAIT (R422): Registers a monitor at the home slice and waits until the word meets the condition. -/
  | opMwait (e : Bool) (d : BitVec 8) (a : BitVec 8) (c : BitVec 4)
  /-- LOCK (R406): Requests a die lock and waits until the grant push completes. -/
  | opLock (e : Bool) (n : BitVec 8) (o : BitVec 8)
  /-- UNLK (R473): Writes back marked lines, waits for their GWCT and passes the lock on. -/
  | opUnlk (e : Bool) (n : BitVec 8)
  /-- BARA (R352): Arrives at a named barrier with an expected count. -/
  | opBara (e : Bool) (i : BitVec 8) (n : BitVec 8)
  /-- BARW (R354): Waits for the named barrier's next phase completion. -/
  | opBarw (e : Bool) (i : BitVec 8)
  /-- BARS (R353): Arrives at a named barrier and then waits on it. -/
  | opBars (e : Bool) (i : BitVec 8) (n : BitVec 8)
  /-- HBAR (R400): Makes the block's arrival at the grid barrier and waits for the phase. -/
  | opHbar (e : Bool) (h : BitVec 3)
  /-- BNEW (R360): Creates a barrier object and returns its handle. -/
  | opBnew (e : Bool) (x : BitVec 8) (y : BitVec 8)
  /-- BDEL (R356): Frees a barrier object and advances its generation. -/
  | opBdel (e : Bool) (y : BitVec 8)
  /-- BOA (R361): Arrives at a barrier object and returns the phase token. -/
  | opBoa (e : Bool) (x : BitVec 8) (y : BitVec 8)
  /-- BOW (R362): Waits until the barrier object's phase differs from the token. -/
  | opBow (e : Bool) (x : BitVec 8) (y : BitVec 8)
  /-- POST (R435): Posts each ACTIVE lane's record to a work-graph node as a release. -/
  | opPost (e : Bool) (x : BitVec 8) (y : BitVec 8) (z : BitVec 8)
  /-- BRA (R363): Uniform branch on a predicate judged over the live set. -/
  | opBra (p : BitVec 4) (o : BitVec 20)
  /-- BRD (R364): Divergent branch that splits the path or pushes a divergence entry. -/
  | opBrd (p : BitVec 4) (t : BitVec 10) (j : BitVec 10)
  /-- BRX (R366): Branches to the 64-bit address in a scalar register. -/
  | opBrx (a : BitVec 8)
  /-- CALL (R367): Uniform call pushing the return address. -/
  | opCall (p : BitVec 4) (o : BitVec 20)
  /-- RET (R444): Uniform return popping the newest return entry. -/
  | opRet (p : BitVec 4)
  /-- DISP (R389): Chooses a shape bucket from the dispatch table and continues at its entry. -/
  | opDisp (a : BitVec 8)
  /-- WLD (R478): Loads a weight tile into a bank and sets the bank's pending format. -/
  | opWld (e : Bool) (n : BitVec 8) (b : BitVec 1)
  /-- MSTR (R418): Streams activation rows through a weight bank into accumulator rows. -/
  | opMstr (e : Bool) (n : BitVec 8) (b : BitVec 1)
  /-- MFENCE (R415): Closes the open matrix operations into a batch and returns its number. -/
  | opMfence (e : Bool) (d : BitVec 8)
  /-- MWAITB (R423): Waits until a matrix batch has retired. -/
  | opMwaitb (e : Bool) (n : BitVec 8)
  /-- MDRN (R413): Drains accumulator rows tile by tile to memory or scratchpad. -/
  | opMdrn (e : Bool) (n : BitVec 8)
  /-- MCLR (R411): Clears a range of accumulator rows to +0. -/
  | opMclr (e : Bool) (r : BitVec 8) (c : BitVec 8)
  /-- MWIN (R424): Sets a group's accumulator window for its next run. -/
  | opMwin (e : Bool) (g : BitVec 8) (b : BitVec 8) (l : BitVec 8)
  /-- CPY (R381): Builds and publishes a one-dimensional copy ring entry. -/
  | opCpy (e : Bool) (x : BitVec 8) (y : BitVec 8)
  /-- CPY2D (R382): Builds and publishes a two-dimensional copy ring entry. -/
  | opCpy2d (e : Bool) (x : BitVec 8) (y : BitVec 8)
  /-- CPYW (R383): Publishes a copy ring entry from four registers verbatim. -/
  | opCpyw (e : Bool) (x : BitVec 8)
  /-- CNTA (R377): Adds to a completion counter as one synchronisation write. -/
  | opCnta (e : Bool) (x : BitVec 8) (y : BitVec 8)
  /-- CNTW (R378): Waits until a completion counter reaches a target. -/
  | opCntw (e : Bool) (x : BitVec 8) (y : BitVec 8)
  /-- SLOT_ARBITRATION (R85): A free slot picks the oldest ready path, which executes its whole run. -/
  | evSlotArbitration (core slot : Nat)
  /-- BELLWETHER_ISSUE (R20): The bellwether pipeline issues one word of the oldest ready stream each clock. -/
  | evBellwetherIssue (core : Nat)
  /-- LOAD_DATA_ARRIVAL (R90): Load data arrive; the destination is written and a parked group becomes ready. -/
  | evLoadDataArrival (p : Party) (op : Nat)
  /-- STORE_COMPLETION (R176): A write's completion returns its GWCT, updates GWMAX and lowers the counter in completion order. -/
  | evStoreCompletion (p : Party) (op : Nat)
  /-- WAIT_SATISFIED (R91): A waiting instruction's condition comes to hold and the path resumes. -/
  | evWaitSatisfied (p : Party)
  /-- HELD_WRITE_PERFORM (R173): A held synchronisation write is performed once every lease on its line has ended or been revoked. -/
  | evHeldWritePerform (line : Nat)
  /-- REVOCATION (R173): A core receives a lease revocation, drops the line and acknowledges. -/
  | evRevocation (core line : Nat)
  /-- TILE_LOADED (R128): A WLD's tile has been read and the bank takes it with its format. -/
  | evTileLoaded (blk op : Nat)
  /-- BANK_RELOAD (R123): A stream needing a bank holding another block's tile first replays its block's last WLD. -/
  | evBankReload (blk op : Nat)
  /-- STREAM_ROW (R131): A stream row completes and RPROG advances; the stream retires after its last row. -/
  | evStreamRow (blk op : Nat)
  /-- DRAIN_TILE (R141): A drain tile is written or applied indivisibly and RPROG advances. -/
  | evDrainTile (blk op : Nat)
  /-- BATCH_RETIRE (R134): A batch retires when its operations are complete and earlier batches have retired. -/
  | evBatchRetire (blk : Nat)
  /-- ENGINE_FAULT (R132): A refused page request on engine traffic fails the batch and defers the fault to the bellwether. -/
  | evEngineFault (blk op code : Nat) (addr : W64) (write : Bool)
  /-- COPY_LINE (R162): The Mule moves one line of a ready copy entry in turn. -/
  | evCopyLine (blk idx : Nat)
  /-- COPY_COMPLETION (R162): A copy completes in ring order: GWCT passes, counter add, barrier arrival, HEAD advance. -/
  | evCopyCompletion (blk : Nat)
  /-- LOCK_GRANT (R155): A lock passes to the next requester, reads its descriptor and pushes the ranges. -/
  | evLockGrant (die num : Nat)
  /-- HBAR_COMPLETION (R49): The barrier network completes a grid barrier phase when every block has arrived or ended. -/
  | evHbarCompletion (msg : BarrierMsg)
  /-- BLOCK_DISPATCH (R46): When room frees the front end places the next fitting cluster of a grid. -/
  | evBlockDispatch (ctx : Nat)
  /-- SWAP_OUT (R57): The front end saves a swappable block to the swap area to make room. -/
  | evSwapOut (grid : Nat)
  /-- SWAP_RETURN (R57): A swapped block whose wait is satisfied returns when it fits. -/
  | evSwapReturn (blk : Nat)
  /-- BLOCK_END (R54): A block ends once all parties retired and its copies and batches completed; resources are freed. -/
  | evBlockEnd (blk : Nat)
  /-- GRID_COMPLETE (R55): A grid's last block ends; a sys release is made and the completion record written. -/
  | evGridComplete (grid : Nat)
  /-- GRAPH_COMPLETE (R287): A GRAPH packet completes when its grid completed and every node is quiescent. -/
  | evGraphComplete (grid : Nat)
  /-- NODE_REPLACE (R287): A re-registering NODE packet replaces the old node once it is quiescent. -/
  | evNodeReplace (ctx node : Nat)
  /-- GATHER_TIMEOUT (R50): A node's gather timeout lapses with records held and a block forms. -/
  | evGatherTimeout (ctx node die : Nat)
  /-- SPILL_RETURN (R286): Spilled records return to the gatherer buffer in first-in first-out order. -/
  | evSpillReturn (ctx node die : Nat)
  /-- DOORBELL (R279): A doorbell write updates the tail latch of its function, PASID and queue. -/
  | evDoorbell (fn : Nat) (v : W64)
  /-- READ_AND_MARK (R280): The sequencer reads a tail latch indivisibly and starts packets of the queue. -/
  | evReadAndMark (latch : Nat)
  /-- FLUSHQ (R275): A FLUSHQ write drops cached queue table entries and rewalks suspended queues. -/
  | evFlushq (fn : Nat) (v : W64)
  /-- DROPS (R274): A read of DROPS returns the discarded doorbell count and clears it. -/
  | evDrops (fn : Nat)
  /-- REGISTER_WRITE (R7): A write to a register with no behaviour of its own sets its fields by their access codes. -/
  | evRegisterWrite (m : Master) (r : RegRef) (v : BitVec 128)
  /-- NOP_PACKET (R281): A NOP command packet completes with no effect. -/
  | evNopPacket (q : PktRef)
  /-- LAUNCH (R282): A LAUNCH packet checks its body and makes a grid of blocks. -/
  | evLaunch (q : PktRef)
  /-- GRAPH (R287): A GRAPH packet launches a grid that completes with its work graph. -/
  | evGraph (q : PktRef)
  /-- NODE (R281): A NODE packet registers a work-graph node with its kernel and gather timeout. -/
  | evNode (q : PktRef)
  /-- LOAD (R289): A LOAD packet checks, copies, relocates and brands a code object. -/
  | evLoad (q : PktRef)
  /-- WAITCNT (R281): A WAITCNT packet completes when a completion counter reaches its target. -/
  | evWaitcnt (q : PktRef)
  /-- CUT (R281): A CUT packet requests a cut of its own context and reports the cut number. -/
  | evCut (q : PktRef)
  /-- STOP (R256): A STOP packet pre-empts a context, or stops and discards it when CHAIN is 0. -/
  | evStop (q : PktRef)
  /-- RESUME (R259): A RESUME packet checks fit and resumes a context from its chain. -/
  | evResume (q : PktRef)
  /-- REGION (R190): A REGION packet switches a region between software-managed and hardware-coherent. -/
  | evRegion (q : PktRef) (others : List RemoteDirty)
  /-- INVAL (R220): An INVAL packet invalidates cached translations and completes when fully covered. -/
  | evInval (q : PktRef)
  /-- HEAPQ (R295): A HEAPQ packet stops the context and reports which code ranges hold no live reference. -/
  | evHeapq (q : PktRef)
  /-- PATCH_BUNDLE (R272): A submitted patch bundle is checked and, if accepted, replaces the patch RAM. -/
  | evPatchBundle (m : Master) (bundle : List Byte)
  /-- STOP_REQUEST (R242): A stop request reaches a core and every party of the context stops at its restart point. -/
  | evStopRequest (ctx : Nat) (cause : StopCause)
  /-- CLOSURE (R244): Closure ends when every access issued before the stop has completed. -/
  | evClosure (ctx : Nat)
  /-- CHECKPOINT_INTERVAL (R245): The context's checkpoint interval expires and a cut time is chosen. -/
  | evCheckpointInterval (ctx : Nat)
  /-- CUT_TIME_PASSED (R246): A core's FT passes T; it stops, stages block state and swaps bitmaps. -/
  | evCutTimePassed (ctx core : Nat)
  /-- CHECKPOINT_STREAM (R251): The die's checkpoint engine reads a streaming-bitmap item and writes it to the memory tier. -/
  | evCheckpointStream (ctx : Nat)
  /-- SNATCH (R252): The engine reads an item ahead of order so a held post-cut write can be performed. -/
  | evSnatch (ctx : Nat) (item : Item) (sub : Nat)
  /-- INCREMENT_COMMIT (R253): Every part's trailer is written and the increment commits. -/
  | evIncrementCommit (ctx : Nat)
  /-- ROLLBACK (R257): The context is stopped and resumed from its last committed cut. -/
  | evRollback (ctx : Nat)
  /-- SAVECOST_UPDATE (R258): The front end recomputes SAVECOST and writes it to the status record. -/
  | evSavecostUpdate (ctx : Nat)
  /-- COMPARE_POINT (R266): Both copies of a paired block reach a compare point and their digests are compared. -/
  | evComparePoint (blk : Nat)
  /-- THIRD_RUN (R268): On disagreement a third run from the pair snapshot decides between the copies. -/
  | evThirdRun (blk : Nat)
  /-- PAGE_RESPONSE (R222): A Page Response arrives and every access waiting on the request walks again or faults. -/
  | evPageResponse (fn idx : Nat) (code : PrCode)
  /-- PAGE_REQUEST_TIMEOUT (R222): A page request gets no response within the function's timeout and is treated as invalid. -/
  | evPageRequestTimeout (fn req : Nat)
  /-- ATS_INVALIDATE (R220): An ATS Invalidate Request from the host invalidates covered translations. -/
  | evAtsInvalidate (fn pasid base len : Nat) (all : Bool)
  /-- PARITY_REBUILD (R233): The recovery engine corrects or poisons words of a column group with flagged classes. -/
  | evParityRebuild (arr : ArrayRef) (g : ColumnGroup)
  /-- SCRUB (R233): The background scrub reads a column group of an array. -/
  | evScrub (arr : ArrayRef) (g : ColumnGroup)
  /-- DATA_CHECK_FAILURE (R239): A line's in-transit check fails; a link resends or the line is poisoned from that hop onward. -/
  | evDataCheckFailure (line : Nat) (hop : CheckHop) (failures : Nat)
  /-- ARRAY_ROW_FAILURE (R240): An array row fails its check and is disabled with a spare brought into use. -/
  | evArrayRowFailure (core row : Nat)
  /-- FWDS (R197): The owner supplies data to a requester and keeps an S or O copy. -/
  | evFwds (line requester : Nat) (terms : Terms)
  /-- FWDX (R197): The owner supplies data to a requester and goes to I. -/
  | evFwdx (line : Nat) (supply : Supply)
  /-- HOMEDATA (R197): The home supplies line data to a requester and sets its fabric bit; `st` is the state the requester takes: S
  or M; or H, or O for an upgrade that the home sees granted, for which no data go (notes/assumptions 46). -/
  | evHomedata (line requester : Nat) (terms : Terms) (st : FState)
  /-- GRANT (R199): Ownership is granted without data; the held writes are performed. -/
  | evGrant (line invs lend floor : Nat)
  /-- DATA (R196): A requester receives a line with its state, lease end and INV count; `code` is 0, 0x0F where the line is
  poisoned, or the error answer 0x08 PERM or 0x09 WINREV in its place (R308). -/
  | evData (line : Nat) (bytes : List Byte) (st : FState) (leaseEnd invs lend floor code : Nat)
  /-- INV (R198): A tracked sharer drops its copy and acknowledges with its latest L1 lease end. -/
  | evInv (line : Nat) (msg : InvMsg)
  /-- ACK (R199): A requester receives a sharer's acknowledgement and t_ack, or the one that completes an
  LREVOKE it asked for (R200). -/
  | evAck (line : Nat) (ack : AckOf)
  /-- RECALL (R211): An owner writes back and drops its copy, or holders send their partials. -/
  | evRecall (msg : RecallMsg)
  /-- HCOLL (R207): A holder package sends HPART with its package-tree value and frees its partials. -/
  | evHcoll (line : Nat) (msg : CollMsg)
  /-- LREVOKE (R200): Every package drops its S copy of the line and acknowledges. -/
  | evLrevoke (msg : RevokeMsg)
  /-- WAIT (R196): The directory asks the requester to reissue after a delay. -/
  | evWait (line : Nat)
  /-- WAIT_RETRY (R196): The WAIT delay lapses and the request is reissued. -/
  | evWaitRetry (line : Nat)
  /-- STALEMAP (R192): A switch with a newer DIRMAP makes the package hold the request until it adopts that version. -/
  | evStalemap (line version : Nat)
  /-- DIRMAP_ADOPT (R193): A package adopts a published DIRMAP, reissues lost requests and sends its census. -/
  | evDirmapAdopt (version : Nat) (changes : List (Nat × Nat)) (failed : List Nat)
  /-- FABRIC_LEASE_EXPIRY (R195): An S copy's fabric lease ends and the copy becomes I. -/
  | evFabricLeaseExpiry (line : Nat)
  /-- MERGE_APPLY (R207): The home applies the merged Herd value as one indivisible update and the entry becomes I. -/
  | evMergeApply (line tag : Nat) (fold : Option (List Byte)) (marks : MergeMarks)
  /-- LOST_HOLDER_TIMEOUT (R209): A lost holder's HPART is treated as poisoned after 50 ms. -/
  | evLostHolderTimeout (line pkg : Nat)
  /-- TAG_FAILURE (R305): A link packet with a bad tag is dropped, counted and reported. -/
  | evTagFailure (owner : Nat) (pkt : LinkPacket)
  /-- KEY_INSTALL (R303): The fabric manager installs an owner's link key for an epoch. -/
  | evKeyInstall (owner link epoch : Nat)
  /-- FABRIC_TIMEOUT (R306): A fabric request unanswered for 4 ms times out. -/
  | evFabricTimeout (line : Nat)
  /-- HOST_MEM_ACCESS (R297): A host CXL.mem or CXL.io access to device HBM is performed at the home slice. -/
  | evHostMemAccess (req : HostReq) (pa len : Nat) (wr : Option (List Byte))
  /-- ATOMICOP_COMPLETION (R300): A sys-scope AtomicOp completion arrives, returning data or a deferred fault. -/
  | evAtomicopCompletion (id : Nat) (st : CplStatus) (old : List Byte)
  /-- FUNCTION_LEVEL_RESET (R297): FLR stops and discards the function's contexts and resets its registers. -/
  | evFunctionLevelReset (fn : Nat)
  /-- TIER_LINK_FAILURE (R302): A memory-tier port link fails; accesses return poison and streaming increments stay uncommitted. -/
  | evTierLinkFailure (port : Nat)
  /-- TIER_LINK_RESTORE (R302): A memory-tier port comes back and cuts may be taken again. -/
  | evTierLinkRestore (port : Nat)
  /-- REVOKE (R308): Writing STATE 2 to an export window starts its revocation. -/
  | evRevoke (m : Master) (win : Nat)
  /-- REVOKE_COMPLETE (R308): Every recall of a revoking window is acknowledged and STATE becomes 3. -/
  | evRevokeComplete (win : Nat)
  /-- CLAIM (R312): A control master's claim opens or joins an ownership election. -/
  | evClaim (m : Master) (nonce : W32)
  /-- HANDOVER (R313): The owner names a successor. -/
  | evHandover (m succ : Master)
  /-- ACCEPT (R313): The named successor's ACCEPT makes it owner. -/
  | evAccept (m : Master)
  /-- NEGOTIATE_ALGORITHMS (R311): SPDM NEGOTIATE_ALGORITHMS selects ECDSA P-256 and SHA-256. -/
  | evNegotiateAlgorithms (asym hash : Nat)
  /-- GET_CERTIFICATE (R311): SPDM GET_CERTIFICATE request is answered. -/
  | evGetCertificate (slot off len : Nat)
  /-- CHALLENGE (R311): SPDM CHALLENGE request is answered with a signed response. -/
  | evChallenge (nonce : List Byte)
  /-- GET_MEASUREMENTS (R314): Returns the SHA-256 measurement blocks 1 to 6. -/
  | evGetMeasurements (block : Nat)
  /-- BOOT (R314): Boot ROM verifies and measures the firmware and configuration images. -/
  | evBoot (fw link cfg : BootImage)
  /-- POWER_LIMIT (R28): Reaching the board's power limit lowers the arithmetic clock of all cores together. -/
  | evPowerLimit (on : Bool)
  /-- RESERVED_ENCODING (R327): A word whose OP is 0x00 or a reserved major, or that carries a reserved FN code or a wrong fixed field, raises ILLOP before any effect. -/
  | evReservedEncoding (w : W32)
  /-- REVISION_MOVE (R263): The source front end stops dispatching and hands undispatched indices and launches to a target placement with a different FEATMASK. -/
  | evRevisionMove (ctx : Nat) (target : BitVec 128) (featmask : W64)
  /-- CXL_CACHE_SNOOP (R187): The host takes back a 64-byte sector over CXL.cache, and the device writes back its owned written bytes and changes the sector state. -/
  | evCxlCacheSnoop (sector : Nat) (after : List (Nat × Byte))
  /-- COMPLETION_TIMEOUT (R300): A sent AtomicOp or host read gets no completion in time, and the lane consumes poison as a deferred fault. -/
  | evCompletionTimeout (id : Nat)
  /-- PRI_REENABLE (R222): System software re-enables PRI after a Response Failure, so the function may send page requests again. -/
  | evPriReenable (fn : Nat)
  /-- PAGE_REQUEST_ALLOCATION (R221): System software raises the function's PRI Outstanding Page Request Allocation, and queued page requests may be sent. -/
  | evPageRequestAllocation (fn n : Nat)
  /-- IEEE_1588_SYNC (R10): IEEE 1588 synchronisation messages keep the package time base within the stated bound of the pod's grandmaster. -/
  | evIeee1588Sync (t : Nat)
  /-- POD_FORMATION (R23): The fabric manager forms the pod, setting the FT epoch, the package number, the owner index and LEASEF. -/
  | evPodFormation (pkg owner leaseF epoch : Nat)
  /-- WBACK (R196): The home package receives the dirty data of a given-up or recalled E, M or O copy and writes them to its memory. -/
  | evWback (line : Nat) (data : GivenUp)
  /-- FABRIC_REQUEST (R307): A request from another package reaches the home, is checked against the export windows, and is performed or answered PERM or WINREV. -/
  | evFabricRequest (owner requester pa : Nat) (k : ReqKind)
  /-- CENSUS_POISON (R213): After a census, the home writes a contradictory or lost-owner line as poison and logs a census-poison record. -/
  | evCensusPoison (msg : CensusMsg)
  /-- EXIT (R391): Retires a converged group or ends the bellwether stream. -/
  | opExit
  /-- DONE (R390): Finishes the lanes of the current path. -/
  | opDone
  /-- SEQUENCER_RESTART (R273): The sequencer restart that applies an accepted bundle completes and packets resume from PROG. -/
  | evSequencerRestart
  /-- ELECTION_END (R312): The 100 ms election window closes and the winning claim becomes owner. -/
  | evElectionEnd
  /-- HANDOVER_TIMEOUT (R313): No ACCEPT within 1 s leaves the old owner in place. -/
  | evHandoverTimeout
  /-- OWNER_SILENCE (R313): An owner silent for 10 s loses ownership. -/
  | evOwnerSilence
  /-- GET_VERSION (R311): SPDM GET_VERSION request is answered. -/
  | evGetVersion
  /-- GET_CAPABILITIES (R311): SPDM GET_CAPABILITIES request is answered. -/
  | evGetCapabilities
  /-- GET_DIGESTS (R311): SPDM GET_DIGESTS request is answered. -/
  | evGetDigests
  /-- DEVICE_RESET (R8): Device reset sets every field to its reset value and empties the patch RAM. -/
  | evDeviceReset
  deriving DecidableEq, Repr

end Sys2Proof
end

