-- ==== Sys2Proof/Decode.lean ====
section
/-! DEFINITION. The decoder of one instruction word, total on words and on byte lists, and after it the encoder, both from
the formats, opcode map, FN codes and fixed fields of 14_encoding (R315, R316, R326 to R329). -/

namespace Sys2Proof

/-- R315: E, bit 31. -/
def fE (w : W32) : Bool := w.getLsbD 31

/-- R315: OP, bits 30:24. -/
def fOp (w : W32) : BitVec 7 := w.extractLsb' 24 7

/-- R316: a word from E, OP and bits 23:0. -/
def word (e : Bool) (op : BitVec 7) (low : BitVec 24) : W32 := (BitVec.ofBool e ++ op) ++ low

/-- The instruction a word encodes. A word whose OP is 0x00 or a reserved major, or that holds a reserved FN code or another
value in a fixed field (E of the branch row included, R81), decodes to the row RESERVED_ENCODING. -/
def decode (w : W32) : Instr :=
  match (fOp w).toNat with
  | 0x01 => if w.extractLsb' 0 24 == 0x0#24 then .opNop (fE w) else .evReservedEncoding w
  | 0x02 => if w.extractLsb' 16 8 == 0x0#8 then .opSetm (fE w) (w.extractLsb' 0 16) else .evReservedEncoding w
  | 0x03 => if w.extractLsb' 0 16 == 0x0#16 then .opGetm (fE w) (w.extractLsb' 16 8) else .evReservedEncoding w
  | 0x04 => if w.extractLsb' 0 8 == 0x0#8 && w.extractLsb' 16 8 == 0x0#8 then .opSetmx (fE w) (w.extractLsb' 8 8) else .evReservedEncoding w
  | 0x05 => .opSysv (fE w) (w.extractLsb' 16 8) (w.extractLsb' 0 16)
  | 0x06 => .opCrd (fE w) (w.extractLsb' 16 8) (w.extractLsb' 0 16)
  | 0x07 => .opCwr (fE w) (w.extractLsb' 16 8) (w.extractLsb' 0 16)
  | 0x08 => if w.extractLsb' 16 8 == 0x0#8 then .opTrap (fE w) (w.extractLsb' 0 16) else .evReservedEncoding w
  | 0x09 => if w.extractLsb' 0 24 == 0x0#24 then .opRte (fE w) else .evReservedEncoding w
  | 0x0A => if w.extractLsb' 0 24 == 0x0#24 then .opYield (fE w) else .evReservedEncoding w
  | 0x0B => if w.extractLsb' 0 24 == 0x0#24 then .opCkpt (fE w) else .evReservedEncoding w
  | 0x0C => if w.extractLsb' 0 8 == 0x0#8 then .opChq (fE w) (w.extractLsb' 16 8) (w.extractLsb' 8 8) else .evReservedEncoding w
  | 0x10 => .opAdd (fE w) (w.extractLsb' 16 8) (w.extractLsb' 8 8) (w.extractLsb' 0 8)
  | 0x11 => .opSub (fE w) (w.extractLsb' 16 8) (w.extractLsb' 8 8) (w.extractLsb' 0 8)
  | 0x12 => .opMul (fE w) (w.extractLsb' 16 8) (w.extractLsb' 8 8) (w.extractLsb' 0 8)
  | 0x13 => .opMad (fE w) (w.extractLsb' 16 8) (w.extractLsb' 8 8) (w.extractLsb' 0 8)
  | 0x14 => .opMin (fE w) (w.extractLsb' 16 8) (w.extractLsb' 8 8) (w.extractLsb' 0 8)
  | 0x15 => .opMax (fE w) (w.extractLsb' 16 8) (w.extractLsb' 8 8) (w.extractLsb' 0 8)
  | 0x16 => .opAnd (fE w) (w.extractLsb' 16 8) (w.extractLsb' 8 8) (w.extractLsb' 0 8)
  | 0x17 => .opOr (fE w) (w.extractLsb' 16 8) (w.extractLsb' 8 8) (w.extractLsb' 0 8)
  | 0x18 => .opXor (fE w) (w.extractLsb' 16 8) (w.extractLsb' 8 8) (w.extractLsb' 0 8)
  | 0x19 => .opShl (fE w) (w.extractLsb' 16 8) (w.extractLsb' 8 8) (w.extractLsb' 0 8)
  | 0x1A => .opShr (fE w) (w.extractLsb' 16 8) (w.extractLsb' 8 8) (w.extractLsb' 0 8)
  | 0x1B => .opSar (fE w) (w.extractLsb' 16 8) (w.extractLsb' 8 8) (w.extractLsb' 0 8)
  | 0x1C => .opSel (fE w) (w.extractLsb' 16 8) (w.extractLsb' 8 8) (w.extractLsb' 0 8)
  | 0x1D => .opMulh (fE w) (w.extractLsb' 16 8) (w.extractLsb' 8 8) (w.extractLsb' 0 8)
  | 0x1E => .opCmp (fE w) (w.extractLsb' 20 4) (w.extractLsb' 16 4) (w.extractLsb' 8 8) (w.extractLsb' 0 8)
  | 0x1F => if w.extractLsb' 0 8 == 0x0#8 then .opMov (fE w) (w.extractLsb' 16 8) (w.extractLsb' 8 8) else .evReservedEncoding w
  | 0x20 => if w.extractLsb' 0 8 == 0x0#8 then .opAbs (fE w) (w.extractLsb' 16 8) (w.extractLsb' 8 8) else if w.extractLsb' 0 8 == 0x1#8 then .opNeg (fE w) (w.extractLsb' 16 8) (w.extractLsb' 8 8) else if w.extractLsb' 0 8 == 0x2#8 then .opNot (fE w) (w.extractLsb' 16 8) (w.extractLsb' 8 8) else if w.extractLsb' 0 8 == 0x3#8 then .opRcp (fE w) (w.extractLsb' 16 8) (w.extractLsb' 8 8) else if w.extractLsb' 0 8 == 0x4#8 then .opRsq (fE w) (w.extractLsb' 16 8) (w.extractLsb' 8 8) else if w.extractLsb' 0 8 == 0x5#8 then .opSqrt (fE w) (w.extractLsb' 16 8) (w.extractLsb' 8 8) else if w.extractLsb' 0 8 == 0x6#8 then .opExp2 (fE w) (w.extractLsb' 16 8) (w.extractLsb' 8 8) else if w.extractLsb' 0 8 == 0x7#8 then .opLog2 (fE w) (w.extractLsb' 16 8) (w.extractLsb' 8 8) else if w.extractLsb' 0 8 == 0x8#8 then .opSin (fE w) (w.extractLsb' 16 8) (w.extractLsb' 8 8) else if w.extractLsb' 0 8 == 0x9#8 then .opCos (fE w) (w.extractLsb' 16 8) (w.extractLsb' 8 8) else if w.extractLsb' 0 8 == 0xA#8 then .opRint (fE w) (w.extractLsb' 16 8) (w.extractLsb' 8 8) else if w.extractLsb' 0 8 == 0xB#8 then .opClz (fE w) (w.extractLsb' 16 8) (w.extractLsb' 8 8) else if w.extractLsb' 0 8 == 0xC#8 then .opPopc (fE w) (w.extractLsb' 16 8) (w.extractLsb' 8 8) else if w.extractLsb' 0 8 == 0xD#8 then .opBrev (fE w) (w.extractLsb' 16 8) (w.extractLsb' 8 8) else if w.extractLsb' 0 8 == 0xE#8 then .opClass (fE w) (w.extractLsb' 16 8) (w.extractLsb' 8 8) else .evReservedEncoding w
  | 0x21 => if w.extractLsb' 4 4 == 0x0#4 then .opCvt (fE w) (w.extractLsb' 16 8) (w.extractLsb' 8 8) (w.extractLsb' 0 4) else .evReservedEncoding w
  | 0x22 => if w.extractLsb' 0 8 == 0x0#8 then .opCvtb (fE w) (w.extractLsb' 16 8) (w.extractLsb' 8 8) else if w.extractLsb' 0 8 == 0x1#8 then .opCvtbGiven (fE w) (w.extractLsb' 16 8) (w.extractLsb' 8 8) else .evReservedEncoding w
  | 0x23 => if w.extractLsb' 0 8 == 0x0#8 then .opUnpb (fE w) (w.extractLsb' 16 8) (w.extractLsb' 8 8) else .evReservedEncoding w
  | 0x24 => .opBfe (fE w) (w.extractLsb' 16 8) (w.extractLsb' 8 8) (w.extractLsb' 0 8)
  | 0x25 => .opBfi (fE w) (w.extractLsb' 16 8) (w.extractLsb' 8 8) (w.extractLsb' 0 8)
  | 0x30 => .opShfl (fE w) (w.extractLsb' 16 8) (w.extractLsb' 8 8) (w.extractLsb' 0 8)
  | 0x31 => .opShfx (fE w) (w.extractLsb' 16 8) (w.extractLsb' 8 8) (w.extractLsb' 0 8)
  | 0x32 => .opShup (fE w) (w.extractLsb' 16 8) (w.extractLsb' 8 8) (w.extractLsb' 0 8)
  | 0x33 => .opShdn (fE w) (w.extractLsb' 16 8) (w.extractLsb' 8 8) (w.extractLsb' 0 8)
  | 0x34 => if w.extractLsb' 0 8 == 0x0#8 then .opVany (fE w) (w.extractLsb' 16 8) (w.extractLsb' 8 8) else if w.extractLsb' 0 8 == 0x1#8 then .opVall (fE w) (w.extractLsb' 16 8) (w.extractLsb' 8 8) else if w.extractLsb' 0 8 == 0x2#8 then .opVuni (fE w) (w.extractLsb' 16 8) (w.extractLsb' 8 8) else if w.extractLsb' 0 8 == 0x3#8 then .opVbal (fE w) (w.extractLsb' 16 8) (w.extractLsb' 8 8) else .evReservedEncoding w
  | 0x35 => if w.extractLsb' 0 8 == 0x0#8 then .opGsum (fE w) (w.extractLsb' 16 8) (w.extractLsb' 8 8) else if w.extractLsb' 0 8 == 0x1#8 then .opGmin (fE w) (w.extractLsb' 16 8) (w.extractLsb' 8 8) else if w.extractLsb' 0 8 == 0x2#8 then .opGmax (fE w) (w.extractLsb' 16 8) (w.extractLsb' 8 8) else if w.extractLsb' 0 8 == 0x3#8 then .opGscan (fE w) (w.extractLsb' 16 8) (w.extractLsb' 8 8) else .evReservedEncoding w
  | 0x36 => if w.extractLsb' 0 4 == 0x0#4 then .opPand (fE w) (w.extractLsb' 16 8) (w.extractLsb' 8 8) (w.extractLsb' 4 4) else if w.extractLsb' 0 4 == 0x1#4 then .opPor (fE w) (w.extractLsb' 16 8) (w.extractLsb' 8 8) (w.extractLsb' 4 4) else if w.extractLsb' 0 4 == 0x2#4 then .opPxor (fE w) (w.extractLsb' 16 8) (w.extractLsb' 8 8) (w.extractLsb' 4 4) else if w.extractLsb' 0 8 == 0x3#8 then .opPnot (fE w) (w.extractLsb' 16 8) (w.extractLsb' 8 8) else .evReservedEncoding w
  | 0x37 => if w.extractLsb' 0 8 == 0x0#8 then .opPset (fE w) (w.extractLsb' 16 8) (w.extractLsb' 8 8) else if w.extractLsb' 0 8 == 0x1#8 then .opPsetFirst (fE w) (w.extractLsb' 16 8) (w.extractLsb' 8 8) else if w.extractLsb' 0 8 == 0x2#8 then .opPsetNz (fE w) (w.extractLsb' 16 8) (w.extractLsb' 8 8) else .evReservedEncoding w
  | 0x38 => if w.extractLsb' 0 8 == 0x0#8 then .opPcnt (fE w) (w.extractLsb' 16 8) (w.extractLsb' 8 8) else .evReservedEncoding w
  | 0x40 => .opSadd (fE w) (w.extractLsb' 16 8) (w.extractLsb' 8 8) (w.extractLsb' 0 8)
  | 0x41 => .opSsub (fE w) (w.extractLsb' 16 8) (w.extractLsb' 8 8) (w.extractLsb' 0 8)
  | 0x42 => .opSmul (fE w) (w.extractLsb' 16 8) (w.extractLsb' 8 8) (w.extractLsb' 0 8)
  | 0x43 => .opSand (fE w) (w.extractLsb' 16 8) (w.extractLsb' 8 8) (w.extractLsb' 0 8)
  | 0x44 => .opSor (fE w) (w.extractLsb' 16 8) (w.extractLsb' 8 8) (w.extractLsb' 0 8)
  | 0x45 => .opSxor (fE w) (w.extractLsb' 16 8) (w.extractLsb' 8 8) (w.extractLsb' 0 8)
  | 0x46 => .opSshl (fE w) (w.extractLsb' 16 8) (w.extractLsb' 8 8) (w.extractLsb' 0 8)
  | 0x47 => .opSshr (fE w) (w.extractLsb' 16 8) (w.extractLsb' 8 8) (w.extractLsb' 0 8)
  | 0x48 => .opSmin (fE w) (w.extractLsb' 16 8) (w.extractLsb' 8 8) (w.extractLsb' 0 8)
  | 0x49 => .opSmax (fE w) (w.extractLsb' 16 8) (w.extractLsb' 8 8) (w.extractLsb' 0 8)
  | 0x4A => if w.extractLsb' 0 8 == 0x0#8 then .opSmov (fE w) (w.extractLsb' 16 8) (w.extractLsb' 8 8) else .evReservedEncoding w
  | 0x4B => .opScmp (fE w) (w.extractLsb' 20 4) (w.extractLsb' 16 4) (w.extractLsb' 8 8) (w.extractLsb' 0 8)
  | 0x4C => .opSli (fE w) (w.extractLsb' 16 8) (w.extractLsb' 0 16)
  | 0x4D => .opSlh (fE w) (w.extractLsb' 16 8) (w.extractLsb' 0 16)
  | 0x4E => .opSld (fE w) (w.extractLsb' 16 8) (w.extractLsb' 8 8) (w.extractLsb' 3 5) (w.extractLsb' 0 3)
  | 0x4F => .opSst (fE w) (w.extractLsb' 16 8) (w.extractLsb' 8 8) (w.extractLsb' 3 5) (w.extractLsb' 0 3)
  | 0x50 => .opLd (fE w) (w.extractLsb' 16 8) (w.extractLsb' 8 8) (w.extractLsb' 3 5) (w.extractLsb' 0 3)
  | 0x51 => .opSt (fE w) (w.extractLsb' 16 8) (w.extractLsb' 8 8) (w.extractLsb' 3 5) (w.extractLsb' 0 3)
  | 0x52 => .opLda (fE w) (w.extractLsb' 16 8) (w.extractLsb' 8 8) (w.extractLsb' 3 5) (w.extractLsb' 0 3)
  | 0x53 => .opStl (fE w) (w.extractLsb' 16 8) (w.extractLsb' 8 8) (w.extractLsb' 3 5) (w.extractLsb' 0 3)
  | 0x54 => if w.extractLsb' 0 3 == 0x0#3 then .opLds (fE w) (w.extractLsb' 16 8) (w.extractLsb' 8 8) (w.extractLsb' 3 5) else .evReservedEncoding w
  | 0x55 => if w.extractLsb' 0 3 == 0x0#3 then .opSts (fE w) (w.extractLsb' 16 8) (w.extractLsb' 8 8) (w.extractLsb' 3 5) else .evReservedEncoding w
  | 0x56 => .opLdacc (fE w) (w.extractLsb' 16 8) (w.extractLsb' 8 8) (w.extractLsb' 0 8)
  | 0x57 => .opStacc (fE w) (w.extractLsb' 16 8) (w.extractLsb' 8 8) (w.extractLsb' 0 8)
  | 0x58 => if w.extractLsb' 16 8 == 0x0#8 then .opPref (fE w) (w.extractLsb' 8 8) (w.extractLsb' 3 5) (w.extractLsb' 0 3) else .evReservedEncoding w
  | 0x59 => if w.extractLsb' 0 8 == 0x0#8 then .opTagq (fE w) (w.extractLsb' 16 8) (w.extractLsb' 8 8) else .evReservedEncoding w
  | 0x5A => if w.extractLsb' 0 8 == 0x0#8 then .opTagw (fE w) (w.extractLsb' 16 8) (w.extractLsb' 8 8) else .evReservedEncoding w
  | 0x5B => if w.extractLsb' 0 8 == 0x0#8 then .opTagx (fE w) (w.extractLsb' 16 8) (w.extractLsb' 8 8) else .evReservedEncoding w
  | 0x5C => if w.extractLsb' 3 21 == 0x0#21 then .opFence (fE w) (w.extractLsb' 0 3) else .evReservedEncoding w
  | 0x5D => if w.extractLsb' 0 8 == 0x0#8 && w.extractLsb' 18 6 == 0x0#6 then .opWaitc (fE w) (w.extractLsb' 16 2) (w.extractLsb' 8 8) else .evReservedEncoding w
  | 0x5E => if w.extractLsb' 0 24 == 0x0#24 then .opWaitg (fE w) else .evReservedEncoding w
  | 0x60 => if w.extractLsb' 0 1 == 0x1#1 then .opAtom (fE w) (w.extractLsb' 16 8) (w.extractLsb' 8 8) (w.extractLsb' 4 4) (w.extractLsb' 1 3) else if w.extractLsb' 0 1 == 0x0#1 then .opRed (fE w) (w.extractLsb' 16 8) (w.extractLsb' 8 8) (w.extractLsb' 4 4) (w.extractLsb' 1 3) else .evReservedEncoding w
  | 0x61 => if w.extractLsb' 0 1 == 0x1#1 && w.extractLsb' 4 4 == 0x0#4 then .opCas (fE w) (w.extractLsb' 16 8) (w.extractLsb' 8 8) (w.extractLsb' 1 3) else .evReservedEncoding w
  | 0x62 => if w.extractLsb' 0 1 == 0x1#1 && w.extractLsb' 4 4 == 0x0#4 then .opCas128 (fE w) (w.extractLsb' 16 8) (w.extractLsb' 8 8) (w.extractLsb' 1 3) else .evReservedEncoding w
  | 0x63 => if w.extractLsb' 0 1 == 0x1#1 then .opAtom2 (fE w) (w.extractLsb' 16 8) (w.extractLsb' 8 8) (w.extractLsb' 4 4) (w.extractLsb' 1 3) else .evReservedEncoding w
  | 0x64 => if w.extractLsb' 0 1 == 0x0#1 then .opRedh (fE w) (w.extractLsb' 16 8) (w.extractLsb' 8 8) (w.extractLsb' 4 4) (w.extractLsb' 1 3) else .evReservedEncoding w
  | 0x65 => if w.extractLsb' 0 4 == 0x1#4 then .opMwait (fE w) (w.extractLsb' 16 8) (w.extractLsb' 8 8) (w.extractLsb' 4 4) else .evReservedEncoding w
  | 0x66 => if w.extractLsb' 16 8 == 0x0#8 then .opLock (fE w) (w.extractLsb' 8 8) (w.extractLsb' 0 8) else .evReservedEncoding w
  | 0x67 => if w.extractLsb' 0 8 == 0x0#8 && w.extractLsb' 16 8 == 0x0#8 then .opUnlk (fE w) (w.extractLsb' 8 8) else .evReservedEncoding w
  | 0x68 => if w.extractLsb' 16 8 == 0x0#8 then .opBara (fE w) (w.extractLsb' 8 8) (w.extractLsb' 0 8) else .evReservedEncoding w
  | 0x69 => if w.extractLsb' 0 8 == 0x0#8 && w.extractLsb' 16 8 == 0x0#8 then .opBarw (fE w) (w.extractLsb' 8 8) else .evReservedEncoding w
  | 0x6A => if w.extractLsb' 16 8 == 0x0#8 then .opBars (fE w) (w.extractLsb' 8 8) (w.extractLsb' 0 8) else .evReservedEncoding w
  | 0x6B => if w.extractLsb' 3 21 == 0x0#21 then .opHbar (fE w) (w.extractLsb' 0 3) else .evReservedEncoding w
  | 0x6C => if w.extractLsb' 0 8 == 0x0#8 then .opBnew (fE w) (w.extractLsb' 16 8) (w.extractLsb' 8 8) else if w.extractLsb' 0 8 == 0x1#8 && w.extractLsb' 16 8 == 0x0#8 then .opBdel (fE w) (w.extractLsb' 8 8) else if w.extractLsb' 0 8 == 0x2#8 then .opBoa (fE w) (w.extractLsb' 16 8) (w.extractLsb' 8 8) else if w.extractLsb' 0 8 == 0x3#8 then .opBow (fE w) (w.extractLsb' 16 8) (w.extractLsb' 8 8) else .evReservedEncoding w
  | 0x6D => .opPost (fE w) (w.extractLsb' 16 8) (w.extractLsb' 8 8) (w.extractLsb' 0 8)
  | 0x70 => if fE w then .opBra (w.extractLsb' 20 4) (w.extractLsb' 0 20) else .evReservedEncoding w
  | 0x71 => if fE w then .opBrd (w.extractLsb' 20 4) (w.extractLsb' 10 10) (w.extractLsb' 0 10) else .evReservedEncoding w
  | 0x72 => if fE w && w.extractLsb' 0 8 == 0x0#8 && w.extractLsb' 16 8 == 0x0#8 then .opBrx (w.extractLsb' 8 8) else .evReservedEncoding w
  | 0x73 => if fE w then .opCall (w.extractLsb' 20 4) (w.extractLsb' 0 20) else .evReservedEncoding w
  | 0x74 => if fE w && w.extractLsb' 0 20 == 0x0#20 then .opRet (w.extractLsb' 20 4) else .evReservedEncoding w
  | 0x75 => if fE w && w.extractLsb' 0 8 == 0x0#8 && w.extractLsb' 16 8 == 0x0#8 then .opDisp (w.extractLsb' 8 8) else .evReservedEncoding w
  | 0x76 => if fE w && w.extractLsb' 0 24 == 0x0#24 then .opExit else .evReservedEncoding w
  | 0x77 => if fE w && w.extractLsb' 0 24 == 0x0#24 then .opDone else .evReservedEncoding w
  | 0x78 => if w.extractLsb' 1 7 == 0x0#7 && w.extractLsb' 16 8 == 0x0#8 then .opWld (fE w) (w.extractLsb' 8 8) (w.extractLsb' 0 1) else .evReservedEncoding w
  | 0x79 => if w.extractLsb' 1 7 == 0x0#7 && w.extractLsb' 16 8 == 0x0#8 then .opMstr (fE w) (w.extractLsb' 8 8) (w.extractLsb' 0 1) else .evReservedEncoding w
  | 0x7A => if w.extractLsb' 0 16 == 0x0#16 then .opMfence (fE w) (w.extractLsb' 16 8) else .evReservedEncoding w
  | 0x7B => if w.extractLsb' 0 8 == 0x0#8 && w.extractLsb' 16 8 == 0x0#8 then .opMwaitb (fE w) (w.extractLsb' 8 8) else .evReservedEncoding w
  | 0x7C => if w.extractLsb' 0 8 == 0x0#8 && w.extractLsb' 16 8 == 0x0#8 then .opMdrn (fE w) (w.extractLsb' 8 8) else .evReservedEncoding w
  | 0x7D => if w.extractLsb' 0 8 == 0x0#8 then .opMclr (fE w) (w.extractLsb' 16 8) (w.extractLsb' 8 8) else .evReservedEncoding w
  | 0x7E => .opMwin (fE w) (w.extractLsb' 16 8) (w.extractLsb' 8 8) (w.extractLsb' 0 8)
  | 0x7F => if w.extractLsb' 0 8 == 0x0#8 then .opCpy (fE w) (w.extractLsb' 16 8) (w.extractLsb' 8 8) else if w.extractLsb' 0 8 == 0x1#8 then .opCpy2d (fE w) (w.extractLsb' 16 8) (w.extractLsb' 8 8) else if w.extractLsb' 0 16 == 0x2#16 then .opCpyw (fE w) (w.extractLsb' 16 8) else if w.extractLsb' 0 8 == 0x3#8 then .opCnta (fE w) (w.extractLsb' 16 8) (w.extractLsb' 8 8) else if w.extractLsb' 0 8 == 0x4#8 then .opCntw (fE w) (w.extractLsb' 16 8) (w.extractLsb' 8 8) else .evReservedEncoding w
  | _ => .evReservedEncoding w

/-- Why bytes decode to no word. -/
inductive DecodeError where
  | shortWord
  deriving DecidableEq, Repr

/-- R5, R315: the little-endian word at the head of a byte list, with the rest. -/
def wordOfBytes : List Byte → Except DecodeError (W32 × List Byte)
  | b0 :: b1 :: b2 :: b3 :: rest => .ok (b3 ++ b2 ++ b1 ++ b0, rest)
  | _ => .error .shortWord

/-- R315: an instruction from bytes. -/
def decodeBytes (bs : List Byte) : Except DecodeError (Instr × List Byte) :=
  match wordOfBytes bs with
  | .ok (w, rest) => .ok (decode w, rest)
  | .error e => .error e

/-- The word of an instruction. An event is no word of the instruction set; it answers 0, which no instruction encodes
(R315). -/
def encode : Instr → W32
  | .opNop e => word e 0x01#7 (0x0#24)
  | .opSetm e i => word e 0x02#7 (0x0#8 ++ i)
  | .opGetm e d => word e 0x03#7 (d ++ 0x0#16)
  | .opSetmx e a => word e 0x04#7 (0x0#8 ++ a ++ 0x0#8)
  | .opSysv e d i => word e 0x05#7 (d ++ i)
  | .opCrd e d i => word e 0x06#7 (d ++ i)
  | .opCwr e a i => word e 0x07#7 (a ++ i)
  | .opTrap e i => word e 0x08#7 (0x0#8 ++ i)
  | .opRte e => word e 0x09#7 (0x0#24)
  | .opYield e => word e 0x0A#7 (0x0#24)
  | .opCkpt e => word e 0x0B#7 (0x0#24)
  | .opChq e d c => word e 0x0C#7 (d ++ c ++ 0x0#8)
  | .opAdd e d a b => word e 0x10#7 (d ++ a ++ b)
  | .opSub e d a b => word e 0x11#7 (d ++ a ++ b)
  | .opMul e d a b => word e 0x12#7 (d ++ a ++ b)
  | .opMad e x y z => word e 0x13#7 (x ++ y ++ z)
  | .opMin e d a b => word e 0x14#7 (d ++ a ++ b)
  | .opMax e d a b => word e 0x15#7 (d ++ a ++ b)
  | .opAnd e d a b => word e 0x16#7 (d ++ a ++ b)
  | .opOr e d a b => word e 0x17#7 (d ++ a ++ b)
  | .opXor e d a b => word e 0x18#7 (d ++ a ++ b)
  | .opShl e d a b => word e 0x19#7 (d ++ a ++ b)
  | .opShr e d a b => word e 0x1A#7 (d ++ a ++ b)
  | .opSar e d a b => word e 0x1B#7 (d ++ a ++ b)
  | .opSel e d a b => word e 0x1C#7 (d ++ a ++ b)
  | .opMulh e d a b => word e 0x1D#7 (d ++ a ++ b)
  | .opCmp e c p a b => word e 0x1E#7 (c ++ p ++ a ++ b)
  | .opMov e d a => word e 0x1F#7 (d ++ a ++ 0x0#8)
  | .opAbs e d a => word e 0x20#7 (d ++ a ++ 0x0#8)
  | .opNeg e d a => word e 0x20#7 (d ++ a ++ 0x1#8)
  | .opNot e d a => word e 0x20#7 (d ++ a ++ 0x2#8)
  | .opRcp e d a => word e 0x20#7 (d ++ a ++ 0x3#8)
  | .opRsq e d a => word e 0x20#7 (d ++ a ++ 0x4#8)
  | .opSqrt e d a => word e 0x20#7 (d ++ a ++ 0x5#8)
  | .opExp2 e d a => word e 0x20#7 (d ++ a ++ 0x6#8)
  | .opLog2 e d a => word e 0x20#7 (d ++ a ++ 0x7#8)
  | .opSin e d a => word e 0x20#7 (d ++ a ++ 0x8#8)
  | .opCos e d a => word e 0x20#7 (d ++ a ++ 0x9#8)
  | .opRint e d a => word e 0x20#7 (d ++ a ++ 0xA#8)
  | .opClz e d a => word e 0x20#7 (d ++ a ++ 0xB#8)
  | .opPopc e d a => word e 0x20#7 (d ++ a ++ 0xC#8)
  | .opBrev e d a => word e 0x20#7 (d ++ a ++ 0xD#8)
  | .opClass e d a => word e 0x20#7 (d ++ a ++ 0xE#8)
  | .opCvt e d a t => word e 0x21#7 (d ++ a ++ 0x0#4 ++ t)
  | .opCvtb e d a => word e 0x22#7 (d ++ a ++ 0x0#8)
  | .opCvtbGiven e d a => word e 0x22#7 (d ++ a ++ 0x1#8)
  | .opUnpb e d a => word e 0x23#7 (d ++ a ++ 0x0#8)
  | .opBfe e x y z => word e 0x24#7 (x ++ y ++ z)
  | .opBfi e x y z => word e 0x25#7 (x ++ y ++ z)
  | .opShfl e d a b => word e 0x30#7 (d ++ a ++ b)
  | .opShfx e d a b => word e 0x31#7 (d ++ a ++ b)
  | .opShup e d a b => word e 0x32#7 (d ++ a ++ b)
  | .opShdn e d a b => word e 0x33#7 (d ++ a ++ b)
  | .opVany e d a => word e 0x34#7 (d ++ a ++ 0x0#8)
  | .opVall e d a => word e 0x34#7 (d ++ a ++ 0x1#8)
  | .opVuni e d a => word e 0x34#7 (d ++ a ++ 0x2#8)
  | .opVbal e d a => word e 0x34#7 (d ++ a ++ 0x3#8)
  | .opGsum e d a => word e 0x35#7 (d ++ a ++ 0x0#8)
  | .opGmin e d a => word e 0x35#7 (d ++ a ++ 0x1#8)
  | .opGmax e d a => word e 0x35#7 (d ++ a ++ 0x2#8)
  | .opGscan e d a => word e 0x35#7 (d ++ a ++ 0x3#8)
  | .opPand e x y b => word e 0x36#7 (x ++ y ++ b ++ 0x0#4)
  | .opPor e x y b => word e 0x36#7 (x ++ y ++ b ++ 0x1#4)
  | .opPxor e x y b => word e 0x36#7 (x ++ y ++ b ++ 0x2#4)
  | .opPnot e x y => word e 0x36#7 (x ++ y ++ 0x3#8)
  | .opPset e d a => word e 0x37#7 (d ++ a ++ 0x0#8)
  | .opPsetFirst e d a => word e 0x37#7 (d ++ a ++ 0x1#8)
  | .opPsetNz e d a => word e 0x37#7 (d ++ a ++ 0x2#8)
  | .opPcnt e d a => word e 0x38#7 (d ++ a ++ 0x0#8)
  | .opSadd e d a b => word e 0x40#7 (d ++ a ++ b)
  | .opSsub e d a b => word e 0x41#7 (d ++ a ++ b)
  | .opSmul e d a b => word e 0x42#7 (d ++ a ++ b)
  | .opSand e d a b => word e 0x43#7 (d ++ a ++ b)
  | .opSor e d a b => word e 0x44#7 (d ++ a ++ b)
  | .opSxor e d a b => word e 0x45#7 (d ++ a ++ b)
  | .opSshl e d a b => word e 0x46#7 (d ++ a ++ b)
  | .opSshr e d a b => word e 0x47#7 (d ++ a ++ b)
  | .opSmin e d a b => word e 0x48#7 (d ++ a ++ b)
  | .opSmax e d a b => word e 0x49#7 (d ++ a ++ b)
  | .opSmov e d a => word e 0x4A#7 (d ++ a ++ 0x0#8)
  | .opScmp e c p a b => word e 0x4B#7 (c ++ p ++ a ++ b)
  | .opSli e d i => word e 0x4C#7 (d ++ i)
  | .opSlh e d i => word e 0x4D#7 (d ++ i)
  | .opSld e d a s h => word e 0x4E#7 (d ++ a ++ s ++ h)
  | .opSst e d a s h => word e 0x4F#7 (d ++ a ++ s ++ h)
  | .opLd e d a s h => word e 0x50#7 (d ++ a ++ s ++ h)
  | .opSt e d a s h => word e 0x51#7 (d ++ a ++ s ++ h)
  | .opLda e d a s h => word e 0x52#7 (d ++ a ++ s ++ h)
  | .opStl e d a s h => word e 0x53#7 (d ++ a ++ s ++ h)
  | .opLds e d a s => word e 0x54#7 (d ++ a ++ s ++ 0x0#3)
  | .opSts e d a s => word e 0x55#7 (d ++ a ++ s ++ 0x0#3)
  | .opLdacc e x y z => word e 0x56#7 (x ++ y ++ z)
  | .opStacc e x y z => word e 0x57#7 (x ++ y ++ z)
  | .opPref e a s h => word e 0x58#7 (0x0#8 ++ a ++ s ++ h)
  | .opTagq e d a => word e 0x59#7 (d ++ a ++ 0x0#8)
  | .opTagw e d a => word e 0x5A#7 (d ++ a ++ 0x0#8)
  | .opTagx e d a => word e 0x5B#7 (d ++ a ++ 0x0#8)
  | .opFence e h => word e 0x5C#7 (0x0#21 ++ h)
  | .opWaitc e c n => word e 0x5D#7 (0x0#6 ++ c ++ n ++ 0x0#8)
  | .opWaitg e => word e 0x5E#7 (0x0#24)
  | .opAtom e d a o s => word e 0x60#7 (d ++ a ++ o ++ s ++ 0x1#1)
  | .opRed e d a o s => word e 0x60#7 (d ++ a ++ o ++ s ++ 0x0#1)
  | .opCas e d a s => word e 0x61#7 (d ++ a ++ 0x0#4 ++ s ++ 0x1#1)
  | .opCas128 e d a s => word e 0x62#7 (d ++ a ++ 0x0#4 ++ s ++ 0x1#1)
  | .opAtom2 e d a o s => word e 0x63#7 (d ++ a ++ o ++ s ++ 0x1#1)
  | .opRedh e d a t s => word e 0x64#7 (d ++ a ++ t ++ s ++ 0x0#1)
  | .opMwait e d a c => word e 0x65#7 (d ++ a ++ c ++ 0x1#4)
  | .opLock e n o => word e 0x66#7 (0x0#8 ++ n ++ o)
  | .opUnlk e n => word e 0x67#7 (0x0#8 ++ n ++ 0x0#8)
  | .opBara e i n => word e 0x68#7 (0x0#8 ++ i ++ n)
  | .opBarw e i => word e 0x69#7 (0x0#8 ++ i ++ 0x0#8)
  | .opBars e i n => word e 0x6A#7 (0x0#8 ++ i ++ n)
  | .opHbar e h => word e 0x6B#7 (0x0#21 ++ h)
  | .opBnew e x y => word e 0x6C#7 (x ++ y ++ 0x0#8)
  | .opBdel e y => word e 0x6C#7 (0x0#8 ++ y ++ 0x1#8)
  | .opBoa e x y => word e 0x6C#7 (x ++ y ++ 0x2#8)
  | .opBow e x y => word e 0x6C#7 (x ++ y ++ 0x3#8)
  | .opPost e x y z => word e 0x6D#7 (x ++ y ++ z)
  | .opBra p o => word true 0x70#7 (p ++ o)
  | .opBrd p t j => word true 0x71#7 (p ++ t ++ j)
  | .opBrx a => word true 0x72#7 (0x0#8 ++ a ++ 0x0#8)
  | .opCall p o => word true 0x73#7 (p ++ o)
  | .opRet p => word true 0x74#7 (p ++ 0x0#20)
  | .opDisp a => word true 0x75#7 (0x0#8 ++ a ++ 0x0#8)
  | .opExit => word true 0x76#7 (0x0#24)
  | .opDone => word true 0x77#7 (0x0#24)
  | .opWld e n b => word e 0x78#7 (0x0#8 ++ n ++ 0x0#7 ++ b)
  | .opMstr e n b => word e 0x79#7 (0x0#8 ++ n ++ 0x0#7 ++ b)
  | .opMfence e d => word e 0x7A#7 (d ++ 0x0#16)
  | .opMwaitb e n => word e 0x7B#7 (0x0#8 ++ n ++ 0x0#8)
  | .opMdrn e n => word e 0x7C#7 (0x0#8 ++ n ++ 0x0#8)
  | .opMclr e r c => word e 0x7D#7 (r ++ c ++ 0x0#8)
  | .opMwin e g b l => word e 0x7E#7 (g ++ b ++ l)
  | .opCpy e x y => word e 0x7F#7 (x ++ y ++ 0x0#8)
  | .opCpy2d e x y => word e 0x7F#7 (x ++ y ++ 0x1#8)
  | .opCpyw e x => word e 0x7F#7 (x ++ 0x2#16)
  | .opCnta e x y => word e 0x7F#7 (x ++ y ++ 0x3#8)
  | .opCntw e x y => word e 0x7F#7 (x ++ y ++ 0x4#8)
  | .evSlotArbitration _ _ => 0#32
  | .evBellwetherIssue _ => 0#32
  | .evLoadDataArrival _ _ => 0#32
  | .evStoreCompletion _ _ => 0#32
  | .evWaitSatisfied _ => 0#32
  | .evHeldWritePerform _ => 0#32
  | .evRevocation _ _ => 0#32
  | .evTileLoaded _ _ => 0#32
  | .evBankReload _ _ => 0#32
  | .evStreamRow _ _ => 0#32
  | .evDrainTile _ _ => 0#32
  | .evBatchRetire _ => 0#32
  | .evEngineFault _ _ _ _ _ => 0#32
  | .evCopyLine _ _ => 0#32
  | .evCopyCompletion _ => 0#32
  | .evLockGrant _ _ => 0#32
  | .evHbarCompletion _ => 0#32
  | .evBlockDispatch _ => 0#32
  | .evSwapOut _ => 0#32
  | .evSwapReturn _ => 0#32
  | .evBlockEnd _ => 0#32
  | .evGridComplete _ => 0#32
  | .evGraphComplete _ => 0#32
  | .evNodeReplace _ _ => 0#32
  | .evGatherTimeout _ _ _ => 0#32
  | .evSpillReturn _ _ _ => 0#32
  | .evDoorbell _ _ => 0#32
  | .evReadAndMark _ => 0#32
  | .evFlushq _ _ => 0#32
  | .evDrops _ => 0#32
  | .evRegisterWrite _ _ _ => 0#32
  | .evNopPacket _ => 0#32
  | .evLaunch _ => 0#32
  | .evGraph _ => 0#32
  | .evNode _ => 0#32
  | .evLoad _ => 0#32
  | .evWaitcnt _ => 0#32
  | .evCut _ => 0#32
  | .evStop _ => 0#32
  | .evResume _ => 0#32
  | .evRegion _ _ => 0#32
  | .evInval _ => 0#32
  | .evHeapq _ => 0#32
  | .evPatchBundle _ _ => 0#32
  | .evStopRequest _ _ => 0#32
  | .evClosure _ => 0#32
  | .evCheckpointInterval _ => 0#32
  | .evCutTimePassed _ _ => 0#32
  | .evCheckpointStream _ => 0#32
  | .evSnatch _ _ _ => 0#32
  | .evIncrementCommit _ => 0#32
  | .evRollback _ => 0#32
  | .evSavecostUpdate _ => 0#32
  | .evComparePoint _ => 0#32
  | .evThirdRun _ => 0#32
  | .evPageResponse _ _ _ => 0#32
  | .evPageRequestTimeout _ _ => 0#32
  | .evAtsInvalidate _ _ _ _ _ => 0#32
  | .evParityRebuild _ _ => 0#32
  | .evScrub _ _ => 0#32
  | .evDataCheckFailure _ _ _ => 0#32
  | .evArrayRowFailure _ _ => 0#32
  | .evFwds _ _ _ => 0#32
  | .evFwdx _ _ => 0#32
  | .evHomedata _ _ _ _ => 0#32
  | .evGrant _ _ _ _ => 0#32
  | .evData _ _ _ _ _ _ _ _ => 0#32
  | .evInv _ _ => 0#32
  | .evAck _ _ => 0#32
  | .evRecall _ => 0#32
  | .evHcoll _ _ => 0#32
  | .evLrevoke _ => 0#32
  | .evWait _ => 0#32
  | .evWaitRetry _ => 0#32
  | .evStalemap _ _ => 0#32
  | .evDirmapAdopt _ _ _ => 0#32
  | .evFabricLeaseExpiry _ => 0#32
  | .evMergeApply _ _ _ _ => 0#32
  | .evLostHolderTimeout _ _ => 0#32
  | .evTagFailure _ _ => 0#32
  | .evKeyInstall _ _ _ => 0#32
  | .evFabricTimeout _ => 0#32
  | .evHostMemAccess _ _ _ _ => 0#32
  | .evAtomicopCompletion _ _ _ => 0#32
  | .evFunctionLevelReset _ => 0#32
  | .evTierLinkFailure _ => 0#32
  | .evTierLinkRestore _ => 0#32
  | .evRevoke _ _ => 0#32
  | .evRevokeComplete _ => 0#32
  | .evClaim _ _ => 0#32
  | .evHandover _ _ => 0#32
  | .evAccept _ => 0#32
  | .evNegotiateAlgorithms _ _ => 0#32
  | .evGetCertificate _ _ _ => 0#32
  | .evChallenge _ => 0#32
  | .evGetMeasurements _ => 0#32
  | .evBoot _ _ _ => 0#32
  | .evPowerLimit _ => 0#32
  | .evReservedEncoding w => w
  | .evRevisionMove _ _ _ => 0#32
  | .evCxlCacheSnoop _ _ => 0#32
  | .evCompletionTimeout _ => 0#32
  | .evPriReenable _ => 0#32
  | .evPageRequestAllocation _ _ => 0#32
  | .evIeee1588Sync _ => 0#32
  | .evPodFormation _ _ _ _ => 0#32
  | .evWback _ _ => 0#32
  | .evFabricRequest _ _ _ _ => 0#32
  | .evCensusPoison _ => 0#32
  | .evSequencerRestart => 0#32
  | .evElectionEnd => 0#32
  | .evHandoverTimeout => 0#32
  | .evOwnerSilence => 0#32
  | .evGetVersion => 0#32
  | .evGetCapabilities => 0#32
  | .evGetDigests => 0#32
  | .evDeviceReset => 0#32

/-- Whether a row of the table is an instruction word. -/
def Instr.isWord (i : Instr) : Bool := decode (encode i) == i

/-- The four bytes of a word, lowest address first (R5). -/
def bytesOfWord (w : W32) : List Byte :=
  [w.extractLsb' 0 8, w.extractLsb' 8 8, w.extractLsb' 16 8, w.extractLsb' 24 8]

/-- The opcode table's reading of an instruction of `nbits` bits whose bits are `w`. -/
def decodeTableWord (nbits w : Nat) : Option Instr :=
  if nbits ≤ 32 then
    match decodeBytes (bytesOfWord (BitVec.ofNat 32 w)) with
    | .ok (i, _) => some i
    | .error _ => none
  else none

end Sys2Proof
end

