-- ==== Sys2Proof/Config.lean ====
section
/-! DEFINITION. What one implementation fixes, and the free values: constants without a body, so that nothing can be proved
of the value they take (notes/assumptions 1). -/

namespace Sys2Proof.Config

open Sys2Proof

/-- R330: FEATMASK, bits 0 to 9 set. -/
def featmask : W64 := 0x3FF#64

/-- R35: what an accumulator element (block number, row × 128 + column) holds at block start on a core that has held a
block of the context before. -/
opaque accResidue : Nat → Nat → W32

/-- R103 to R113, R379, R392, R407, R455: a rounding that the working precision of the transcendental members cannot decide
(none is known to exist): the choice between the two neighbours. -/
opaque transcTie : Nat → Bool

/-- R272, R314: whether a signature (over the bytes) verifies under the key of that number: 0 the patch key, 1 the image key. -/
opaque sigVerifies : Nat → List Byte → List Byte → Bool

/-- R303: the first 64 bits of the AES-256 GMAC of some bytes under the key of a number and a 96-bit IV. -/
opaque gmac : Nat → BitVec 96 → List Byte → W64

/-- R17, R196: the scale-up port by which the shortest path to an agent leaves the package: a first-tier switch (kind 0) or a package (1) of
that number, or the tree of the pod's barriers (2). -/
opaque portToward : Nat → Nat → Nat

/-- R301: how many devices (1, 2, 4 or 8) an HDM decoder, as its register stands, interleaves; the spec gives no layout of it. -/
opaque hdmLog2 : Nat → Fin 4

/-- R311: the device's signature over a challenge. -/
opaque sign : List Byte → List Byte

/-- R311: the device's certificate chain in a slot. -/
opaque certificate : Nat → List Byte

/-- R304, R312: the fuses and the boot ROM as measured (block 1 and block 6). -/
opaque romImage : Nat → List Byte

/-- R10, R23: the package number that a board configuration image assigns; the spec gives no layout of the image. -/
opaque boardPackage : List Byte → Option Nat

/-- R312: the priorities of host driver, board controller and fabric manager that a board configuration image sets. -/
opaque boardPrios : List Byte → Option (Nat × Nat × Nat)

/-- R271: the microwords of the sequencer's control store in boot ROM. -/
opaque bootRom : BitVec 12 → BitVec 112

/-- R23, R191, R301: the hidden hash of a line's home slice. -/
opaque homeSlice : Nat → Nat

/-- R309: whether the scale-out transport maps an aperture address. -/
opaque apertureMapped : Nat → Bool

/-- R309: whether the transport fails at an access, and the time (ns) after which a remote pod's transport acknowledges a write. -/
opaque apertureFails : Nat → Bool
opaque apertureAck : Nat → Nat

/-- R187, R307, R309: a value that an outside party's answer leaves open. -/
opaque openByte : Nat → Byte

/-- R292: the value of a symbol of a load (the load's number, the relocation's symbol field): the layout of the symbols section is
not given (notes/assumptions 60). -/
opaque symbolValue : Nat → Nat → W64

end Sys2Proof.Config
end

