-- ==== Sys2Proof/Machine/Flags.lean ====
section
/-! DEFINITION. Number formats, rounding, conversions, conditions and block formats (05_numbers R103 to R116, R121, R122,
R202 and the entries of 15 to 20). Every element is a natural number below 2 to the element's width. -/

namespace Sys2Proof.Machine

open Sys2Proof

/-- R66: the values of MODE.TYPE. -/
inductive Ty where
  | f32 | f16 | bf16 | f64 | i32 | u32 | i64 | u64 | i16 | u16 | i8 | u8 | f8a | f8b | f4 | f4s
  deriving DecidableEq, Repr

/-- R66: a TYPE code. -/
def tyOf (n : Nat) : Ty :=
  match n % 16 with
  | 0 => .f32 | 1 => .f16 | 2 => .bf16 | 3 => .f64 | 4 => .i32 | 5 => .u32 | 6 => .i64 | 7 => .u64
  | 8 => .i16 | 9 => .u16 | 10 => .i8 | 11 => .u8 | 12 => .f8a | 13 => .f8b | 14 => .f4 | _ => .f4s

/-- R103, R111: the element width in bits. -/
def tyBits : Ty → Nat
  | .f64 | .i64 | .u64 => 64
  | .f32 | .i32 | .u32 => 32
  | .f16 | .bf16 | .i16 | .u16 => 16
  | .i8 | .u8 | .f8a | .f8b => 8
  | .f4 | .f4s => 4

/-- R401: the element size in bytes, for the types that have one. -/
def tyBytes (t : Ty) : Nat := tyBits t / 8

/-- R61, R340: the 64-bit types, whose operands are register pairs. -/
def tyWide (t : Ty) : Bool := tyBits t == 64

/-- R114: the arithmetic float types. -/
def tyFloat : Ty → Bool
  | .f32 | .f16 | .bf16 | .f64 => true
  | _ => false

/-- R111: the integer types 4 to 11. -/
def tyInt : Ty → Bool
  | .i32 | .u32 | .i64 | .u64 | .i16 | .u16 | .i8 | .u8 => true
  | _ => false

/-- R111: the signed integer types. -/
def tySigned : Ty → Bool
  | .i32 | .i64 | .i16 | .i8 => true
  | _ => false

/-- R114: the storage formats. -/
def tyStorage : Ty → Bool
  | .f8a | .f8b | .f4 | .f4s => true
  | _ => false

/-- R66: what MODE gives arithmetic. -/
structure Rm where
  rnd : Nat
  sat : Bool
  ftz : Bool
  nanp : Bool
  deriving DecidableEq, Repr

/-- R66: MODE.TYPE, bits 8:5. -/
def mType (m : W16) : Ty := tyOf (m.extractLsb' 5 4).toNat
/-- R66: RND, SAT, FTZ and NANP of a MODE. -/
def mRm (m : W16) : Rm :=
  { rnd := (m.extractLsb' 9 2).toNat, sat := m.getLsbD 11, ftz := m.getLsbD 12, nanp := m.getLsbD 13 }
/-- R66: GUARD, bits 3:0. -/
def mGuard (m : W16) : Nat := (m.extractLsb' 0 4).toNat
/-- R66: GINV, bit 4. -/
def mGinv (m : W16) : Bool := m.getLsbD 4

/-- R117, R202: nearest-even, no saturation, no flushing, canonical NaNs. -/
def rmRne : Rm := { rnd := 0, sat := false, ftz := false, nanp := false }

/-! ## Floating-point formats -/

/-- R103: a format's fields; `inf`: it has infinities; `ftz`: R113 acts on it. -/
structure Fmt where
  eb : Nat
  mb : Nat
  bias : Nat
  inf : Bool
  ftz : Bool
  deriving DecidableEq, Repr

/-- R103: FP32. -/
def fmt32 : Fmt := { eb := 8, mb := 23, bias := 127, inf := true, ftz := true }
/-- R103: FP16. -/
def fmt16 : Fmt := { eb := 5, mb := 10, bias := 15, inf := true, ftz := true }
/-- R103: BF16. -/
def fmtB : Fmt := { eb := 8, mb := 7, bias := 127, inf := true, ftz := true }
/-- R103: FP64. -/
def fmt64 : Fmt := { eb := 11, mb := 52, bias := 1023, inf := true, ftz := true }
/-- R103: f8a, E4M3. -/
def fmt8a : Fmt := { eb := 4, mb := 3, bias := 7, inf := false, ftz := false }
/-- R103: f8b, E5M2. -/
def fmt8b : Fmt := { eb := 5, mb := 2, bias := 15, inf := true, ftz := false }

/-- R103: the format of a float TYPE; FP32 for every other TYPE (no caller asks). -/
def fmtOf : Ty → Fmt
  | .f16 => fmt16 | .bf16 => fmtB | .f64 => fmt64 | .f8a => fmt8a | .f8b => fmt8b | _ => fmt32

/-- An exact value: a NaN, an infinity, or (-1)^neg × m × 2^e, with a signed zero when `m` is 0. -/
inductive FV where
  | nan
  | inf (neg : Bool)
  | fin (neg : Bool) (m : Nat) (e : Int)
  deriving DecidableEq, Repr

/-- The sign bit of a format. -/
def signBit (f : Fmt) : Nat := 2 ^ (f.eb + f.mb)
/-- Whether a code has its sign bit set. -/
def negF (f : Fmt) (x : Nat) : Bool := x / signBit f % 2 == 1
/-- The magnitude bits of a code. -/
def magF (f : Fmt) (x : Nat) : Nat := x % signBit f
/-- A code from sign and magnitude bits. -/
def mkF (f : Fmt) (neg : Bool) (mag : Nat) : Nat := (if neg then signBit f else 0) + mag
/-- R103: the code of the largest finite magnitude. -/
def maxF (f : Fmt) : Nat := if f.inf then (2 ^ f.eb - 1) * 2 ^ f.mb - 1 else 2 ^ (f.eb + f.mb) - 2
/-- R103: the magnitude code of infinity. -/
def infF (f : Fmt) : Nat := (2 ^ f.eb - 1) * 2 ^ f.mb
/-- R103: the canonical NaN. -/
def canonF (f : Fmt) : Nat := if f.inf then infF f + 2 ^ (f.mb - 1) else 2 ^ (f.eb + f.mb) - 1

/-- R103: the value of a code. -/
def valF (f : Fmt) (x : Nat) : FV :=
  let man := magF f x % 2 ^ f.mb
  let ex := magF f x / 2 ^ f.mb
  let neg := negF f x
  if ex == 2 ^ f.eb - 1 && f.inf then (if man == 0 then .inf neg else .nan)
  else if magF f x == 2 ^ (f.eb + f.mb) - 1 then .nan
  else if ex == 0 then .fin neg man (1 - (f.bias : Int) - f.mb)
  else .fin neg (man + 2 ^ f.mb) ((ex : Int) - f.bias - f.mb)

/-- R12: the NaN test. -/
def isNanF (f : Fmt) (x : Nat) : Bool := valF f x == .nan
/-- R103: a subnormal or zero: exponent field zero. -/
def tinyF (f : Fmt) (x : Nat) : Bool := magF f x / 2 ^ f.mb == 0

/-- R113: an input as FTZ reads it. -/
def ftzIn (f : Fmt) (rm : Rm) (x : Nat) : Nat :=
  if rm.ftz && f.ftz && tinyF f x then mkF f (negF f x) 0 else x

/-- R110: m / 2^k rounded to an integer under a rounding mode (0 nearest-even, 1 toward zero, 2 up, 3 down). -/
def roundShift (rnd : Nat) (neg : Bool) (m k : Nat) : Nat :=
  let q := m / 2 ^ k
  let r := m % 2 ^ k
  let up :=
    match rnd with
    | 0 => decide (2 * r > 2 ^ k) || (decide (2 * r = 2 ^ k) && q % 2 == 1)
    | 1 => false
    | 2 => r != 0 && !neg
    | _ => r != 0 && neg
  if up then q + 1 else q

/-- R110, table of overflow results; `exact`: the exact result is itself infinite. -/
def overF (f : Fmt) (rm : Rm) (neg exact : Bool) : Nat :=
  let toInf := exact || rm.rnd == 0 || (rm.rnd == 2 && !neg) || (rm.rnd == 3 && neg)
  if rm.sat || !toInf then mkF f neg (maxF f)
  else if f.inf then mkF f neg (infF f) else mkF f neg (2 ^ (f.eb + f.mb) - 1)

/-- R110, R113: a finite exact value in a format. -/
def encF (f : Fmt) (rm : Rm) (neg : Bool) (m : Nat) (e : Int) : Nat :=
  if m == 0 then mkF f neg 0
  else
    let qmin : Int := 1 - (f.bias : Int) - f.mb
    let q : Int := max (e + Nat.log2 m - f.mb) qmin
    let big : Nat := if q ≤ e then m * 2 ^ (e - q).toNat else roundShift rm.rnd neg m (q - e).toNat
    let code := (q - qmin).toNat * 2 ^ f.mb + big
    if code > maxF f then overF f rm neg false
    else if rm.ftz && f.ftz && decide (code < 2 ^ f.mb) then mkF f neg 0
    else mkF f neg code

/-- R12, R110: `rnd(type, value, RND)` of an exact value; a NaN gives the canonical NaN. -/
def packF (f : Fmt) (rm : Rm) : FV → Nat
  | .nan => canonF f
  | .inf neg => overF f rm neg true
  | .fin neg m e => encF f rm neg m e

/-- R112: a NaN of format `g` as a NaN of format `f`: quietened, the top mantissa bits kept. -/
def moveNan (g f : Fmt) (x : Nat) : Nat :=
  let man := (x % 2 ^ g.mb) ||| 2 ^ (g.mb - 1)
  let man' := if f.mb ≤ g.mb then man / 2 ^ (g.mb - f.mb) else man * 2 ^ (f.mb - g.mb)
  mkF f (negF g x) (if f.inf then infF f + man' else 2 ^ (f.eb + f.mb) - 1)

/-- R112: the NaN result of operands of one format, in the order given. -/
def nanF (f : Fmt) (rm : Rm) (ops : List Nat) : Nat :=
  match rm.nanp, ops.find? (isNanF f) with
  | true, some x => moveNan f f x
  | _, _ => canonF f

/-- The exact sum; a zero sum of opposite signs is +0, or −0 toward −inf (R343). -/
def addV (rnd : Nat) : FV → FV → FV
  | .nan, _ => .nan
  | _, .nan => .nan
  | .inf a, .inf b => if a == b then .inf a else .nan
  | .inf a, _ => .inf a
  | _, .inf b => .inf b
  | .fin na ma ea, .fin nb mb eb =>
    let e := min ea eb
    let ia : Int := (ma * 2 ^ (ea - e).toNat : Nat)
    let ib : Int := (mb * 2 ^ (eb - e).toNat : Nat)
    let i := (if na then -ia else ia) + (if nb then -ib else ib)
    if i == 0 then .fin (if na == nb then na else rnd == 3) 0 e
    else .fin (decide (i < 0)) i.natAbs e

/-- The exact product. -/
def mulV : FV → FV → FV
  | .nan, _ => .nan
  | _, .nan => .nan
  | .inf a, .inf b => .inf (a != b)
  | .inf a, .fin b m _ => if m == 0 then .nan else .inf (a != b)
  | .fin a m _, .inf b => if m == 0 then .nan else .inf (a != b)
  | .fin a m e, .fin b n g => .fin (a != b) (m * n) (e + g)

/-- Negation of an exact value. -/
def negV : FV → FV
  | .nan => .nan
  | .inf a => .inf (!a)
  | .fin a m e => .fin (!a) m e

/-- A real comparison of finite or infinite values: −1, 0 or 1; zeros of both signs are equal. -/
def cmpV : FV → FV → Int
  | .inf a, .inf b => if a == b then 0 else if a then -1 else 1
  | .inf a, _ => if a then -1 else 1
  | _, .inf b => if b then 1 else -1
  | .fin na ma ea, .fin nb mb eb =>
    let e := min ea eb
    let ia : Int := (ma * 2 ^ (ea - e).toNat : Nat)
    let ib : Int := (mb * 2 ^ (eb - e).toNat : Nat)
    let a := if na then -ia else ia
    let b := if nb then -ib else ib
    if a < b then -1 else if a = b then 0 else 1
  | _, _ => 0

/-- R409: the order that puts −0 below +0, on codes that are no NaN. -/
def ltTotal (f : Fmt) (x y : Nat) : Bool :=
  let c := cmpV (valF f x) (valF f y)
  c == -1 || (c == 0 && negF f x && !negF f y)

/-- R343: float addition. -/
def faddF (f : Fmt) (rm : Rm) (x0 y0 : Nat) : Nat :=
  let x := ftzIn f rm x0
  let y := ftzIn f rm y0
  if isNanF f x || isNanF f y then nanF f rm [x, y] else packF f rm (addV rm.rnd (valF f x) (valF f y))

/-- R467: float subtraction. -/
def fsubF (f : Fmt) (rm : Rm) (x0 y0 : Nat) : Nat :=
  let x := ftzIn f rm x0
  let y := ftzIn f rm y0
  if isNanF f x || isNanF f y then nanF f rm [x, y]
  else packF f rm (addV rm.rnd (valF f x) (negV (valF f y)))

/-- R419: float multiplication. -/
def fmulF (f : Fmt) (rm : Rm) (x0 y0 : Nat) : Nat :=
  let x := ftzIn f rm x0
  let y := ftzIn f rm y0
  if isNanF f x || isNanF f y then nanF f rm [x, y] else packF f rm (mulV (valF f x) (valF f y))

/-- R408: fused multiply-add, x × y + z; 0 × ∞ gives the canonical NaN even when z is a NaN. -/
def fmadF (f : Fmt) (rm : Rm) (x0 y0 z0 : Nat) : Nat :=
  let x := ftzIn f rm x0
  let y := ftzIn f rm y0
  let z := ftzIn f rm z0
  if isNanF f x || isNanF f y then nanF f rm [x, y, z]
  else
    let p := mulV (valF f x) (valF f y)
    if p == .nan then canonF f
    else if isNanF f z then nanF f rm [z]
    else packF f rm (addV rm.rnd p (valF f z))

/-- R409, R416: float minimum (`mx` false) or maximum. -/
def fmmF (f : Fmt) (rm : Rm) (mx : Bool) (x0 y0 : Nat) : Nat :=
  let x := ftzIn f rm x0
  let y := ftzIn f rm y0
  if isNanF f x || isNanF f y then nanF f rm [x, y]
  else if ltTotal f x y != mx then x else y

/-- R341: float absolute value. -/
def fabsF (f : Fmt) (rm : Rm) (x0 : Nat) : Nat :=
  let x := ftzIn f rm x0
  if isNanF f x then (if rm.nanp then magF f (moveNan f f x) else canonF f) else magF f x

/-- R425: float negation. -/
def fnegF (f : Fmt) (rm : Rm) (x0 : Nat) : Nat :=
  let x := ftzIn f rm x0
  if isNanF f x then (if rm.nanp then mkF f (!negF f x) (magF f (moveNan f f x)) else canonF f)
  else mkF f (!negF f x) (magF f x)

/-- R445: rounding to an integral value. -/
def frintF (f : Fmt) (rm : Rm) (x0 : Nat) : Nat :=
  let x := ftzIn f rm x0
  match valF f x with
  | .nan => nanF f rm [x]
  | .inf _ => x
  | .fin neg m e =>
    if e ≥ 0 then x
    else encF f { rm with sat := false, ftz := false } neg (roundShift rm.rnd neg m (-e).toNat) 0

/-- R373: the one-hot class of a code. -/
def classF (f : Fmt) (x : Nat) : Nat :=
  let neg := negF f x
  match valF f x with
  | .nan => if x / 2 ^ (f.mb - 1) % 2 == 1 then 2 else 1
  | .inf _ => if neg then 4 else 0x200
  | .fin _ m _ =>
    if m == 0 then (if neg then 0x20 else 0x40)
    else if tinyF f x then (if neg then 0x10 else 0x80)
    else if neg then 8 else 0x100

/-! ## Reciprocals, roots and transcendentals (R379, R392, R407, R439, R446, R455, R460) -/

/-- The integer square root, bit by bit. -/
def isqrt (n : Nat) : Nat :=
  (List.range (Nat.log2 n / 2 + 1)).reverse.foldl (fun r i => if (r + 2 ^ i) * (r + 2 ^ i) ≤ n then r + 2 ^ i else r) 0

/-- A quotient or root with a sticky bit below it: odd when the true value lies strictly above `q`. -/
def sticky (q : Nat) (exact : Bool) : Nat := 2 * q + (if exact then 0 else 1)

/-- R439: the reciprocal. -/
def frcpF (f : Fmt) (rm : Rm) (x0 : Nat) : Nat :=
  let x := ftzIn f rm x0
  match valF f x with
  | .nan => nanF f rm [x]
  | .inf neg => mkF f neg 0
  | .fin neg m e =>
    if m == 0 then overF f rm neg true
    else
      let s := Nat.log2 m + 80
      let q := 2 ^ s / m
      encF f rm neg (sticky q (q * m == 2 ^ s)) (-e - s - 1)

/-- R460: the square root. -/
def fsqrtF (f : Fmt) (rm : Rm) (x0 : Nat) : Nat :=
  let x := ftzIn f rm x0
  match valF f x with
  | .nan => nanF f rm [x]
  | .inf neg => if neg then canonF f else x
  | .fin neg m e =>
    if m == 0 then x
    else if neg then canonF f
    else
      let odd := decide (e % 2 ≠ 0)
      let n := (if odd then 2 * m else m) * 2 ^ 160
      let e' := (if odd then e - 1 else e) / 2 - 80
      let r := isqrt n
      encF f { rm with sat := false } false (sticky r (r * r == n)) (e' - 1)

/-- R446: the reciprocal square root. -/
def frsqF (f : Fmt) (rm : Rm) (x0 : Nat) : Nat :=
  let x := ftzIn f rm x0
  match valF f x with
  | .nan => nanF f rm [x]
  | .inf neg => if neg then canonF f else 0
  | .fin neg m e =>
    if m == 0 then mkF f neg (infF f)
    else if neg then canonF f
    else
      let odd := decide (e % 2 ≠ 0)
      let m' := if odd then 2 * m else m
      let e' := (if odd then e - 1 else e) / 2
      let s := Nat.log2 m' / 2 + 80
      let n := 2 ^ (2 * s) / m'
      let r := isqrt n
      encF f { rm with sat := false } false (sticky r (r * r * m' == 2 ^ (2 * s))) (-e' - s - 1)

/-- The working precision of the transcendental members, in bits after the point. -/
def trP : Nat := 320
/-- The width of the error interval about a computed value, in units of 2^-trP. -/
def trErr : Nat := 2 ^ 12
/-- π × 2^320, rounded down. -/
def piFix : Nat := 0x3243f6a8885a308d313198a2e03707344a4093822299f31d0082efa98ec4e6c89452821e638d01377
/-- ln 2 × 2^320, rounded down. -/
def ln2Fix : Nat := 0xb17217f7d1cf79abc9e3b39803f2f6af40f343267298b62d8a0d175b8baafa2be7b876206debac98

/-- R110: the rounding of a value strictly between (lo, hi) × 2^e, which is no code and no tie. -/
def roundIv (f : Fmt) (rm : Rm) (neg : Bool) (lo hi : Nat) (e : Int) : Nat :=
  let a := encF f rm neg (2 * lo + 1) (e - 1)
  let b := encF f rm neg (2 * hi + 1) (e - 1)
  if a == b then a else if Config.transcTie a then a else b

/-- exp(t) for 0 ≤ t < 1, in units of 2^-trP. -/
def expFix (t : Nat) : Nat :=
  ((List.range 90).foldl (fun (st : Nat × Nat) k => let u := st.1 * t / 2 ^ trP / (k + 1); (u, st.2 + u))
    (2 ^ trP, 2 ^ trP)).2

/-- R392: power of two. -/
def fexp2F (f : Fmt) (rm : Rm) (x0 : Nat) : Nat :=
  let x := ftzIn f rm x0
  match valF f x with
  | .nan => nanF f rm [x]
  | .inf neg => if neg then 0 else overF f rm false true
  | .fin neg m e =>
    if m == 0 then encF f rm false 1 0
    else if e + Nat.log2 m > 14 then (if neg then encF f rm false 1 (-4000) else overF f rm false false)
    else
      -- x = ip + fr with 0 ≤ fr < 1, exact in units of 2^-k
      let k := (-e).toNat
      let i : Int := (m * 2 ^ e.toNat : Nat)
      let v := if neg then -i else i
      let ip := v / (2 ^ k : Nat)
      let fr := (v % (2 ^ k : Nat)).toNat
      if fr == 0 then encF f rm false 1 ip
      else
        let w := expFix (fr * ln2Fix / 2 ^ k)
        roundIv f rm false (max (w - trErr) (2 ^ trP)) (min (w + trErr) (2 ^ (trP + 1) - 1)) (ip - trP)

/-- ln(y) for y = n/d in [1, 2], in units of 2^-trP: 2 atanh((y-1)/(y+1)). -/
def lnFix (n d : Nat) : Nat :=
  let z := (n - d) * 2 ^ trP / (n + d)
  let z2 := z * z / 2 ^ trP
  2 * ((List.range 110).foldl (fun (st : Nat × Nat) k => (st.1 * z2 / 2 ^ trP, st.2 + st.1 / (2 * k + 1))) (z, 0)).2

/-- R407: base-2 logarithm. -/
def flog2F (f : Fmt) (rm : Rm) (x0 : Nat) : Nat :=
  let x := ftzIn f rm x0
  match valF f x with
  | .nan => nanF f rm [x]
  | .inf neg => if neg then canonF f else x
  | .fin neg m e =>
    if m == 0 then mkF f true (infF f)
    else if neg then canonF f
    else
      let l := Nat.log2 m
      let k : Int := e + l
      let rm' := { rm with sat := false }
      if m == 2 ^ l then (if k == 0 then 0 else encF f rm' (decide (k < 0)) k.natAbs 0)
      else
        let w := lnFix m (2 ^ l) * 2 ^ trP / ln2Fix
        let t : Int := k * (2 ^ trP : Nat) + w
        if t < 0 then roundIv f rm' true (t.natAbs - trErr) (t.natAbs + trErr) (-(trP : Int))
        else roundIv f rm' false (t.natAbs - trErr) (t.natAbs + trErr) (-(trP : Int))

/-- sin(u)/u and cos(u) as series in −u², in units of 2^-trP; `u2` is u² in the same units, and the k-th term divides by
(2k + c)(2k + c + 1). -/
def altFix (u2 c : Nat) : Nat :=
  ((List.range 50).foldl (fun (st : Nat × Int) k =>
      let t := st.1 * u2 / 2 ^ trP / ((2 * k + c) * (2 * k + c + 1))
      (t, if k % 2 == 0 then st.2 - t else st.2 + t)) (2 ^ trP, ((2 ^ trP : Nat) : Int))).2.toNat

/-- R379, R455: sin(2π n / 2^k) for 0 < n / 2^k ≤ 1/8, rounded with a sign. -/
def sinOct (f : Fmt) (rm : Rm) (neg : Bool) (n k : Nat) : Nat :=
  let u := 2 * piFix * n / 2 ^ k
  let s := altFix (u * u / 2 ^ trP) 2
  roundIv f rm neg (n * (2 * piFix * (s - trErr) / 2 ^ trP)) (n * (2 * piFix * (s + trErr) / 2 ^ trP + 1)) (-(k : Int) - trP)

/-- R379, R455: cos(2π n / 2^k) for 0 < n / 2^k < 1/8, rounded with a sign. -/
def cosOct (f : Fmt) (rm : Rm) (neg : Bool) (n k : Nat) : Nat :=
  let u := 2 * piFix * n / 2 ^ k
  let c := altFix (u * u / 2 ^ trP) 1
  roundIv f rm neg (c - trErr) (min (c + trErr) (2 ^ trP - 1)) (-(trP : Int))

/-- R379, R455: the sine of the turn n / 2^k with 0 ≤ n < 2^k and k ≥ 3, `zneg` being the sign of a zero result. -/
def sinTurn (f : Fmt) (rm : Rm) (neg zneg : Bool) (n k : Nat) : Nat :=
  let q := 2 ^ (k - 2)
  let s := neg != decide (n ≥ 2 * q)
  let r := n % (2 * q)
  if r == 0 then mkF f zneg 0
  else if r == q then encF f rm s 1 0
  else
    let a := if r > q then 2 * q - r else r
    if 2 * a ≤ q then sinOct f rm s a k else cosOct f rm s (q - a) k

/-- R455: sine of a fraction of a turn. -/
def fsinF (f : Fmt) (rm : Rm) (x0 : Nat) : Nat :=
  let x := ftzIn f rm x0
  match valF f x with
  | .nan => nanF f rm [x]
  | .inf _ => canonF f
  | .fin neg m e =>
    let k := (-e).toNat + 3
    let n := m * 2 ^ (e + k).toNat
    sinTurn f rm neg neg (n % 2 ^ k) k

/-- R379: cosine of a fraction of a turn: the sine a quarter turn on; the zeros are +0. -/
def fcosF (f : Fmt) (rm : Rm) (x0 : Nat) : Nat :=
  let x := ftzIn f rm x0
  match valF f x with
  | .nan => nanF f rm [x]
  | .inf _ => canonF f
  | .fin _ m e =>
    let k := (-e).toNat + 3
    let n := m * 2 ^ (e + k).toNat
    sinTurn f rm false false ((n + 2 ^ (k - 2)) % 2 ^ k) k

/-! ## Integers -/

/-- R111: the integer an element denotes. -/
def intV (t : Ty) (x : Nat) : Int :=
  let n := tyBits t
  if tySigned t && decide (x % 2 ^ n ≥ 2 ^ (n - 1)) then (x % 2 ^ n : Nat) - ((2 ^ n : Nat) : Int) else (x % 2 ^ n : Nat)

/-- The least integer of a type. -/
def minI (t : Ty) : Int := if tySigned t then -((2 ^ (tyBits t - 1) : Nat) : Int) else 0
/-- The greatest integer of a type. -/
def maxI (t : Ty) : Int := if tySigned t then ((2 ^ (tyBits t - 1) : Nat) : Int) - 1 else ((2 ^ tyBits t : Nat) : Int) - 1
/-- R110: an integer modulo 2^n as an element. -/
def wrapI (t : Ty) (i : Int) : Nat := (i % ((2 ^ tyBits t : Nat) : Int)).toNat
/-- R110: an integer result: wrapped, or clamped under SAT. -/
def packI (t : Ty) (sat : Bool) (i : Int) : Nat := wrapI t (if sat then max (minI t) (min (maxI t) i) else i)

/-- R114: an element as the 32 or 64 bits of a register: i8 and i16 sign-extended to 32, every other type zero-extended. -/
def place (t : Ty) (x : Nat) : Nat :=
  match t with
  | .i8 => if x % 256 ≥ 128 then x % 256 + 0xFFFFFF00 else x % 256
  | .i16 => if x % 65536 ≥ 32768 then x % 65536 + 0xFFFF0000 else x % 65536
  | _ => x % 2 ^ tyBits t

/-- R374: leading zeros among n bits. -/
def clzN (n x : Nat) : Nat := if x % 2 ^ n == 0 then n else n - 1 - Nat.log2 (x % 2 ^ n)
/-- R432: set bits among n bits. -/
def popcN (n x : Nat) : Nat := ((List.range n).filter (fun i => x.testBit i)).length
/-- R365: the n bits reversed. -/
def brevN (n x : Nat) : Nat := (List.range n).foldl (fun r i => if x.testBit i then r + 2 ^ (n - 1 - i) else r) 0

/-! ## The two-source and unary lane operations on elements -/

/-- R343: addition. -/
def addE (t : Ty) (rm : Rm) (x y : Nat) : Nat :=
  if tyFloat t then faddF (fmtOf t) rm x y else packI t rm.sat (intV t x + intV t y)
/-- R467: subtraction. -/
def subE (t : Ty) (rm : Rm) (x y : Nat) : Nat :=
  if tyFloat t then fsubF (fmtOf t) rm x y else packI t rm.sat (intV t x - intV t y)
/-- R419: multiplication. -/
def mulE (t : Ty) (rm : Rm) (x y : Nat) : Nat :=
  if tyFloat t then fmulF (fmtOf t) rm x y else packI t rm.sat (intV t x * intV t y)
/-- R408: fused multiply-add. -/
def madE (t : Ty) (rm : Rm) (x y z : Nat) : Nat :=
  if tyFloat t then fmadF (fmtOf t) rm x y z else packI t rm.sat (intV t x * intV t y + intV t z)
/-- R409, R416: minimum or maximum. -/
def mmE (mx : Bool) (t : Ty) (rm : Rm) (x y : Nat) : Nat :=
  if tyFloat t then fmmF (fmtOf t) rm mx x y
  else if decide (intV t x < intV t y) != mx then x else y
/-- R420: the high half of the product. -/
def mulhE (t : Ty) (x y : Nat) : Nat := wrapI t (intV t x * intV t y / ((2 ^ tyBits t : Nat) : Int))
/-- R449: shift left. -/
def shlE (t : Ty) (x c : Nat) : Nat := if c ≥ tyBits t then 0 else x * 2 ^ c % 2 ^ tyBits t
/-- R449: logical shift right. -/
def shrE (t : Ty) (x c : Nat) : Nat := if c ≥ tyBits t then 0 else x / 2 ^ c
/-- R449: shift right filled with the top bit. -/
def sarE (t : Ty) (x c : Nat) : Nat :=
  let n := tyBits t
  let c' := min c n
  if x.testBit (n - 1) then x / 2 ^ c' + (2 ^ n - 2 ^ (n - c')) else x / 2 ^ c'
/-- R341: absolute value. -/
def absE (t : Ty) (rm : Rm) (x : Nat) : Nat :=
  if tyFloat t then fabsF (fmtOf t) rm x else packI t rm.sat (intV t x).natAbs
/-- R425: negation. -/
def negE (t : Ty) (rm : Rm) (x : Nat) : Nat :=
  if tyFloat t then fnegF (fmtOf t) rm x else packI t rm.sat (-(intV t x))
/-- R427: complement. -/
def notE (t : Ty) (x : Nat) : Nat := 2 ^ tyBits t - 1 - x
/-- R357: the control fields of BFE and BFI, offset and width. -/
def bfCtl (n c : Nat) : Nat × Nat :=
  let o := min (c % 128) n
  (o, min (c / 256 % 128) (n - o))
/-- R358: bit-field extract. -/
def bfeE (t : Ty) (a c : Nat) : Nat :=
  let n := tyBits t
  let (o, w) := bfCtl n c
  let g := a / 2 ^ o % 2 ^ w
  if w == 0 then 0 else if tySigned t && g.testBit (w - 1) then g + (2 ^ n - 2 ^ w) else g
/-- R359: bit-field insert. -/
def bfiE (t : Ty) (d a c : Nat) : Nat :=
  let n := tyBits t
  let (o, w) := bfCtl n c
  let low := d % 2 ^ o
  let high := d / 2 ^ (o + w) * 2 ^ (o + w)
  high + (a % 2 ^ w) * 2 ^ o + low

/-! ## Conditions -/

/-- R323: a condition on two values ordered by `c` (−1, 0, 1), none when unordered. Codes 10 to 13 are the "or unordered"
forms. -/
def condOrd (code : Nat) (c : Option Int) : Bool :=
  match code, c with
  | 0, some c => c == 0
  | 1, some c => c != 0
  | 2, some c => c == -1
  | 3, some c => c != 1
  | 4, some c => c == 1
  | 5, some c => c != -1
  | 6, some _ => true
  | 8, some c => c == 0
  | 9, some c => c != 0
  | 10, some c => c == -1
  | 11, some c => c != 1
  | 12, some c => c == 1
  | 13, some c => c != -1
  | 1, none => true
  | 7, none => true
  | 8, none => true
  | 10, none => true
  | 11, none => true
  | 12, none => true
  | 13, none => true
  | _, _ => false

/-- The order of two integers. -/
def ordI (a b : Int) : Int := if a < b then -1 else if a = b then 0 else 1

/-- R375: CMP on two elements. -/
def condE (code : Nat) (t : Ty) (rm : Rm) (x y : Nat) : Bool :=
  if tyFloat t then
    let a := valF (fmtOf t) (ftzIn (fmtOf t) rm x)
    let b := valF (fmtOf t) (ftzIn (fmtOf t) rm y)
    condOrd code (if a == .nan || b == .nan then none else some (cmpV a b))
  else condOrd code (some (ordI (intV t x) (intV t y)))

/-- R323: SCMP and MWAIT on n-bit words: codes 10 to 13 compare unsigned, the others by `signed`. -/
def condW (code n : Nat) (signed : Bool) (x y : Nat) : Bool :=
  let a := x % 2 ^ n
  let b := y % 2 ^ n
  let sg (v : Nat) : Int := if decide (v ≥ 2 ^ (n - 1)) then (v : Int) - ((2 ^ n : Nat) : Int) else v
  if code ≥ 10 || !signed then condOrd code (some (ordI a b)) else condOrd code (some (ordI (sg a) (sg b)))

/-! ## Conversions (R107 to R111, R385) -/

/-- R107: a tagged NaN. -/
def tagNan (kind code : Nat) (neg : Bool) : Nat := (if neg then 0x80000000 else 0) + 0x7FC00000 + kind * 2 ^ 19 + code * 2 ^ 11

/-- R107: the kind and code of a tagged NaN; none for every other FP32 code. -/
def tagOf (x : Nat) : Option (Nat × Nat) :=
  let kind := x / 2 ^ 19 % 8
  if x / 2 ^ 22 % 512 == 0x1FF && x % 2 ^ 11 == 0 && decide (1 ≤ kind) && decide (kind ≤ 5) then some (kind, x / 2 ^ 11 % 256)
  else none

/-- R108: an f8a or f8b code as FP32. -/
def widen8 (t : Ty) (x : Nat) : Nat :=
  match valF (fmtOf t) x with
  | .nan => tagNan (if t == .f8a then 1 else 2) x (negF (fmtOf t) x)
  | v => packF fmt32 rmRne v

/-- R111: whether a float conversion widens. -/
def widens (g f : Fmt) : Bool := g.ftz && f.ftz && decide (g.mb ≤ f.mb) && decide (g.eb ≤ f.eb) && g != f

/-- R110 to R113: a float conversion between two of FP64, FP32, FP16, BF16, f8a and f8b; one that widens is exact under every MODE. -/
def cvtFF (g f : Fmt) (rm : Rm) (x0 : Nat) : Nat :=
  if widens g f then
    match valF g x0 with
    | .nan => moveNan g f x0
    | v => packF f { rm with ftz := false, sat := false } v
  else
    let rm' := if f.ftz && g.ftz then rm else { rm with ftz := false }
    let x := ftzIn g rm' x0
    match valF g x with
    | .nan => if rm.nanp then moveNan g f x else canonF f
    | v => packF f rm' v

/-- R111: a float as an integer, rounded under RND and clamped. -/
def cvtFI (g : Fmt) (t : Ty) (rm : Rm) (x : Nat) : Nat :=
  match valF g x with
  | .nan => 0
  | .inf neg => wrapI t (if neg then minI t else maxI t)
  | .fin neg m e =>
    let i : Int := (if e ≥ 0 then m * 2 ^ e.toNat else roundShift rm.rnd neg m (-e).toNat : Nat)
    packI t true (if neg then -i else i)

/-- R385: CVT of one element; both types are 0 to 13. -/
def cvtE (s d : Ty) (rm : Rm) (x : Nat) : Nat :=
  let f8 (t : Ty) : Bool := t == .f8a || t == .f8b
  let fl (t : Ty) : Bool := tyFloat t || f8 t
  if tyInt s then
    if tyInt d then (if s == d then x else packI d rm.sat (intV s x))
    else encF (fmtOf d) { rm with ftz := false } (decide (intV s x < 0)) (intV s x).natAbs 0
  else if tyInt d then cvtFI (fmtOf s) d rm x
  else if s == .f32 && f8 d then
    match tagOf x with
    | some (kind, code) => if kind == (if d == .f8a then 1 else 2) then code else cvtFF fmt32 (fmtOf d) rm x
    | none => cvtFF fmt32 (fmtOf d) rm x
  else if f8 s && tyFloat d then
    let w := widen8 s x
    if d == .f32 then w else cvtFF fmt32 (fmtOf d) { rm with ftz := false, sat := rm.sat && d != .f64 } w
  else if fl s && fl d then cvtFF (fmtOf s) (fmtOf d) rm x
  else x

/-! ## Constants (R321, R322) -/

/-- R322: the exact value of an FP constant, or the sign, a 400-bit fraction and its scale for an irrational one. -/
def fpConst (n : Nat) : FV :=
  match n % 16 with
  | 0 => .fin false 0 0
  | 1 => .fin true 0 0
  | 2 => .fin false 1 (-1)
  | 3 => .fin true 1 (-1)
  | 4 => .fin false 1 0
  | 5 => .fin true 1 0
  | 6 => .fin false 2 0
  | 7 => .fin true 2 0
  | 8 => .fin false 4 0
  | 9 => .fin false 1 (-2)
  | 10 => .inf false
  | 11 => .inf true
  | 12 => .fin false (2 * (2 ^ (2 * trP) / ln2Fix) + 1) (-(trP : Int) - 1)
  | 13 => .fin false (2 * ln2Fix + 1) (-(trP : Int) - 1)
  | 14 => .fin false (2 * piFix + 1) (-(trP : Int) - 1)
  | _ => .fin false (2 * (2 ^ (2 * trP) / (2 * piFix)) + 1) (-(trP : Int) - 1)

/-- R322: an FP constant in a float type, nearest-even. -/
def fpConstE (t : Ty) (n : Nat) : Nat := packF (fmtOf t) rmRne (fpConst n)

/-- R321: an integer constant in a TYPE: the value n in a float type, n zero-extended in an integer one. -/
def intConstE (t : Ty) (n : Nat) : Nat := if tyFloat t then encF (fmtOf t) rmRne false n 0 else n

/-! ## Group reductions (R121, R122) -/

/-- R122: the identity of GSUM and GSCAN (0), GMIN (1) or GMAX (2). -/
def redIdent (op : Nat) (t : Ty) : Nat :=
  match op with
  | 0 => if tyFloat t then mkF (fmtOf t) true 0 else 0
  | 1 => if tyFloat t then infF (fmtOf t) else wrapI t (maxI t)
  | _ => if tyFloat t then mkF (fmtOf t) true (infF (fmtOf t)) else wrapI t (minI t)

/-- R121: one node. -/
def redOp (op : Nat) (t : Ty) (rm : Rm) (x y : Nat) : Nat :=
  match op with
  | 0 => addE t rm x y
  | 1 => mmE false t rm x y
  | _ => mmE true t rm x y

/-- R121: `comb`. -/
def redComb (op : Nat) (t : Ty) (rm : Rm) (a b : Option Nat) : Option Nat :=
  match a, b with
  | none, b => b
  | a, none => a
  | some x, some y => some (redOp op t rm x y)

/-- R121: one level of the tree: neighbours combined in pairs. -/
def redLevel (op : Nat) (t : Ty) (rm : Rm) : List (Option Nat) → List (Option Nat)
  | a :: b :: rest => redComb op t rm a b :: redLevel op t rm rest
  | l => l

/-- R121, R122: the tree over 32 lanes, each absent or a value; FTZ is applied to the inputs first. The NaN of a minimum or maximum is formed
by R112, that of a lane alone too. -/
def redTree (op : Nat) (t : Ty) (rm : Rm) (xs : List (Option Nat)) : Nat :=
  let ins := if tyFloat t then xs.map (fun o => o.map (ftzIn (fmtOf t) rm)) else xs
  let l := redLevel op t rm
  match l (l (l (l (l ins)))) with
  | some x :: _ => if op != 0 && tyFloat t && isNanF (fmtOf t) x then nanF (fmtOf t) rm [x] else x
  | _ => redIdent op t

/-! ## Block formats (R104 to R109, R115, R116) -/

/-- R104: the magnitude of an E2M1 code in halves. -/
def e2m1Half (c : Nat) : Nat :=
  match c % 8 with
  | 0 => 0 | 1 => 1 | 2 => 2 | 3 => 3 | 4 => 4 | 5 => 6 | 6 => 8 | _ => 12

/-- R106: an inert SPECIAL byte. -/
def inertB (s : Nat) : Bool :=
  let m := s % 128
  m == 0 || m == 0x30 || m == 0x38 || m == 0x3C || m == 0x40 || m == 0x44 || m == 0x48 || m == 0x4C

/-- R108: an element's exact value, or a tagged NaN, under header `h`. -/
def blkVal (c h : Nat) (f4s : Bool) : Sum Nat FV :=
  let scale := h % 256
  let sp := h / 256 % 256
  let neg := c / 8 % 2 == 1
  if scale == 0xFF then .inl (tagNan 4 c neg)
  else if f4s && c == 8 && !inertB sp && sp % 128 == 0x7F then .inl (tagNan 3 sp (decide (sp ≥ 128)))
  else
    let v : FV :=
      if f4s && c == 8 && !inertB sp then
        match valF fmt8a sp with
        | .fin n m e => .fin n m (e + scale - 127)
        | w => w
      else .fin neg (e2m1Half c) ((scale : Int) - 128)
    match v with
    | .fin _ m e => if m != 0 && decide (e + Nat.log2 m > 127) then .inl (tagNan 5 c neg) else .inr v
    | _ => .inr v

/-- R108: `decode`, as FP32. -/
def blkDecode (c h : Nat) (f4s : Bool) : Nat :=
  match blkVal c h f4s with
  | .inl x => x
  | .inr v => packF fmt32 rmRne v

/-- A finite value in units of 2^-300. -/
def fixV : FV → Int
  | .fin neg m e => let i : Int := (m * 2 ^ (e + 300).toNat : Nat); if neg then -i else i
  | _ => 0

/-- R115: the codes of V under a header, each with its value in units of 2^-300, ordinary codes first. -/
def blkSet (h : Nat) (f4s : Bool) : List (Nat × Int) :=
  ([0, 1, 2, 3, 4, 5, 6, 7, 9, 10, 11, 12, 13, 14, 15, 8] : List Nat).filterMap fun c =>
    match blkVal c h f4s with
    | .inl _ => none
    | .inr v => some (c, fixV v)

/-- R115: the member of V preferred to `b` for `x` at equal distance: mantissa bit 0, an ordinary code before the special. -/
def blkBetter (special : Bool) (x : Int) (a b : Nat × Int) : Bool :=
  let da := (x - a.2).natAbs
  let db := (x - b.2).natAbs
  decide (da < db) || (da == db && (if special && b.1 == 8 then true else if special && a.1 == 8 then false
    else a.1 % 2 == 0 && b.1 % 2 == 1))

/-- The best member of a list under a preference. -/
def bestOf (better : Nat × Int → Nat × Int → Bool) : List (Nat × Int) → Option (Nat × Int)
  | [] => none
  | a :: rest => some (rest.foldl (fun b c => if better c b then c else b) a)

/-- R115: a finite value rounded to V under RND. -/
def blkRound (rnd : Nat) (h : Nat) (f4s : Bool) (xneg : Bool) (x : Int) : Nat :=
  let vs := blkSet h f4s
  let special := f4s && !inertB (h / 256 % 256)
  let lo := vs.filter (fun p => decide (p.2 ≤ x))
  let hi := vs.filter (fun p => decide (p.2 ≥ x))
  let maxOf := bestOf (fun a b => decide (a.2 > b.2)) vs
  let minOf := bestOf (fun a b => decide (a.2 < b.2)) vs
  let near (l : List (Nat × Int)) (other : Option (Nat × Int)) : Option (Nat × Int) :=
    match bestOf (blkBetter special x) l with
    | some p => some p
    | none => other
  let r :=
    if lo.isEmpty then minOf
    else if hi.isEmpty then maxOf
    else
      match rnd with
      | 0 => near vs none
      | 1 => if decide (x ≥ 0) then near lo none else near hi none
      | 2 => near hi none
      | _ => near lo none
  match r with
  | some (c, v) => if v == 0 then (if xneg && !special then 8 else 0) else c
  | none => 0

/-- R115: one lane's code under header `h`; `x` is its FP32 code. -/
def blkEncode (rnd : Nat) (h : Nat) (f4s : Bool) (x : Nat) : Nat :=
  let back : Option Nat :=
    match tagOf x with
    | some (kind, code) =>
      let c := if kind == 3 then 8 else code % 16
      if decide (kind ≥ 3) && blkDecode c h f4s == x then some c else none
    | none => none
  match back with
  | some c => c
  | none =>
    if h % 256 == 0xFF then 0
    else
      match valF fmt32 x with
      | .nan => if f4s && h / 256 % 128 == 0x7F then 8 else 0
      | .inf neg => blkRound rnd h f4s neg (if neg then -(2 ^ 900) else 2 ^ 900)
      | v => blkRound rnd h f4s (negF fmt32 x) (fixV v)

/-- R116: the header of the chosen form, from the ACTIVE lanes' FP32 codes in lane order. -/
def blkHeader (rm : Rm) (f4s : Bool) (xs : List Nat) : Nat :=
  let bad := xs.any (fun x => match valF fmt32 x with | .fin _ _ _ => false | _ => true)
  if bad then 0xFF
  else
    let a := xs.foldl (fun a x => max a (fixV (valF fmt32 x)).natAbs) 0
    if a == 0 then 0x7F
    else
      let k : Int := max (-127) (min 127 ((Nat.log2 a : Int) - 300 - 2))
      let scale := (k + 127).toNat
      if !f4s then scale
      else
        let err (x : Nat) : Nat :=
          match blkVal (blkEncode rm.rnd scale true x) scale true with
          | .inl _ => 0
          | .inr v => (fixV (valF fmt32 x) - fixV v).natAbs
        let worst := xs.foldl (fun (b : Option (Nat × Nat)) x =>
          match b with
          | none => some (err x, x)
          | some (eb, _) => if err x > eb then some (err x, x) else b) none
        match worst with
        | none => scale
        | some (e, x) =>
          if e == 0 then scale
          else
            match valF fmt32 x with
            | .fin n m ex =>
              let sp := encF fmt8a { rm with sat := true } n m (ex - k)
              if inertB sp then scale else sp * 256 + scale
            | _ => scale

/-! ## Herd and atomic combination (R201, R202, R347) -/

/-- R202, R347: `hop` for a float element: nearest-even, subnormals kept, canonical NaN; 0 add, 1 min, 2 max. -/
def hopF (f : Fmt) (op : Nat) (x y : Nat) : Nat :=
  match op with
  | 0 => faddF f rmRne x y
  | 1 => fmmF f rmRne false x y
  | _ => fmmF f rmRne true x y

end Sys2Proof.Machine
end

