-- ==== Sys2Proof/Machine/State.lean ====
section
/-! DEFINITION. The state of one Umette 840 package as plain data. Each field's docstring gives its width, the rule of
spec/ that names it and its reset value (03_state and the chapters named); `MODEL` marks the model's own fields. -/

namespace Sys2Proof.Machine

open Sys2Proof

/-- Why a step stops with a fault of the model. Faults of the hardware (R226) are no constructors here: taking one is a
next state (R228, R230). -/
inductive Fault where
  /-- Raised by every instruction word's meaning when no party holds the issue (`State.cur` is none, or names no
  party that exists). Safe: no run of `step` reaches it. -/
  | noIssuingParty
  deriving DecidableEq, Repr

/-- Why a step gives no meaning. -/
inductive Refusal where
  /-- Raised by an arm of `exec` whose instruction has no meaning yet. Safe. -/
  | notModelled (mnemonic : String)
  deriving DecidableEq, Repr

/-! ## Streams -/

/-- R60, R64, R87: a bypass latch: its valid mark and one 64-bit entry per lane. -/
structure Latch where
  /-- 1 bit; R64; reset false. -/
  valid : Bool
  /-- 64 bits × 32 lanes; R60; reset 0 in every lane. -/
  val : Lanes W64
  deriving DecidableEq, Repr

/-- R73: a divergence entry. -/
structure DivEntry where
  /-- bytes 7:0: start address of the waiting arm; R73. -/
  start : W64
  /-- bytes 15:8: join address; R73. -/
  join : W64
  /-- bytes 19:16: waiting mask; R73. -/
  waitMask : W32
  /-- bytes 23:20: parent mask; R73. -/
  parent : W32
  deriving DecidableEq, Repr

/-- R91, R43, R90: what a stream waits for. -/
inductive Wait where
  | ready                            -- R84: it may issue
  | load (op : Nat)                  -- R90: data of an outstanding load
  | page (reqs : List Nat)           -- R225: page requests (their model numbers), one of which must be answered
  | join                             -- R95: arrived at the top-level join
  | pop (ch : Nat)                   -- R43: an empty channel
  | push (ch : Nat)                  -- R43: a full channel
  | cls (c : Nat) (n : Nat)          -- R177: WAITC of class 0 LC, 1 SC, 2 AC, 3 CC
  | waitg                            -- R177
  | fence (scope : Nat)              -- R178
  | bar (b : Nat)                    -- R354
  | monitor (mwait : Bool)           -- R165, R378: a monitor of an MWAIT, or of a CNTW, registered
  | monitorFree (mwait : Bool) (slice : Nat)  -- R165: no monitor of a slice free
  | bow (h tok : Nat)                -- R362
  | lock (n : Nat)                   -- R155
  | unlk (n : Nat)                   -- R473
  | hbar (phase : Nat)               -- R400
  | batch (n : Nat)                  -- R134
  | ring                             -- R160, R380: copy-ring slots
  | slots                            -- R76: an RPROG slot
  | ops                              -- R243: 32 open matrix operations
  | held (line : Nat)                -- R173: a held synchronisation write on the line
  | remote (line : Nat)              -- R197: an answer of the fabric
  | snatch (pa : Nat)                -- R252: a held post-cut write
  | compare (pt : Nat)               -- R266: the other copy at a compare point: 0 of the party itself, b + 1 of barrier b
  | forward                          -- R267: the primary's forwarded access
  | rows (row stamp : Nat)           -- R138: a matrix operation issued before it (below this number) on the row
  | atomic (id : Nat)                -- R299: an AtomicOp in flight
  | region (ctx : Nat)               -- R190: a region switch
  | counter (c : Nat)                -- R65: a counter at 1,023
  | data (op : Nat)                  -- R86: the result of an outstanding operation that is no load which missed
  | miss                             -- R92: a miss-status entry
  | again                            -- R267: the other copy's own scratchpad, which its forwarded access has to wait for
  | flight (op : Nat)                -- R225, R482: accesses of its stopped instruction that are still on their way
  deriving DecidableEq, Repr

/-- R222: what a page response left for one page of a party's stopped access. -/
structure PageOutcome where
  page : Nat
  stage2 : Bool
  write : Bool
  res : PrCode
  deriving DecidableEq, Repr

/-- The control part that a path and a bellwether share. -/
structure Ctl where
  /-- 64 bits; R60, R75; reset: the stream's entry. -/
  pc : W64
  /-- R81: run position, 0 to 23; reset 0. -/
  runPos : Nat
  /-- R81, R95: the run at `runStart` has begun (the checks of its start have been made) and has not ended; reset false. MODEL. -/
  inRun : Bool
  /-- R65, R86, R92: it stalled inside its run, and its run keeps the slot; reset false. MODEL. -/
  keep : Bool
  /-- R138: the row of an LDACC or STACC that has stalled, and its place among the matrix operations; reset none. MODEL. -/
  acc : Option (Nat × Nat)
  /-- R101: the address of the run's first word; reset the entry. -/
  runStart : W64
  /-- R72: the newest first, at most 8 hardware return entries of 64 bits; reset empty. -/
  ret : List W64
  /-- R72, R98: return entries in the spill area; reset 0. -/
  retSpill : Nat
  /-- 1 bit; R228: the handler flag; reset 0. -/
  handler : Bool
  /-- 64 bits; R229: the PC that trap entry saved; reset 0. -/
  trapPc : W64
  /-- R491: a lane access whose fault the handler has taken and not returned past (its operation); reset none. -/
  trapOp : Option Nat
  /-- R89, R229: the start of the run that trap entry interrupted; reset 0. -/
  trapStart : W64
  /-- R84, R91: what the stream waits for; reset ready. -/
  wait : Wait
  /-- R85: the clock at which it last became ready; reset 0. -/
  age : Nat
  /-- R480: a yield asked for in this run; reset false. -/
  yielded : Bool
  /-- 16 bits; R166: mine[b]; reset 0. -/
  mine : BitVec 16
  /-- 16 bits; R352: pending[b]; reset 0. -/
  pend : BitVec 16
  /-- R353: the barrier at which a BARS has made its arrival; reset none. -/
  arrived : Option Nat
  /-- R353, R480: what trap entry keeps of the word and the run that it interrupts: `arrived`, and `yielded`; reset none, false. MODEL. -/
  trapKept : Option Nat × Bool
  /-- R225: the open operation of a lane access stopped part way; reset none. -/
  openOp : Option Nat
  /-- R222: answers waiting to be used; reset empty. -/
  outcomes : List PageOutcome
  /-- R222: the page requests that accesses of the word at pc wait on, or have waited on since it was first tried; reset empty. -/
  asked : List Nat
  /-- R267: a compare point has been passed for the word at pc; reset false. -/
  cmpOk : Bool
  /-- R267: the secondary has the result of the primary's forwarded access at pc; reset false. -/
  fwd : Bool
  /-- R52, R391: the stream has ended; reset false. -/
  ended : Bool
  deriving DecidableEq, Repr

/-- R60: a path of a group. -/
structure Path where
  ctl : Ctl
  /-- 32 bits; R60; reset all lanes (R35). -/
  mask : W32
  /-- 32 bits; R60, R101; reset 0xFFFF_FFFF. -/
  brand : W32
  /-- R60: L0 to L3; reset invalid. -/
  latches : Vector Latch 4
  /-- R72: the newest first, at most 8 hardware divergence entries; reset empty. -/
  div : List DivEntry
  /-- R72, R98: divergence entries in the spill area; reset 0. -/
  divSpill : Nat
  /-- R95, R98: the joins of the spilled entries, the newest first, with which the core knows a join without a read; reset empty.
  MODEL (notes/assumptions 82). -/
  divJoins : List W64
  /-- 15 bits each; R71: the window in force for the run (ABASE, ALIM); reset 0, 0. -/
  win : Nat × Nat
  /-- R71, R424: the window of the run that trap entry interrupted; reset 0, 0. -/
  trapWin : Nat × Nat
  deriving DecidableEq, Repr

/-- R60, R176: the counter classes. -/
inductive Cls where
  | lc | sc | ac | cc
  deriving DecidableEq, Repr

/-- The registers whose value an outstanding load awaits (R86). -/
inductive Dst where
  | none
  | vreg (r n : Nat)      -- n consecutive vector registers
  | sreg (r : Nat)        -- an s register, or a w register of the bellwether
  | pred (r : Nat)
  deriving DecidableEq, Repr

/-- R65, R176: one outstanding operation of a stream's counters. -/
structure OutOp where
  id : Nat
  cls : Cls
  /-- R94, R96: the path whose scoreboard holds it; none when it was issued while the group was not split, or before the
  merge. -/
  side : Option Bool
  /-- R65: completed, held behind an older operation. -/
  done : Bool
  /-- R169: the latest GWCT of its writes, 0 for none. -/
  g : Nat
  /-- R86: the destination that awaits. -/
  dst : Dst
  /-- R90: lane, register and value of the data in flight. -/
  pending : List (Nat × Nat × W32)
  /-- R92: the lines of those data, each with a miss-status entry, and the lanes that it serves. -/
  miss : List (Nat × W32)
  /-- R174: the lines it wrote, whose own reads are forwarded until it completes. -/
  lines : List Nat
  /-- R178: the write took the streaming, write-combining or non-coherent way to the host (R186). -/
  posted : Bool
  /-- lanes not yet performed; the operation completes only when false. -/
  stopped : Bool
  /-- R224, R225: the lanes of an access stopped part way that have been made, and are not made again: performed, or still on their way. MODEL. -/
  made : W32
  /-- R403: the load is an LDA: no later access of its path issues before it has completed. -/
  acq : Bool
  deriving DecidableEq, Repr

/-- R306: a deferred fault of an access that has issued. -/
structure Deferred where
  cls : Cls
  /-- the path that takes it; none when the access was issued while the group was not split, or before the merge. -/
  side : Option Bool
  code : Nat
  addr : W64
  lanes : W32
  dst : Dst
  /-- R228: the access was a write. -/
  write : Bool
  deriving DecidableEq, Repr

/-- R60: a group. -/
structure Group where
  /-- v0–v127: 32 bits × 32 lanes × up to 128; R60; reset 0. -/
  v : List (Lanes W32)
  /-- s0–s31: 64 bits × 32; R60; reset 0. -/
  s : Vector W64 32
  /-- p0–p15: 32 bits × 16; R60, R63; reset p0 all ones, others 0. -/
  p : Vector W32 16
  /-- k0–k7: 64 bits × 8; R60; reset 0. -/
  k : Vector W64 8
  /-- MODE: 16 bits; R60, R66; reset 0x0000. -/
  mode : W16
  /-- LC, SC, AC, CC: 10 bits each, as the outstanding operations in issue order; R60, R65; reset 0. -/
  ops : List OutOp
  /-- GWMAX: 64 bits, fabric time; R60, R176; reset 0. -/
  gwmax : Nat
  /-- PMASK: 32 bits; R60, R225; reset 0. -/
  pmask : W32
  /-- DEAD: 32 bits; R60, R236; reset 0. -/
  dead : W32
  /-- GSTAT: 32 bits; R60, R70; reset 0, IDEM and PAIRED as the launch gives. -/
  gstat : W32
  /-- ABASE: 15 bits; R60, R71; reset 0. -/
  abase : Nat
  /-- ALIM: 15 bits; R60, R71; reset 0. -/
  alim : Nat
  /-- TBASE: 64 bits; R60, R69; reset 0. -/
  tbase : W64
  /-- R95: FIN, the lanes that DONE has finished; reset 0. -/
  fin : W32
  /-- R94: the split flag; reset 0. -/
  split : Bool
  /-- R94: the top-level join address; reset 0. -/
  join : W64
  path0 : Path
  path1 : Path
  /-- R52, R53: the group has retired; reset false (true for a node group without records, R50). -/
  retired : Bool
  /-- R78: the lane mask of node records; reset all ones for a grid block. -/
  records : W32
  /-- R10: the fabric time of the group's last read, 0 for none; reset 0. -/
  lastFt : Nat
  /-- R306: reset empty. -/
  deferred : List Deferred
  /-- R248: group-record granules written since the last cut; reset empty. -/
  gran : List Nat
  deriving DecidableEq, Repr

/-- R75: a bellwether. -/
structure Bell where
  ctl : Ctl
  /-- w0–w63: 64 bits × 64; R75; reset 0. -/
  w : Vector W64 64
  /-- q0–q7: 1 bit × 8; R75; reset q0 true, others false. -/
  q : BitVec 8
  /-- h0–h7: 64 bits × 8; R75, R282; reset the launch values. -/
  h : Vector W64 8
  /-- k0–k7: 64 bits × 8; R75; reset 0. -/
  k : Vector W64 8
  /-- MODE: 16 bits; R75; reset 0x0000. -/
  mode : W16
  /-- MBATCH: 32 bits; R75; reset 1. -/
  mbatch : W32
  /-- RPROG0–RPROG3: 32 bits × 4; R75, R76; reset 0. -/
  rprog : Vector W32 4
  /-- TBASE: 64 bits; R75; reset 0. -/
  tbase : W64
  /-- R184: the bellwether's own counters, not readable; reset empty. -/
  ops : List OutOp
  /-- R184: the bellwether's own GWMAX, not readable; reset 0. -/
  gwmax : Nat
  /-- R10: the fabric time of its last read; reset 0. -/
  lastFt : Nat
  /-- R400: the grid barrier phase its HBAR has arrived in; reset none. -/
  hbar : Option Nat
  /-- R306: reset empty. -/
  deferred : List Deferred
  /-- R480: clock until which the pipeline withholds the stream; reset 0. -/
  yieldUntil : Nat
  deriving DecidableEq, Repr

/-! ## Blocks -/

/-- R33, R288: the resources a kernel descriptor declares. -/
structure Decl where
  groups : Nat
  vregs : Nat
  sregs : Nat
  scratch : Nat
  acc : Nat
  barriers : Nat
  channels : Nat
  chanMask : W16
  access : Nat
  spill : Nat
  idem : Bool
  paired : Bool
  node : Bool
  recSize : Nat
  bellEntry : W64
  groupEntry : W64
  dispatch : Nat
  deriving DecidableEq, Repr

/-- R39: an entry of a channel: 8 bytes (scalar) or 128 bytes (vector). -/
inductive ChanEntry where
  | sc (v : W64)
  | vec (v : Lanes W32)
  deriving DecidableEq, Repr

/-- R166, R238: a named barrier. -/
structure NBar where
  /-- EXP; R166; reset 0. -/
  exp : Nat
  /-- ARR; R166; reset 0. -/
  arr : Nat
  /-- PHASE: 1 bit; R166; reset 0. -/
  phase : Bool
  /-- 32 bits; R238: the user mask; reset 0. -/
  users : W32
  /-- 32 bits; R238: groups that are standing arrivers; reset 0. -/
  standing : W32
  /-- 32 bits; R238: groups that have been counted in this phase; reset 0. -/
  counted : W32
  deriving DecidableEq, Repr

/-- R133, R243: a matrix operation. -/
inductive MKind where
  | wld (bank : Bool) (addr : W64) (cstride sstride fmt : Nat) (sptr : W64)
  | mstr (bank : Bool) (addr : W64) (stride m fmt : Nat) (sptr : W64) (row0 : Nat) (fresh : Bool)
  | mdrn (addr : W64) (stride m fmt rnd : Nat) (sat : Bool) (opn : Nat) (scratch : Bool) (scope row0 : Nat)
  | mclr (row count : Nat)
  deriving DecidableEq, Repr

/-- R133, R135, R143: a matrix operation issued and not complete, in issue order. -/
structure MOp where
  id : Nat
  /-- R135: its place among the streams of the core: its number, or that of its latest restart. -/
  seq : Nat
  kind : MKind
  /-- R131, R141: rows complete. -/
  prog : Nat
  /-- R76: its RPROG slot. -/
  slot : Option Nat
  /-- R133: the batch that closed it; none while open. -/
  batch : Option W32
  /-- R132: failed; waits at its restart point. -/
  failed : Bool
  /-- R123, R135: its stream is in the array; reset false. MODEL. -/
  entered : Bool
  /-- R143: all performed; complete when FT passes `g`. -/
  performed : Bool
  g : Nat
  /-- R199: the lines it has written. -/
  lines : List Nat
  /-- R132: the page request it waits on. -/
  req : Option Nat
  outcomes : List PageOutcome
  deriving DecidableEq, Repr

/-- R132: a deferred engine fault of a block. -/
structure EngFault where
  op : Nat
  code : Nat
  addr : W64
  write : Bool
  stage2 : Bool
  slot : Nat
  deriving DecidableEq, Repr

/-- R123, R127: the last WLD of a block to a bank. -/
structure BankDesc where
  addr : W64
  cstride : Nat
  sstride : Nat
  fmt : Nat
  sptr : W64
  deriving DecidableEq, Repr

/-- R80, R260: a bank whose tile a block that has come back has still to have replayed, with the page request that the replay waits on. -/
structure BankLoad where
  bank : Bool
  req : Option Nat
  outcomes : List PageOutcome
  deriving DecidableEq, Repr

/-- R162, R163: the Mule's work on one published ring entry. -/
structure CopyWork where
  /-- absolute ring index. -/
  idx : Nat
  /-- R176: the group that issued it; none for the bellwether. -/
  issuer : Option Nat
  /-- its counter entry. -/
  op : Nat
  /-- PROG; R162. -/
  prog : Nat
  /-- all lines moved or an error met. -/
  done : Bool
  /-- STATUS; R159, R163. -/
  status : Nat
  /-- the latest GWCT of its writes at their scope. -/
  g : Nat
  /-- R163: the page request it waits on. -/
  req : Option Nat
  outcomes : List PageOutcome
  deriving DecidableEq, Repr

/-- R155, R156: a lock a block holds. -/
structure HeldLock where
  num : Nat
  off : Nat
  /-- ranges: base virtual address and lines. -/
  ranges : List (W64 × Nat)
  /-- R156: marked lines, as indices into the pushed lines. -/
  marked : List Nat
  /-- R155: the party whose LOCK has still to complete; none once it has. -/
  asker : Option Who
  /-- R243, R473: the word of that LOCK, or of the UNLK under way. -/
  word : W32
  /-- R156, R473: the latest package GWCT of the write-back of an UNLK under way, whose lines still to be read are `marked`; none before. -/
  rel : Option Nat
  /-- R473: the party whose UNLK that is; none for a block's end. -/
  giver : Option Who
  deriving DecidableEq, Repr

/-- R265: a shadow line of a paired copy. -/
structure Shadow where
  pa : Nat
  /-- written bytes by offset in the line. -/
  bytes : List (Nat × Byte)
  /-- R265: the addends of add-on-stores in their order: element offset, FP32 addend, RND and SAT. -/
  addend : List (Nat × W32 × Nat × Bool)
  /-- R234: the dwords of the line that are poisoned. -/
  bad : List Nat
  /-- R217: the mapping type of its page. -/
  typ : Nat
  deriving DecidableEq, Repr

/-- R264: what a block's copy keeps when it runs paired. -/
structure Pair where
  /-- the other copy's block. -/
  mate : Nat
  primary : Bool
  shadow : List Shadow
  /-- 64 bits; R266: the run digest since the last compare point; reset 0. -/
  runSum : W64
  /-- R268: this copy has raised BRAND; reset false. -/
  failed : Bool
  /-- R268: this block is a third run, in place of the copy it may replace. -/
  isThird : Bool
  /-- R268: the block of the third run under way; none. -/
  run3 : Option Nat
  /-- R267: the GWCT at pkg scope of the writes of the last compare point. -/
  g : Nat
  /-- R266: barriers, by number plus 1, whose phase a copy's arrival or a standing arriver is to complete: they wait at the compare point;
  reset empty. -/
  points : List Nat
  /-- R266: those of them whose compare point has been passed; reset empty. -/
  passed : List Nat
  deriving DecidableEq, Repr

/-- R54, R57, R242: where a block stands. -/
inductive BStat where
  | resident | swapped | stopped | ended
  deriving DecidableEq, Repr

/-- R77: a block. -/
structure Block where
  ctx : Nat
  grid : Nat
  /-- R32: linear index, up to 40 bits. -/
  lin : Nat
  stat : BStat
  /-- physical core 0–127 (never visible, R15). -/
  core : Nat
  decl : Decl
  /-- R282: the block's spill frame. -/
  frame : Nat
  /-- R50: a node block's records, for a redispatch (R257); none for a grid block. -/
  recs : List (List Byte)
  bell : Bell
  groups : List Group
  /-- R39: channel contents, oldest first; reset empty. -/
  chans : List (List ChanEntry)
  /-- R77, R166: named barriers. -/
  bars : List NBar
  /-- R77: the scratchpad allocation, bytes by offset; canonical; unlisted bytes are 0 (R35). -/
  scratch : List Host.Cell
  /-- R136: accumulator elements by row × 128 + column; reset open, see `accClean`. -/
  acc : List (Nat × W32)
  /-- R35: true when the core had held no block of the context since it was cleared (unlisted elements are then 0). -/
  accClean : Bool
  /-- 128 bits × 8; R148, R149: WDESC0–WDESC7; reset 0. -/
  wdesc : Vector (BitVec 128) 8
  /-- R150: writer tags other than owner: line offset / 128, peer index; reset empty. -/
  tags : List (Nat × Nat)
  /-- 128 bits; R152: CREG; reset 0. -/
  creg : BitVec 128
  /-- 32 bits; R148: RESV; reset 0. -/
  resv : W32
  /-- 32 bits; R148: HEAD; reset 0. -/
  head : W32
  /-- 32 bits; R148: TAIL; reset 0. -/
  tail : W32
  copies : List CopyWork
  /-- R133: matrix operations issued and not complete, oldest first; reset empty. -/
  mops : List MOp
  /-- 32 bits; R134: batches below this number (cyclic) have retired; reset 1. -/
  retired : W32
  /-- R124: pending format of b0 and b1; none while never loaded. -/
  pendFmt : Vector (Option Nat) 2
  /-- R123, R128: the last WLD descriptor taken by b0 and b1. -/
  bankDesc : Vector (Option BankDesc) 2
  /-- R80: the banks to be reloaded before its streams restart; reset empty. MODEL. -/
  reload : List BankLoad
  /-- R132: the deferred engine fault; reset none. -/
  engFault : Option EngFault
  /-- R55, R171: the latest GWCT of the writes of its copies, drains and locks; reset 0. -/
  gOut : Nat
  /-- R199: the lines shared through the fabric that those have written; reset empty. -/
  outLines : List Nat
  locks : List HeldLock
  pair : Option Pair
  /-- R246: dispatched since the last cut, so that every granule of its group records counts as written; reset true. -/
  newborn : Bool
  deriving DecidableEq, Repr

/-! ## Cores, memory and translation -/

/-- R120: a physical array row. -/
inductive RowState where
  | inUse | spare | disabled
  deriving DecidableEq, Repr

/-- R170: a line in a core's L1 under a lease. -/
structure L1Line where
  line : Nat
  bytes : List Byte
  lease : Nat
  /-- R239: the copy came as poison. -/
  bad : Bool
  deriving DecidableEq, Repr

/-- R123: a physical weight bank: whose tile it holds, its format, and the tile's columns decoded as bytes and scales. -/
structure Bank where
  blk : Nat
  fmt : Nat
  cols : List (List Byte)
  scales : List (List Byte)
  poison : Bool
  deriving DecidableEq, Repr

/-- R92: what asks for a miss-status entry. -/
inductive MissWho where
  | party (p : Party)      -- a load of a stream, or a spill fill of one
  | mop (blk id : Nat)     -- a matrix load pipe
  | copy (blk idx : Nat)   -- the Mule
  deriving DecidableEq, Repr

/-- R92: a request that found no free miss-status entry. -/
structure MissReq where
  who : MissWho
  /-- engine traffic. -/
  engine : Bool
  /-- its place among the others: FT of its first request. -/
  since : Nat
  /-- R84: the issue slot of a group request. -/
  slot : Nat
  /-- rejections of an engine request, saturating at 16. -/
  rejected : Nat
  deriving DecidableEq, Repr

/-- R92: a line that an engine or a spill fill draws from beyond its home slice: its miss-status entry stands until the data have come, in
the clock after the request. -/
structure Fill where
  who : MissWho
  line : Nat
  /-- FT of the request. -/
  since : Nat
  /-- the unit of its requester's work that asked: a stream's PC, or an operation's progress. -/
  unit : Nat
  deriving DecidableEq, Repr

/-- R16: a core. -/
structure Core where
  /-- R14, R240: enabled; reset true. -/
  enabled : Bool
  /-- R269: quarantined; reset false. -/
  quarantined : Bool
  /-- R120: 196 physical rows; reset 192 in use, 4 spare. -/
  rows : List RowState
  banks : Vector (Option Bank) 2
  l1 : List L1Line
  /-- R92: the requests that wait for a miss-status entry; reset empty. -/
  missQ : List MissReq
  /-- R92: the lines on their way to its engines and spill fills; reset empty. -/
  fills : List Fill
  /-- R30: the context whose blocks the core holds; reset none. -/
  ctx : Option Nat
  /-- R35: a block of that context has been held since the core was cleared; reset false. -/
  used : Bool
  /-- R240: times of the last hour's poisonings; reset empty. -/
  poisonings : List Nat
  /-- R269: times at which a third run replaced a copy on this core; reset empty. -/
  replaced : List Nat
  deriving DecidableEq, Repr

/-- R234: a poisoned word or element. -/
inductive PLoc where
  | mem (dword : Nat)
  | scratch (blk dword : Nat)
  | acc (blk idx : Nat)
  | vlane (blk grp reg lane : Nat)
  | sreg (blk grp reg : Nat)
  | wreg (blk reg : Nat)
  | chan (blk ch entry lane : Nat)
  | herd (line slot : Nat)
  | herdSealed (line slot : Nat)   -- R247: a sealed partial
  | vword (arr : ArrayRef)         -- R233: the vertical word of a column group
  deriving DecidableEq, Repr

/-- R219: the translation caches: a core's instruction, group data and engine TLB, and the L2 TLB of a die. -/
inductive TlbPlace where
  | instr (core : Nat)
  | data (core : Nat)
  | engine (core : Nat)
  | die (d : Nat)
  deriving DecidableEq, Repr

/-- R218, R219: a cached translation of a page of 2 ^ `shift` bytes. -/
structure Tlb where
  place : TlbPlace
  fn : Nat
  pasid : Nat
  vpage : Nat
  shift : Nat
  pa : Nat
  r : Bool
  w : Bool
  x : Bool
  sys : Bool
  typ : Nat
  d : Bool
  deriving DecidableEq, Repr

/-- R219: an entry of a die's walk cache: a non-leaf entry of stage 1 (`kind` 0) or 2 (1) by its level and the address bits above those
it maps, or the page that stage 2 gives a stage-1 table (2). -/
structure WalkEnt where
  die : Nat
  fn : Nat
  pasid : Nat
  kind : Nat
  level : Nat
  tag : Nat
  val : Nat
  deriving DecidableEq, Repr

/-- R22, R219: for whom a walk is made: the function and PASID that tag what it caches, and the die whose walkers make it. -/
structure Walker where
  fn : Nat
  pasid : Nat
  die : Nat
  deriving DecidableEq, Repr

/-- R22: a nested walker in use: whose walk it makes, the 4 KiB page it walks for, and the line that it waits for. -/
structure Walking where
  key : Walker
  page : Nat
  wait : Wait
  deriving DecidableEq, Repr

/-- R165, R378: a monitor on a word. -/
structure Monitor where
  party : Party
  /-- R220: its number among the accesses of the device. -/
  born : Nat
  /-- physical address, or the scratchpad offset of the party's block. -/
  loc : PLoc
  va : W64
  pa : Nat
  width : Nat
  cond : Nat
  signed : Bool
  v : W64
  /-- R164: a completion counter's condition. -/
  counter : Bool
  /-- the word of the first evaluation that held. -/
  hit : Option W64
  /-- R422: it is another package's: its requester, its address and what it asks; `party` then names no stream. -/
  far : Option (Nat × Nat × ReqKind)
  deriving DecidableEq, Repr

/-- R347, R348: one lane of a line's indivisible step. -/
structure LaneReq where
  lane : Nat
  pa : Nat
  va : W64
  op : SyncOp
  deriving DecidableEq, Repr

/-- R173: a synchronisation write held at its slice. -/
structure HeldReq where
  party : Party
  op : Nat
  line : Nat
  lanes : List LaneReq
  /-- destination register of the old values, and the words of one value. -/
  dst : Dst
  words : Nat
  /-- cores that must still acknowledge the revocation. -/
  acks : List Nat
  /-- its place among the writes that have arrived at the line. -/
  seq : Nat
  /-- R167: the place of a barrier-object operation, which its party performs itself. -/
  obj : Bool
  /-- R173, R307: the place of another package's atomic operation: its requester, its address and what it asks. -/
  far : Option (Nat × Nat × ReqKind)
  deriving DecidableEq, Repr

/-- R171, R173: a plain write on its way to the owner of its line: behind a held synchronisation write, or until the package may write
the line. -/
structure QWrite where
  /-- its place among the writes that have arrived at the line. -/
  seq : Nat
  party : Party
  op : Nat
  lane : Nat
  va : W64
  pa : Nat
  typ : Nat
  bytes : List Byte
  /-- R186: its way to the host is that of a posted store: whether it is write-combining, and whether it is sent with Relaxed Ordering. -/
  post : Option (Bool × Bool)
  deriving DecidableEq, Repr

/-- R221, R252: where a write of the device's own goes: a context's virtual memory, the same for the lines of an area that the slices or a
resume write in no order (R246, R260), an intermediate address of a function, or a physical address. -/
inductive DevTo where
  | va (ctx a : Nat)
  | area (ctx a : Nat)
  | ia (fn a : Nat)
  | pa (a : Nat)
  deriving DecidableEq, Repr

/-- R90, R173: a lane's load, or an SLD, on its way to the owner of its line: behind what holds the line there, or until the package may
read the line. -/
structure QRead where
  /-- its place among what has arrived at the line. -/
  seq : Nat
  party : Party
  op : Nat
  lane : Nat
  va : W64
  pa : Nat
  typ : Nat
  /-- the TYPE of the element, as MODE has it; none for the 8 bytes of an SLD. -/
  ty : Option Nat
  /-- it fills the core's L1. -/
  fill : Bool
  /-- R90: its data come over the fabric. -/
  far : Bool
  deriving DecidableEq, Repr

/-- R171, R221, R252: a write of the device's own (a record, an event, a QCB) that has still to be performed. -/
structure DevWrite where
  id : Nat
  dest : DevTo
  bytes : List Byte
  /-- R248: the context whose pre-cut writes it is one of. -/
  pre : Option Nat
  /-- R221: the page request it waits on, and its answers. -/
  req : Option Nat
  outcomes : List PageOutcome
  /-- R277: whether it is a release at sys scope, and the time at which the zero-length read of its host drain was issued. -/
  rel : Bool
  drain : Option Nat
  deriving DecidableEq, Repr

/-- R277: a write of the device's own that has been performed for a function: its id, its GWCT, and whether it went to the host as a
posted write that no host drain has followed. -/
structure DevDone where
  id : Nat
  fn : Nat
  gw : Nat
  posted : Bool
  deriving DecidableEq, Repr

/-- R186: a host drain whose zero-length read has been issued: the party it is for, and FT at its issue. -/
structure Drain where
  party : Party
  issued : Nat
  deriving DecidableEq, Repr

/-- R203: a line of the package in the Herd state: its tag and each core slot's partial of 128 bytes. -/
structure HerdLine where
  line : Nat
  tag : Nat
  parts : List (Nat × List Byte)
  /-- R247: partials sealed at a cut. -/
  sealedParts : List (Nat × List Byte)
  /-- R247: the context whose cut has sealed the partial of a core slot. -/
  sealers : List (Nat × Nat)
  stamp : Nat
  deriving DecidableEq, Repr

/-- R306: what awaits a line of the fabric: a stream at its word, a queued read or write by its place, an operation of the matrix engine, a
copy, a write of the device's own, a walk or a fetch of it, or another agent. -/
inductive FabWho where
  | party (p : Party)
  | read (seq : Nat)
  | write (seq : Nat)
  | mop (blk id : Nat)
  | copy (blk idx : Nat)
  | dev (id : Nat)
  | walk (fn : Nat)
  | other
  deriving DecidableEq, Repr

/-- R192, R200, R207, R308: what the package has asked of a line's directory beside the requests of R196: an LREVOKE, or that it recalls the
line (notes/assumptions 46). -/
structure DirAsk where
  line : Nat
  /-- a recall; else an LREVOKE. -/
  recalls : Bool
  /-- R304: the owner index that it carries. -/
  owner : Nat
  /-- R193: the switch that it went to. -/
  sw : Nat
  /-- R192: held until the package's DIRMAP reaches this version; 0 for none. -/
  holdVer : Nat
  /-- R197: the WAIT delay ends then; 0 for none. -/
  retryAt : Nat
  deriving DecidableEq, Repr

/-- R191, R194: a line the package shares through the fabric. -/
structure FabLine where
  line : Nat
  st : FState
  /-- R195: the fabric lease of an S copy. -/
  lease : Nat
  /-- R199: g_remote of the grant. -/
  gRemote : Nat
  /-- R199: acknowledgements still due. -/
  acks : Nat
  /-- R199: acknowledgements that came before their grant. -/
  early : Nat
  /-- R200: LEND of the grant, and FT when that came. -/
  lend : Nat
  grantAt : Nat
  /-- R192: the request in flight: 0 none, 1 GETS, 2 GETX, 3 UPG, 4 REDJ, 5 a merge. -/
  req : Nat
  reqAt : Nat
  /-- R304: the owner index that it carries. -/
  owner : Nat
  /-- R193: the switch that it went to. -/
  sw : Nat
  /-- R192: held until the package's DIRMAP reaches this version. -/
  holdVer : Nat
  /-- R197: the WAIT delay ends then; 0 for none. -/
  retryAt : Nat
  /-- R196: the operator tag of a REDJ in flight. -/
  tag : Nat
  /-- R422: the home has answered a write's request with an S copy, and keeps E and M back: a write goes to it and is performed there; and whether
  one has gone, so that a read needs a new copy; reset none. MODEL (notes/assumptions 73). -/
  kept : Option Bool
  /-- R306: the accesses that await the request in flight. MODEL. -/
  waiters : List FabWho
  /-- R306, R308: those of them that have still to take the end of a request without its data: fault code 0x0F (no answer for 4 ms), 0x08 or
  0x09 (refused). MODEL (notes/assumptions 63). -/
  errs : List (FabWho × Nat)
  /-- MODEL: until then they may take it. -/
  errEnd : Nat
  deriving DecidableEq, Repr

/-- R187: a 64-byte sector of coherent host memory. -/
structure Sector where
  addr : Nat
  modified : Bool
  mask : W64
  bytes : List Byte
  deriving DecidableEq, Repr

/-- R186: a posted store on its way to the host. -/
structure Posted where
  party : Party
  op : Nat
  pa : Nat
  bytes : List Byte
  wc : Bool
  /-- R186: sent with Relaxed Ordering: a streaming or write-combining store. -/
  relaxed : Bool
  deriving DecidableEq, Repr

/-- R299: an AtomicOp in flight. -/
structure HostAtomic where
  id : Nat
  party : Party
  op : Nat
  lane : Nat
  pa : Nat
  va : W64
  req : SyncOp
  dst : Dst
  words : Nat
  deriving DecidableEq, Repr

/-- R221: a page request, opened and perhaps sent. -/
structure PageReq where
  id : Nat
  fn : Nat
  pasid : Nat
  stage2 : Bool
  page : Nat
  write : Bool
  /-- R481: its group index once sent. -/
  idx : Option Nat
  opened : Nat
  deriving DecidableEq, Repr

/-- R154, R155: a request for a lock: its party, the lock number of its context, the scratchpad offset, and its LOCK's word (R243). -/
structure LockReq where
  party : Party
  num : Nat
  off : Nat
  word : W32
  deriving DecidableEq, Repr

/-- R154: a physical lock of a die. -/
structure Lock where
  die : Nat
  num : Nat
  holder : Option Nat
  /-- requests in arrival order. -/
  queue : List LockReq
  deriving DecidableEq, Repr

/-- R220: an invalidation whose accesses have not all been performed: what it covers, and the number below which operations count. -/
structure AtsInval where
  fn : Nat
  pasid : Nat
  base : Nat
  len : Nat
  all : Bool
  below : Nat
  /-- R220: the latest GWCT of the engines' writes made before it, and those of their lines that lie on the fabric. -/
  past : Nat
  lines : List Nat
  /-- R281: the INVAL packet that it belongs to; none for an ATS Invalidate Request. -/
  pkt : Option PktRef
  deriving DecidableEq, Repr

/-- The memory system. -/
structure MemSys where
  /-- 56-bit pod physical addresses (R23), bytes; canonical; unlisted bytes read 0. -/
  cells : List Host.Cell
  /-- R234: poisoned words and elements. -/
  poison : List PLoc
  /-- R90: lines present in their home slices. -/
  present : List Nat
  /-- R249: the checkpoint slot tag, 4 bits, of each 64 KiB page whose tag is not 0; reset empty. -/
  slotTags : List (Nat × Nat)
  /-- R171: the latest lease end granted on a line. -/
  leases : List (Nat × Nat)
  held : List HeldReq
  writes : List QWrite
  reads : List QRead
  drains : List Drain
  /-- R171, R221, R252: the device's own writes not yet performed, oldest first; reset empty. -/
  devq : List DevWrite
  /-- R277: the device's own writes performed that a release has still to wait for; reset none. -/
  devdone : List DevDone
  monitors : List Monitor
  herd : List HerdLine
  fab : List FabLine
  /-- R192, R200, R207: reset empty. -/
  asks : List DirAsk
  /-- R191: home lines whose fabric bit is set. -/
  fabricBits : List Nat
  sectors : List Sector
  posted : List Posted
  atomics : List HostAtomic
  /-- R189: the addresses of the bytes that a software-managed region's lines hold dirty in this package. -/
  smDirty : List Nat
  /-- R219: the translations of all places, the newest first. -/
  tlb : List Tlb
  /-- R219: the walk caches, the newest first. -/
  walks : List WalkEnt
  /-- R22: the nested walkers that wait for a line, the one that has waited longest first; reset empty. -/
  walking : List Walking
  invals : List AtsInval
  pageReqs : List PageReq
  locks : List Lock
  /-- R298, R301: populated bytes behind memory-tier ports 0 and 1. -/
  tierCap : Nat × Nat
  /-- R302: link of port 0 and 1 down. -/
  tierDown : Bool × Bool
  /-- R27: of memory-tier ports 0 and 1, the die whose checkpoint engine is served and the bytes of its turn; reset (0, 0). -/
  tierTurn : (Nat × Nat) × (Nat × Nat)
  deriving DecidableEq, Repr

/-! ## Contexts, grids, nodes -/

/-- R276: the context descriptor as the sequencer last read it. -/
structure CtxDesc where
  s1root : Nat
  /-- R170: LEASE in ns. -/
  lease : Nat
  ckptms : Nat
  cores : BitVec 128
  lkbase : W64
  lklim : Nat
  slottag : Nat
  statusrec : W64
  swap : W64 × Nat
  spillheap : W64 × Nat
  staging : W64
  pairarea : W64
  chain : Nat
  cset : List (Nat × Nat)
  errlog : W64
  lkphys : Vector Nat 4
  botable : W64
  brmap : W64
  deriving DecidableEq, Repr

/-- R242 to R260: what a context is doing. -/
inductive CtxState where
  | running | stopping | stopped | resuming | discarded
  deriving DecidableEq, Repr

/-- R32, R282: a grid. -/
structure Grid where
  ctx : Nat
  dimX : Nat
  dimY : Nat
  dimZ : Nat
  /-- R45: 1, 2, 4, 8 or 16. -/
  cluster : Nat
  decl : Decl
  h : Vector W64 8
  spillN : Nat
  spillBase : W64
  /-- R34, R278: next linear index to dispatch. -/
  next : Nat
  /-- R257: freed linear indices to dispatch again, ahead of the rest. -/
  redo : List Nat
  /-- R49: the current barrier phase, and the blocks that have arrived in it. -/
  phase : Nat
  arrived : List Nat
  /-- R310: the phase for which the package's arrival packet has been sent; reset none. -/
  told : Option Nat
  /-- R50: a work-graph node's grid of formed blocks: node number; none for a launch. -/
  node : Option Nat
  /-- R50: formed blocks not yet dispatched: the records of each. -/
  formed : List (List (List Byte))
  /-- R287: the packet that launched it, and whether it is a GRAPH packet. -/
  pkt : Option PktRef
  graph : Bool
  complete : Bool
  /-- R55, R186, R287: FT at the issue of the zero-length read of its host drain, and the blocks there were then; none before. -/
  drain : Option (Nat × Nat)
  /-- R34, R278: its launch's number in the order in which the sequencer has started packets. -/
  seq : Nat
  /-- R263: undispatched indices of it have passed to the target of a revision move. -/
  moved : Bool
  deriving DecidableEq, Repr

/-- R50, R285: a node registered on a context. -/
structure Node where
  ctx : Nat
  index : Nat
  decl : Decl
  timeout : Nat
  grid : Nat
  /-- R287: the packet whose registration waits for this node to be quiescent, and the kernel that it registers. -/
  replace : Option (PktRef × Decl)
  deriving DecidableEq, Repr

/-- R286: a node's records at one die's gatherer. -/
structure Gather where
  ctx : Nat
  node : Nat
  die : Nat
  /-- record and arrival time, oldest first. -/
  recs : List (Nat × List Byte)
  spilled : List (Nat × List Byte)
  deriving DecidableEq, Repr

/-- R278, R281: a packet that the sequencer has started. -/
structure Pkt where
  slot : Nat
  /-- slots used. -/
  len : Nat
  /-- its bytes as read at its start. -/
  body : List Byte
  /-- R278: the step reached. -/
  step : Nat
  complete : Bool
  /-- R278: its number in the order in which the sequencer has started packets. -/
  seq : Nat
  deriving DecidableEq, Repr

/-- R275, R280: what the sequencer has still to read of a queue: nothing; its QCB, after a restart; or its table entries and its QCB, after
a FLUSHQ. -/
inductive QLoad where
  | done | restart | flush
  deriving DecidableEq, Repr

/-- R275, R277: a queue as the sequencer has walked it. -/
structure Queue where
  ctx : Nat
  queue : Nat
  /-- address of its QCB. -/
  qcb : Nat
  rbase : W64
  rlog2 : Nat
  prio : Nat
  /-- R277: STATE. -/
  state : Nat
  head : W32
  done : W32
  tail : W32
  /-- R278: packets started, from DONE on. -/
  started : List Pkt
  /-- R494: the page request that a read of a ring slot waits on, and its answers. -/
  req : Option Nat
  outcomes : List PageOutcome
  prog : Nat
  /-- R275, R280: what of it has still to be read. -/
  load : QLoad
  deriving DecidableEq, Repr

/-- R253: what a piece of a part of an increment holds; `bits` is a bitmap. -/
inductive PieceKind where
  | header (sizes : List Nat) (blks : List Nat)
  | blockHead (blk : Nat)
  | chan (blk ch : Nat)
  | granMap (blk grp bits : Nat)
  | lineMap (blk bits : Nat)
  | accMap (blk bits : Nat)
  | pageAddr (ia : Nat)
  | item (i : Item) (sub : Nat)
  | table (k : Nat)
  | trailer
  deriving DecidableEq, Repr

/-- R253: a piece of a part: the die whose part it is, its offset and its size. -/
structure Piece where
  part : Nat
  off : Nat
  size : Nat
  what : PieceKind
  deriving DecidableEq, Repr

/-- R253: an increment of a context's chain: the device's work on it, and what the front end keeps of its cut beside the bytes of the
parts (notes/assumptions 47). -/
structure Increment where
  n : Nat
  time : Nat
  prev : Nat
  featmask : W64
  /-- R248: the operations issued before T are those numbered below. -/
  below : Nat
  /-- R246: the staged state of each block resident or swapped at T, by block number. -/
  blocks : List (Nat × Block)
  /-- R246: the registers that awaited a load at the stop, with its operation. -/
  late : List (Nat × Party × Dst)
  /-- R234: the poison marks of the staged registers and channels. -/
  marks : List PLoc
  /-- R57, R260: the monitors of swapped blocks. -/
  mons : List Monitor
  /-- R251: items of the streaming bitmap still to read, with sub-block. -/
  todo : List (Item × Nat)
  /-- R248, R302: its streaming bitmap, group granules apart. -/
  items : List Item
  /-- R252: items for which a write is held, in the order in which the holds arose. -/
  snatch : List (Item × Nat)
  /-- R247: lines recalled to their home whose owner has not gone to I. -/
  recalls : List Nat
  /-- R473: the locks, by block and number, whose write-backs had begun at the stop. -/
  unlks : List (Nat × Nat)
  /-- R253: the barrier-object table (from 0) and the context error log (from 524,288) at T, bytes other than 0. -/
  tables : List Host.Cell
  /-- R79, R257: grids, queues, nodes and gatherers as they stood at T. -/
  grids : List (Nat × Grid)
  queues : List Queue
  nodes : List Node
  gathers : List Gather
  /-- R246: the staging is done. -/
  staged : Bool
  /-- R244: closure is complete. -/
  closed : Bool
  committed : Bool
  /-- R254: part records: record number, offset and size, by part. -/
  parts : List (Nat × Nat × Nat)
  /-- R253: pieces still to be written. -/
  pieces : List Piece
  deriving DecidableEq, Repr

/-- R29: a context. -/
structure Ctx where
  fn : Nat
  pasid : Nat
  state : CtxState
  desc : CtxDesc
  /-- R242: why it is stopping. -/
  cause : Option StopCause
  /-- R226: the fault code that stopped it, 0 for none. -/
  stopCode : Nat
  /-- R244: interval number; reset 1. -/
  interval : Nat
  /-- R245: the chosen cut time; none without a cut pending. -/
  cutTime : Option Nat
  /-- R246: cores that have still to stop for the cut. -/
  cutCores : List Nat
  /-- R248: a cut is asked for and waits. -/
  cutWant : Bool
  /-- R245: FT at which the next interval expires; 0 for none. -/
  nextCkpt : Nat
  /-- R248: current bitmaps. -/
  cur : List Item
  /-- R251, R252: streaming bitmaps, items not yet read. -/
  chain : List Increment
  lastCut : Nat
  lastCommit : Nat
  /-- R284: the FT of the last commit. -/
  commitFt : Nat
  /-- 32 bits; R258: SAVECOST. -/
  savecost : Nat
  /-- R231: count of events. -/
  errCount : Nat
  /-- R190: a region switch under way: base, length, to coherent. -/
  region : Option (Nat × Nat × Bool)
  /-- R256: the pending cut is a pre-emption. -/
  preempt : Bool
  /-- R263: undispatched work has passed to a revision-move target. -/
  moving : Bool
  /-- R157: locks, by block and number, that a resume has still to bind; reset empty. -/
  rebind : List (Nat × Nat)
  /-- R259: the number of its first block where its chain was written under other numbers, from 0; reset 0. MODEL. -/
  recBase : Nat
  deriving DecidableEq, Repr

/-! ## Front end, fabric, management -/

/-- R274, R300, R221: a function's registers. -/
structure Fn where
  /-- QROOT: 64 bits; R274; reset 0. -/
  qroot : Nat
  /-- PASIDLIM; R274; reset 0. -/
  pasidlim : Nat
  /-- S2ROOT: 64 bits; R274; reset 0. -/
  s2root : Nat
  /-- EVQBASE: 64 bits; R274; reset 0. -/
  evqbase : Nat
  /-- EVHEAD; R274; reset 0. -/
  evhead : Nat
  /-- R283: events lost since the last one written; reset 0. -/
  evlost : Nat
  /-- EVTAIL; R274; reset 0. -/
  evtail : Nat
  /-- FLUSHADDR: 64 bits; R274; reset 0. -/
  flushaddr : Nat
  /-- PRTIMEOUT in ms; R274; reset 1,000. -/
  prtimeout : Nat
  /-- DROPS; R274; reset 0. -/
  drops : Nat
  /-- ATOMCAP: 32 bits; R300; reset COHOPS 0x7F, NCOPS 0. -/
  atomcap : W32
  /-- R221: PRI Outstanding Page Request Allocation; reset 0 (DESIGN CHOICE, log 4). -/
  priAlloc : Nat
  /-- R222: PRI enabled; reset true (DESIGN CHOICE, log 4). -/
  priOn : Bool
  /-- R481: next Page Request Group Index; reset 0. -/
  prNext : Nat
  /-- R222: unknown group indices counted; reset 0. -/
  prUnknown : Nat
  /-- R304: owner index: 10 bits; reset 0. -/
  owner : Nat
  deriving DecidableEq, Repr

/-- R279: a tail latch. -/
structure TailLatch where
  fn : Nat
  pasid : Nat
  queue : Nat
  tail : W32
  seen : W32
  /-- R279: taken while free and not yet judged against the QCB. -/
  fresh : Bool
  /-- R279: the sequencer has recorded TAIL in the QCB. -/
  recorded : Bool
  deriving DecidableEq, Repr

/-- R282, R290: a loaded kernel descriptor: its context, address, and where .text and .rodata of its code object lie. -/
structure Kernel where
  ctx : Nat
  addr : W64
  text : W64
  rodata : W64
  deriving DecidableEq, Repr

/-- R275: an entry of the queue table as the sequencer's walk read it: function, PASID, the queue for one of the second level, and the
64 bits. -/
structure TableWalk where
  fn : Nat
  pasid : Nat
  queue : Option Nat
  word : Nat
  deriving DecidableEq, Repr

/-- The front end (chapter 12). -/
structure FrontEnd where
  latches : List TailLatch
  queues : List Queue
  /-- R275: the cached entries of the queue table, newest first, at most 512. -/
  walked : List TableWalk
  /-- R275: (function, PASID, queue) suspended by P = 0 or by its descriptor. -/
  suspended : List (Nat × Nat × Nat)
  /-- R276: (function, PASID) whose descriptor has been refused: all of its queues are suspended but those that a FLUSHQ has named since. -/
  refused : List (Nat × Nat × List Nat)
  /-- R275, R276: contexts whose descriptor has still to be read again after a FLUSHQ. -/
  reread : List Nat
  /-- R221: (function, PASID, page request) that a walk of the queue table, a descriptor or a QCB waits on, and the answers. -/
  reqs : List (Nat × Nat × Nat)
  answers : List (Nat × Nat × PageOutcome)
  /-- R278: the queue from which the sequencer started a packet last: context and queue. -/
  turn : Nat × Nat
  /-- R278: how many packets the sequencer has started. -/
  seq : Nat
  /-- R271: patch RAM: microaddress and 112-bit microword; empty at device reset. -/
  patch : List (Nat × BitVec 112)
  /-- R279: doorbell writes that the I/O die holds for want of a free latch: function and value. -/
  held : List (Nat × W64)
  /-- R272: an accepted bundle not yet in effect. -/
  restart : Bool
  /-- R272: the rollback counter (fuses); DESIGN CHOICE 0. -/
  svn : Nat
  nodes : List Node
  gathers : List Gather
  /-- R282, R290: the kernel descriptors of loaded code objects. -/
  kernels : List Kernel
  /-- R289: the results of patch submissions and similar, newest first: 0 ACCEPTED, 1 FORMAT, 2 BADSIG, 3 ROLLBACK, 4 NOTOWNER. -/
  results : List Nat
  deriving DecidableEq, Repr

/-- R303, R304: the header and tag of a packet on a scale-up link: owner index, link, key epoch, the sequence number that its IV holds, and the
64-bit tag. -/
structure PacketHead where
  owner : Nat
  link : Nat
  epoch : Nat
  seq : Nat
  tag : W64
  deriving DecidableEq, Repr

/-- R196: a message the package sends on the fabric or to the host. -/
inductive OutMsg where
  /-- R303: a message on a scale-up link. -/
  | packet (head : PacketHead) (msg : OutMsg)
  | gets (line ver : Nat)
  | getx (line ver : Nat)
  | upg (line ver : Nat)
  | redj (line tag ver : Nat)
  | wback (line : Nat) (data : Option (List Byte))
  | hpart (line : Nat) (part : List Byte) (poison : Bool)
  | census (line : Nat) (st : FState) (tag : Nat)
  | censusEnd (ver : Nat)
  | data (line requester : Nat) (bytes : List Byte) (st : FState) (lease invs lend floor : Nat) (poison : Bool)
  | ack (line requester tAck : Nat)
  | ackRevoke (line : Nat)
  /-- MODEL: an LREVOKE asked of the directory (R200, notes/assumptions 46). -/
  | askRevoke (line ver : Nat)
  /-- MODEL: a holder's access that needs a merge, asked of the directory (notes/assumptions 46). -/
  | merge (line ver : Nat)
  /-- MODEL: a recall of a line asked of the directory, for a cut, a mode switch or a window (R207, R247, R308, notes/assumptions 46). -/
  | recallWin (line ver : Nat)
  /-- MODEL: a write carried to the home of its line (R422, notes/assumptions 73). -/
  | carried (pa : Nat) (bytes : List Byte)
  /-- MODEL: a monitor on a line asked of its home (R422, notes/assumptions 73). -/
  | watch (pa : Nat) (k : ReqKind)
  | answer (requester pa code : Nat) (data : List Byte)
  | pageReq (fn idx pasid page : Nat) (write stage2 : Bool)
  /-- R298: on the host link, through a function, at a bus address. -/
  | atomicOp (id fn bus : Nat) (req : SyncOp)
  | flushRead (fn addr : Nat)
  | hostWrite (fn bus : Nat) (bytes : List Byte) (relaxed : Bool)
  /-- R309: to the scale-out transport. -/
  | aperture (addr : Nat) (bytes : List Byte)
  | invalDone (fn pasid : Nat)
  | barrier (grid phase : Nat)
  | revision (ctx grid next count : Nat)
  | passLaunch (ctx queue slot : Nat)
  | tagReport (owner link : Nat)
  | regValue (fn off v : Nat)
  | dirtyByte (pa : Nat) (b : Byte)
  deriving DecidableEq, Repr

/-- R307: an export window. -/
structure ExportWin where
  importer : Nat
  any : Bool
  rights : BitVec 3
  size : Nat
  base : Nat
  state : Nat
  deriving DecidableEq, Repr

/-- R305: tag-failure count of an owner on a link, the times of its latest failures, and its quarantine. -/
structure LinkOwner where
  owner : Nat
  link : Nat
  tagfail : Nat
  times : List Nat
  quarantined : Bool
  /-- R303: the epochs whose keys the link end holds, the newest first, and the number of each key. -/
  keys : List (Nat × Nat)
  /-- R303: the next sequence number that it accepts, by epoch. -/
  seqs : List (Nat × Nat)
  /-- R303: the next sequence number that it sends, by epoch. -/
  sent : List (Nat × Nat)
  deriving DecidableEq, Repr

/-- The fabric side of the package (chapters 09 and 13). -/
structure Fabric where
  /-- R23: the package number; 0 unless the board configuration assigns one. -/
  pkg : Nat
  /-- R10: the package belongs to a pod of more than itself. -/
  inPod : Bool
  /-- R195: LEASEF in ns; 20,000 at reset. -/
  leasef : Nat
  /-- R304: the owner index of the package's own memory. -/
  owner : Nat
  /-- R192: DIRMAP VERSION and the entries that differ from 0. -/
  dirmapVer : Nat
  dirmap : List (Nat × Nat)
  links : List LinkOwner
  /-- R305: QTHRESH; 8 at reset. -/
  qthresh : Nat
  /-- R307: 256 export windows; reset invalid. -/
  windows : List ExportWin
  /-- R209: packages whose HPART is treated as poisoned, by line. -/
  lost : List (Nat × Nat)
  /-- R10: FT as the fabric manager set it when it formed the pod; reset 0. -/
  epoch : Nat
  /-- R213: the DIRMAP version whose census has logged its first contradictory line; reset none. -/
  censusLog : Option Nat
  deriving DecidableEq, Repr

/-- R312, R313: a claim in an election. -/
structure Claim where
  m : Master
  nonce : W32
  deriving DecidableEq, Repr

/-- R311: an answer on the management channel. -/
inductive MgmtMsg where
  /-- R311: the SPDM versions; whether sessions are supported. -/
  | version (l : List (Nat × Nat)) | capabilities (sessions : Bool) | algorithms (ok : Bool)
  | digests (d : List (List Byte)) | certificate (c : List Byte)
  | challenge (sig : List Byte) | measurement (block : Nat) (d : List Byte)
  | notOwner | accepted | rejected
  deriving DecidableEq, Repr

/-- Management (chapter 13). -/
structure Mgmt where
  /-- R313: OWNER; reset none. -/
  owner : Option Master
  /-- R313: PRIO of the owner; reset 0. -/
  prio : Nat
  /-- R313: SUCC; reset none. -/
  succ : Option Master
  /-- R313: EPOCH, modulo 256; reset 0. -/
  epoch : BitVec 8
  /-- R312: claims of an open election; none when none is open. -/
  election : Option (List Claim)
  /-- R312: FT at which the election opened. -/
  electAt : Nat
  /-- R313: FT at which the successor was named. -/
  succAt : Nat
  /-- R313: FT of the owner's last command. -/
  lastCmd : Nat
  /-- R312: priorities of host driver, board controller, fabric manager; 1, 2, 3. -/
  prios : Nat × Nat × Nat
  /-- R241: DISCORES: 8 bits; reset 0. -/
  discores : Nat
  /-- R241: POISONEV; reset 0. -/
  poisonev : Bool
  /-- R241: QUAR; reset 0. -/
  quar : Bool
  /-- R241: REPLREQ; reset 0. -/
  replreq : Bool
  /-- R314: BOOTFAIL; reset false. -/
  bootfail : Bool
  /-- R314: measurement blocks 1 to 6 (32 bytes each). -/
  meas : List (List Byte)
  /-- R28: the arithmetic clock is lowered by the power limit; reset false. -/
  slowed : Bool
  /-- R301: HDM decoders of ports 0 and 1, as written. -/
  hdm : Nat × Nat
  /-- R296: the HDM range of the host link: local base and length; reset the lowest 64 GiB (DESIGN CHOICE, log 111). -/
  hdmRange : Nat × Nat
  /-- R314: the fused rollback counters of the management firmware, the link firmware and the board configuration; reset 0
  (DESIGN CHOICE, log 7). -/
  svns : Nat × Nat × Nat
  out : List MgmtMsg
  deriving DecidableEq, Repr

/-- The whole device. -/
structure State where
  /-- FT: 64 bits, ns; R10; reset 0 (DESIGN CHOICE, log 2). -/
  ft : Nat
  /-- MODEL: the counter from which free values are drawn; reset 0 (DESIGN CHOICE, log 1). -/
  fresh : Nat
  /-- MODEL: the next number of an operation or request; reset 0. -/
  nextId : Nat
  mem : MemSys
  /-- 128 cores, by physical number; R13. -/
  cores : List Core
  blocks : List Block
  /-- R267: pair snapshots by block; reset empty. -/
  snaps : List (Nat × Block)
  ctxs : List Ctx
  grids : List Grid
  /-- 1 physical function and 64 virtual functions; R296. -/
  fns : List Fn
  fe : FrontEnd
  fabric : Fabric
  mgmt : Mgmt
  /-- messages sent, newest first. -/
  outbox : List OutMsg
  /-- MODEL: outside stimuli not yet handled, oldest first; reset empty. -/
  inbox : List Instr
  /-- MODEL: the party that holds the issue; reset none. -/
  cur : Option Party
  /-- MODEL: the next issue unit to arbitrate, core × 9 + slot (8 is the bellwether pipeline); reset 0. -/
  unit : Nat
  /-- MODEL: true when the next step gives the device's engines their turn; reset false. -/
  engineTurn : Bool
  deriving DecidableEq, Repr

/-! ## Reset (R8): every field at the value the spec states, or at the value its log entry names. -/

/-- R120: at shipment the 192 lowest rows that passed test are in use (log 3: all 196 passed). -/
def resetRows : List RowState := List.replicate 192 .inUse ++ List.replicate 4 .spare

/-- R14, R30: a core without blocks. -/
def Core.reset : Core :=
  { enabled := true, quarantined := false, rows := resetRows, banks := Vector.replicate 2 none, l1 := [], missQ := [], fills := [], ctx := none,
    used := false, poisonings := [], replaced := [] }

/-- R274, R300: a function's registers at reset (log 4 for the PRI settings). -/
def Fn.reset : Fn :=
  { qroot := 0, pasidlim := 0, s2root := 0, evqbase := 0, evhead := 0, evlost := 0, evtail := 0, flushaddr := 0, prtimeout := 1000,
    drops := 0, atomcap := 0x7F#32, priAlloc := 0, priOn := true, prNext := 0, prUnknown := 0, owner := 0 }

/-- R298, R301: both memory-tier ports fully populated (log 5). -/
def MemSys.reset : MemSys :=
  { cells := [], poison := [], present := [], slotTags := [], leases := [], held := [], writes := [], reads := [], drains := [], devq := [], devdone := [], monitors := [], herd := [], fab := [], asks := [],
    fabricBits := [], sectors := [], posted := [], atomics := [], smDirty := [], tlb := [], walks := [], walking := [], invals := [], pageReqs := [], locks := [],
    tierCap := (0x80000000000, 0x80000000000), tierDown := (false, false), tierTurn := ((0, 0), (0, 0)) }

/-- R271: the patch RAM is empty at device reset. -/
def FrontEnd.reset : FrontEnd :=
  { latches := [], held := [], queues := [], walked := [], suspended := [], refused := [], reread := [], reqs := [], answers := [], turn := (0, 0), seq := 0, patch := [], restart := false, svn := 0, nodes := [], gathers := [],
    kernels := [], results := [] }

/-- R307: an invalid export window. -/
def ExportWin.reset : ExportWin := { importer := 0, any := false, rights := 0, size := 0, base := 0, state := 0 }

/-- R10, R23, R195, R305: a pod of one, package 0. -/
def Fabric.reset : Fabric :=
  { pkg := 0, inPod := false, leasef := 20000, owner := 0, dirmapVer := 0, dirmap := [], links := [], qthresh := 8,
    windows := List.replicate 256 ExportWin.reset, lost := [], epoch := 0, censusLog := none }

/-- R241, R312, R313, R314 (log 6 for the measurements before BOOT). -/
def Mgmt.reset : Mgmt :=
  { owner := none, prio := 0, succ := none, epoch := 0, election := none, electAt := 0, succAt := 0, lastCmd := 0, prios := (1, 2, 3), discores := 0,
    poisonev := false, quar := false, replreq := false, bootfail := false,
    meas := List.replicate 6 (List.replicate 32 0#8), slowed := false, hdm := (0, 0), hdmRange := (0, 0x1000000000), svns := (0, 0, 0), out := [] }

/-- The device right after device reset: no context, no queue, no block. -/
def State.reset : State :=
  { ft := 0, fresh := 0, nextId := 0, mem := MemSys.reset, cores := List.replicate 128 Core.reset, blocks := [],
    snaps := [], ctxs := [], grids := [], fns := List.replicate 65 Fn.reset, fe := FrontEnd.reset,
    fabric := Fabric.reset, mgmt := Mgmt.reset, outbox := [], inbox := [], cur := none, unit := 0, engineTurn := false }

end Sys2Proof.Machine
end

