-- ==== Sys2Proof/Machine/Base.lean ====
section
/-! DEFINITION. Access to the parts of the state, bytes, poison marks and channels: the plainest operations, on which
Xlate.lean, Ops.lean and Operands.lean build. -/

namespace Sys2Proof.Machine

open Sys2Proof

/-! ## Bytes and memories in canonical form -/

/-- The byte at an address; an unlisted address reads 0 (notes/assumptions 8; R35 for scratchpad). -/
def cellGet : List Host.Cell → Nat → Byte
  | [], _ => 0
  | (k, v) :: rest, a => if k == a then v else if a < k then 0 else cellGet rest a

/-- A byte put at an address, the list staying strictly rising and without zero bytes. -/
def cellSet : List Host.Cell → Nat → Byte → List Host.Cell
  | [], a, v => if v == 0 then [] else [(a, v)]
  | (k, w) :: rest, a, v =>
    if k == a then (if v == 0 then rest else (a, v) :: rest)
    else if a < k then (if v == 0 then (k, w) :: rest else (a, v) :: (k, w) :: rest)
    else (k, w) :: cellSet rest a v

/-- Whether addresses rise strictly from above `lo` and no byte is 0. -/
def cellsWf : List Host.Cell → Option Nat → Bool
  | [], _ => true
  | (k, v) :: rest, lo => (match lo with | some l => decide (l < k) | none => true) && v != 0 && cellsWf rest (some k)

/-- The canonical form of a memory: addresses strictly rising, no byte equal to what an unlisted address reads as. -/
def Memory.wf (m : List Host.Cell) : Bool := cellsWf m none

/-- `n` bytes from an address upward. -/
def cellsRead (m : List Host.Cell) (a : Nat) : Nat → List Byte
  | 0 => []
  | n + 1 => cellGet m a :: cellsRead m (a + 1) n

/-- Bytes put from an address upward. -/
def cellsWrite (m : List Host.Cell) (a : Nat) : List Byte → List Host.Cell
  | [] => m
  | b :: rest => cellsWrite (cellSet m a b) (a + 1) rest

/-- R5: the little-endian number that bytes hold. -/
def leNat : List Byte → Nat
  | [] => 0
  | b :: rest => b.toNat + 256 * leNat rest

/-- R5: `n` little-endian bytes of a number. -/
def leBytes : Nat → Nat → List Byte
  | 0, _ => []
  | n + 1, x => BitVec.ofNat 8 x :: leBytes n (x / 256)

/-- A 32-bit value, zero-extended. -/
def zx (w : W32) : W64 := w.setWidth 64
/-- Bits 31:0. -/
def lo32 (w : W64) : W32 := w.setWidth 32

/-! ## Lists -/

/-- A list with its `i`-th element changed. -/
def modNth {α : Type} (l : List α) (i : Nat) (f : α → α) : List α :=
  match l[i]? with
  | some x => l.set i (f x)
  | none => l

/-- A lane vector from a function. -/
def lanesOf {α : Type} (f : Nat → α) : Lanes α := Vector.ofFn (fun i => f i.val)
/-- The entry of a lane. -/
def lane {α : Type} [Inhabited α] (v : Lanes α) (l : Nat) : α := v.toList.getD l default

/-! ## Blocks, groups, paths, bellwethers -/

/-- R60: no entry in any latch. -/
def Latch.empty : Latch := { valid := false, val := Vector.replicate 32 0 }

/-- A stream's control part at its entry. -/
def Ctl.start (pc : W64) (age : Nat) : Ctl :=
  { pc := pc, runPos := 0, inRun := false, keep := false, acc := none, runStart := pc, ret := [], retSpill := 0, handler := false, trapPc := 0,
    trapOp := none, trapStart := 0, wait := .ready, age := age, yielded := false, mine := 0, pend := 0, arrived := none, trapKept := (none, false),
    openOp := none,
    outcomes := [], asked := [], cmpOk := false, fwd := false, ended := false }

/-- R35: a path at its entry. -/
def Path.start (pc : W64) (mask : W32) (age : Nat) : Path :=
  { ctl := Ctl.start pc age, mask := mask, brand := 0xFFFFFFFF#32, latches := Vector.replicate 4 Latch.empty, div := [],
    divSpill := 0, divJoins := [], win := (0, 0), trapWin := (0, 0) }

/-- A path that does not run. -/
def Path.none : Path := let p := Path.start 0 0 0; { p with ctl := { p.ctl with ended := true } }

/-- R35, R60: a group when its block starts. -/
def Group.start (pc : W64) (vregs : Nat) (records : W32) (gstat : W32) (age : Nat) : Group :=
  { v := List.replicate vregs (Vector.replicate 32 0), s := Vector.replicate 32 0,
    p := (Vector.replicate 16 0).set 0 0xFFFFFFFF#32, k := Vector.replicate 8 0, mode := 0, ops := [], gwmax := 0, pmask := 0,
    dead := 0, gstat := gstat, abase := 0, alim := 0, tbase := 0, fin := 0, split := false, join := 0,
    path0 := Path.start pc records age, path1 := Path.none, retired := records == 0, records := records, lastFt := 0,
    deferred := [], gran := [] }

/-- A path of a group. -/
def Group.path (g : Group) (second : Bool) : Path := if second then g.path1 else g.path0
/-- A group with a path replaced. -/
def Group.setPath (g : Group) (second : Bool) (p : Path) : Group := if second then { g with path1 := p } else { g with path0 := p }

/-- The block the device knows by a number. -/
def State.block? (s : State) (b : Nat) : Option Block := s.blocks[b]?
/-- A state with a block changed. -/
def State.modBlock (s : State) (b : Nat) (f : Block → Block) : State := { s with blocks := modNth s.blocks b f }
/-- A block with a group changed. -/
def Block.modGroup (b : Block) (g : Nat) (f : Group → Group) : Block := { b with groups := modNth b.groups g f }
/-- A state with a group changed. -/
def State.modGroup (s : State) (b g : Nat) (f : Group → Group) : State := s.modBlock b (fun x => x.modGroup g f)
/-- A state with a bellwether changed. -/
def State.modBell (s : State) (b : Nat) (f : Bell → Bell) : State := s.modBlock b (fun x => { x with bell := f x.bell })
/-- A state with the control part of a party changed. -/
def State.modCtl (s : State) (p : Party) (f : Ctl → Ctl) : State :=
  match p.who with
  | .bell => s.modBell p.blk (fun b => { b with ctl := f b.ctl })
  | .path g sec => s.modGroup p.blk g (fun x => let q := x.path sec; x.setPath sec { q with ctl := f q.ctl })
/-- A state with a path changed. -/
def State.modPath (s : State) (p : Party) (f : Path → Path) : State :=
  match p.who with
  | .bell => s
  | .path g sec => s.modGroup p.blk g (fun x => x.setPath sec (f (x.path sec)))

/-- The control part of a party. -/
def State.ctl? (s : State) (p : Party) : Option Ctl :=
  match s.block? p.blk with
  | none => none
  | some b =>
    match p.who with
    | .bell => some b.bell.ctl
    | .path g sec => (b.groups[g]?).map (fun x => (x.path sec).ctl)

/-- A core changed. -/
def State.modCore (s : State) (c : Nat) (f : Core → Core) : State := { s with cores := modNth s.cores c f }
/-- A context changed. -/
def State.modCtx (s : State) (c : Nat) (f : Ctx → Ctx) : State := { s with ctxs := modNth s.ctxs c f }
/-- A grid changed. -/
def State.modGrid (s : State) (g : Nat) (f : Grid → Grid) : State := { s with grids := modNth s.grids g f }
/-- A function's registers changed. -/
def State.modFn (s : State) (f : Nat) (h : Fn → Fn) : State := { s with fns := modNth s.fns f h }
/-- The memory system changed. -/
def State.modMem (s : State) (f : MemSys → MemSys) : State := { s with mem := f s.mem }
/-- The front end changed. -/
def State.modFe (s : State) (f : FrontEnd → FrontEnd) : State := { s with fe := f s.fe }
/-- The fabric side changed. -/
def State.modFab (s : State) (f : Fabric → Fabric) : State := { s with fabric := f s.fabric }
/-- Management changed. -/
def State.modMgmt (s : State) (f : Mgmt → Mgmt) : State := { s with mgmt := f s.mgmt }
/-- A message sent. -/
def State.send (s : State) (m : OutMsg) : State := { s with outbox := m :: s.outbox }
/-- A new number for an operation or request. -/
def State.newId (s : State) : Nat × State := (s.nextId, { s with nextId := s.nextId + 1 })

/-! ## What an issuing stream sees -/

/-- The parts of the state an instruction word's meaning reads: its party, its block, whether it is the bellwether, its
group and path (those of group 0 when it is the bellwether, never used then), its control part and MODE. -/
structure View where
  p : Party
  b : Block
  isBell : Bool
  gi : Nat
  sec : Bool
  g : Group
  path : Path
  ctl : Ctl
  mode : W16
  deriving DecidableEq, Repr

/-- A group that no instruction reads: the bellwether's view. -/
def Group.dummy : Group := Group.start 0 0 0 0 0

/-- The view of a party; none when the state has no such party. -/
def State.view (s : State) (p : Party) : Option View :=
  match s.block? p.blk with
  | none => none
  | some b =>
    match p.who with
    | .bell =>
      some { p := p, b := b, isBell := true, gi := 0, sec := false, g := Group.dummy, path := Path.none, ctl := b.bell.ctl,
             mode := b.bell.mode }
    | .path gi sec =>
      match b.groups[gi]? with
      | none => none
      | some g =>
        some { p := p, b := b, isBell := false, gi := gi, sec := sec, g := g, path := g.path sec, ctl := (g.path sec).ctl,
               mode := g.mode }

/-- R93: the live set: the path's mask less DEAD. -/
def View.live (v : View) : W32 := v.path.mask &&& ~~~v.g.dead

/-- R67: the lanes that pass the guard. -/
def View.guardMask (v : View) : W32 :=
  if mGuard v.mode == 0 then 0xFFFFFFFF#32
  else
    let q := v.g.p.toList.getD (mGuard v.mode) 0
    if mGinv v.mode then ~~~q else q

/-- R11: ACTIVE. -/
def View.active (v : View) : W32 := v.live &&& v.guardMask

/-- R67: a bellwether instruction that its guard suppresses. -/
def View.suppressed (v : View) : Bool :=
  v.isBell && mGuard v.mode != 0 && (v.b.bell.q.getLsbD (mGuard v.mode) == mGinv v.mode)

/-- R94, R306: the path of a split group that a view is of; none for another stream. -/
def View.side (v : View) : Option Bool := if !v.isBell && v.g.split then some v.sec else none

/-- R66: the TYPE in force. -/
def View.ty (v : View) : Ty := mType v.mode
/-- R66: the rounding modes in force. -/
def View.rm (v : View) : Rm := mRm v.mode

/-! ## Poison (R234, R235) -/

/-- Whether a place is poisoned. -/
def State.poisoned (s : State) (l : PLoc) : Bool := s.mem.poison.contains l
/-- A place poisoned. -/
def State.addPoison (s : State) (l : PLoc) : State :=
  if s.poisoned l then s else s.modMem (fun m => { m with poison := l :: m.poison })
/-- The marks of the places that a test names cleared. -/
def State.clearPoison (s : State) (f : PLoc → Bool) : State :=
  if s.mem.poison.isEmpty then s else s.modMem (fun m => { m with poison := m.poison.filter (fun l => !f l) })

/-! ## Channels (R39 to R43) -/

/-- R39: a channel holds 8 entries. -/
def chanDepth : Nat := 8

/-- The channel number of a field 0xC0 to 0xDF; none otherwise. -/
def chanOf (f : BitVec 8) : Option Nat :=
  if f.toNat / 16 == 0xC || f.toNat / 16 == 0xD then some (f.toNat % 16) else none

/-- Whether a channel field peeks. -/
def isPeek (f : BitVec 8) : Bool := f.toNat / 16 == 0xD

/-- R39, R40: a channel field that names a declared channel of the kind wanted. -/
def chanOk (b : Block) (vec : Bool) (f : BitVec 8) : Bool :=
  match chanOf f with
  | some c => decide (c < b.decl.channels) && b.decl.chanMask.getLsbD c == vec
  | none => false

/-- A source field's channel entry, when it names a channel. -/
structure Fetched where
  f : BitVec 8
  ent : Option ChanEntry
  /-- channel and position of the entry when the instruction began, for its poison marks. -/
  at? : Option (Nat × Nat)
  deriving DecidableEq, Repr

/-- R41: the pops and peeks of an instruction's sources in the order A, B: the entries and the channels after; the channel
that is empty otherwise. `popped` counts the entries already popped of each channel. -/
def fetchChans : List (BitVec 8) → List (List ChanEntry) → List Nat → Except Nat (List Fetched × List (List ChanEntry) × List Nat)
  | [], cs, pops => .ok ([], cs, pops)
  | f :: rest, cs, pops =>
    match chanOf f with
    | none =>
      match fetchChans rest cs pops with
      | .ok (l, r) => .ok ({ f := f, ent := none, at? := none } :: l, r)
      | .error c => .error c
    | some c =>
      match cs.getD c [] with
      | [] => .error c
      | e :: tl =>
        let cs' := if isPeek f then cs else cs.set c tl
        let pops' := if isPeek f then pops else c :: pops
        match fetchChans rest cs' pops' with
        | .ok (l, r) => .ok ({ f := f, ent := some e, at? := some (c, pops.count c) } :: l, r)
        | .error c => .error c

/-- R41: a push, when a channel has room; the entry goes behind the others. -/
def pushChan (cs : List (List ChanEntry)) (c : Nat) (e : ChanEntry) : Option (List (List ChanEntry)) :=
  if (cs.getD c []).length < chanDepth then some (cs.set c (cs.getD c [] ++ [e])) else none

/-- The poison marks of a block's channels after pops: marks of popped entries go, those behind move up. -/
def State.popPoison (s : State) (blk : Nat) (pops : List Nat) : State :=
  if s.mem.poison.isEmpty then s
  else s.modMem fun m => { m with poison := m.poison.filterMap fun l =>
    match l with
    | .chan b c e ln =>
      if b == blk then (if e < pops.count c then none else some (.chan b c (e - pops.count c) ln)) else some l
    | l => some l }

end Sys2Proof.Machine
end

