-- ==== Sys2Proof/Machine/Operands.lean ====
section
/-! DEFINITION. Operand fields: which classes each position admits (R318 to R322, R351, R448), what a field reads, and what
writing a destination does to registers and latches (R61 to R63, R87, R114). -/

namespace Sys2Proof.Machine

open Sys2Proof

/-! ## Classes -/

/-- R61: `n` vector registers from `f` upward, aligned to `n`, below the declared count. -/
def vregsOk (v : View) (n : Nat) (f : BitVec 8) : Bool :=
  decide (f.toNat < 0x80) && f.toNat % n == 0 && decide (f.toNat + n ≤ v.b.decl.vregs)

/-- A field 0x80 to 0x9F: an s register of a group. -/
def isS (f : BitVec 8) : Bool := f.toNat / 32 == 4
/-- A field 0xA0 to 0xA3: a latch. -/
def isLatch (f : BitVec 8) : Bool := f.toNat / 4 == 0x28
/-- A field 0xB0 to 0xBF: a predicate. -/
def isPred (f : BitVec 8) : Bool := f.toNat / 16 == 0xB
/-- A field 0xE0 to 0xEF: an integer constant. -/
def isIC (f : BitVec 8) : Bool := f.toNat / 16 == 0xE
/-- A field 0xF0 to 0xFF: an FP constant. -/
def isFC (f : BitVec 8) : Bool := f.toNat / 16 == 0xF

/-- R318, R342: a lane source of `n` registers' width; `ic` and `fc`: whether integer and FP constants are legal. -/
def laneSrcOk (v : View) (n : Nat) (ic fc : Bool) (f : BitVec 8) : Bool :=
  let x := f.toNat
  if x < 0x80 then vregsOk v n f
  else if x < 0xA7 then true
  else if x < 0xC0 then false
  else if x < 0xE0 then n == 1 && chanOk v.b true f
  else if x < 0xF0 then ic
  else fc

/-- R318: a lane destination of `n` registers' width: v registers, the latch, or a vector channel push. -/
def laneDstOk (v : View) (n : Nat) (f : BitVec 8) : Bool :=
  let x := f.toNat
  if x < 0x80 then vregsOk v n f
  else if x == 0xA0 then true
  else x / 16 == 0xC && n == 1 && chanOk v.b true f

/-- R351, R448, R319: a source read once for the path; `h`: h0 to h7 are legal in the bellwether (R448). -/
def sSrcOk (v : View) (h : Bool) (f : BitVec 8) : Bool :=
  let x := f.toNat
  if v.isBell then
    decide (x < 0x40) || (h && decide (x < 0x48)) || x == 0xA4 || chanOk v.b false f || isIC f
  else isS f || isLatch f || x == 0xA4 || x == 0xA6 || chanOk v.b false f || isIC f

/-- R448: a scalar destination: an s register or the latch in a group, a w register in the bellwether; `push`: or a scalar
channel push. -/
def sDstOk (v : View) (push : Bool) (f : BitVec 8) : Bool :=
  let x := f.toNat
  (if v.isBell then decide (x < 0x40) else isS f || x == 0xA0) || (push && x / 16 == 0xC && chanOk v.b false f)

/-- An s register in a group, a w register in the bellwether. -/
def sRegOk (v : View) (f : BitVec 8) : Bool := if v.isBell then decide (f.toNat < 0x40) else isS f

/-- R88, R228: every latch among the sources is valid and the handler flag is clear. -/
def latchesOk (v : View) (fs : List (BitVec 8)) : Bool :=
  v.isBell || fs.all (fun f => !isLatch f || (!v.ctl.handler && (v.path.latches.toList.getD (f.toNat % 4) Latch.empty).valid))

/-! ## Reads -/

/-- An s register of a group, or a w register of the bellwether. -/
def View.sreg (v : View) (r : Nat) : W64 := if v.isBell then v.b.bell.w.toList.getD r 0 else v.g.s.toList.getD r 0
/-- A lane of a vector register, 0 past the declared count (no checked word reads one). -/
def Group.vlane (g : Group) (r l : Nat) : W32 :=
  match g.v[r]? with
  | some x => x.toList.getD l 0
  | none => 0
/-- R62, R63: a predicate register. -/
def Group.pred (g : Group) (r : Nat) : W32 := g.p.toList.getD r 0

/-- The lane's 32 or 64 bits that a lane source supplies (`n` 1 or 2); an integer constant supplies its number (R417) and an
FP constant its encoding in TYPE `t` (R322). -/
def rawLane (v : View) (t : Ty) (n : Nat) (ft : Fetched) (l : Nat) : Nat :=
  let x := ft.f.toNat
  let m := if n == 1 then 2 ^ 32 else 2 ^ 64
  if x < 0x80 then
    if n == 1 then (v.g.vlane x l).toNat else (v.g.vlane x l).toNat + (v.g.vlane (x + 1) l).toNat * 2 ^ 32
  else if isS ft.f then (v.g.s.toList.getD (x % 32) 0).toNat % m
  else if isLatch ft.f then ((v.path.latches.toList.getD (x % 4) Latch.empty).val.toList.getD l 0).toNat % m
  else if x == 0xA5 then l
  else if x == 0xA6 then v.gi
  else if isIC ft.f then x % 16
  else if isFC ft.f then place t (fpConstE t (x % 16))
  else
    match ft.ent with
    | some (.vec w) => (w.toList.getD l 0).toNat
    | some (.sc w) => w.toNat % m
    | none => 0

/-- R114, R321, R342: `opnd(f, l, TYPE)`: the element a lane source supplies; an integer constant is the value n in a float
type. -/
def opnd (v : View) (t : Ty) (ft : Fetched) (l : Nat) : Nat :=
  if isIC ft.f then intConstE t (ft.f.toNat % 16)
  else rawLane v t (if tyWide t then 2 else 1) ft l % 2 ^ tyBits t

/-- R351, R448: the 64-bit value that a path-wide source supplies; a latch gives lane 0's entry (R318). -/
def sval (v : View) (ft : Fetched) : W64 :=
  let x := ft.f.toNat
  if v.isBell && decide (x < 0x40) then v.sreg x
  else if v.isBell && decide (x < 0x48) then v.b.bell.h.toList.getD (x % 8) 0
  else if isS ft.f then v.sreg (x % 32)
  else if isLatch ft.f then (v.path.latches.toList.getD (x % 4) Latch.empty).val.toList.getD 0 0
  else if x == 0xA6 then BitVec.ofNat 64 v.gi
  else if isIC ft.f then BitVec.ofNat 64 (x % 16)
  else
    match ft.ent with
    | some (.sc w) => w
    | some (.vec w) => zx (w.toList.getD 0 0)
    | none => 0

/-! ## Poisoned sources (R235) -/

/-- The lanes of a lane source of `n` registers that read a poisoned word. -/
def poisonLanes (s : State) (v : View) (n : Nat) (ft : Fetched) : W32 :=
  if s.mem.poison.isEmpty then 0
  else maskOf fun l =>
    if ft.f.toNat < 0x80 then (List.range n).any (fun k => s.poisoned (.vlane v.p.blk v.gi (ft.f.toNat + k) l))
    else
      match ft.at? with
      | some (c, e) => s.poisoned (.chan v.p.blk c e l)
      | none => false

/-- Whether a path-wide source, or the s register of a lane source, is poisoned. -/
def poisonScalar (s : State) (v : View) (ft : Fetched) : Bool :=
  if s.mem.poison.isEmpty then false
  else if v.isBell && decide (ft.f.toNat < 0x40) then s.poisoned (.wreg v.p.blk ft.f.toNat)
  else if isS ft.f then s.poisoned (.sreg v.p.blk v.gi (ft.f.toNat % 32))
  else
    match ft.at? with
    | some (c, e) => v.b.decl.chanMask.getLsbD c == false && s.poisoned (.chan v.p.blk c e 0)
    | none => false

/-! ## Writes -/

/-- R248: a granule of the group record marked written. -/
def Group.mark (g : Group) (k : Nat) : Group := if g.gran.contains k then g else { g with gran := k :: g.gran }

/-- R79, R248: the granules of a path's hardware divergence entries marked written. -/
def Group.markDiv (g : Group) (sec : Bool) : Group := Group.mark (Group.mark g (if sec then 22 else 20)) (if sec then 23 else 21)

/-- R79, R248: the granule of the hardware return entries marked written. -/
def Group.markRet (g : Group) : Group := Group.mark g 24

/-- A lane vector replaced in the lanes of a mask. -/
def blend (m : W32) (old : Lanes W32) (f : Nat → W32) : Lanes W32 :=
  lanesOf (fun l => if inMask m l then f l else old.toList.getD l 0)

/-- R60, R248: a vector register written in the lanes of a mask. -/
def Group.setV (g : Group) (r : Nat) (m : W32) (f : Nat → W32) : Group :=
  Group.mark { g with v := modNth g.v r (fun old => blend m old f) } (32 + r)

/-- `n` consecutive registers written from values of 32·n bits. -/
def Group.setVs (g : Group) (r n : Nat) (m : W32) (f : Nat → Nat) : Group :=
  (List.range n).foldl (fun g k => g.setV (r + k) m (fun l => BitVec.ofNat 32 (f l / 2 ^ (32 * k)))) g

/-- R62, R248: an s register written. -/
def Group.setS (g : Group) (r : Nat) (x : W64) : Group :=
  Group.mark { g with s := if h : r < 32 then g.s.set r x else g.s } ((0x80 + 8 * r) / 128)

/-- R63, R248: the bits of a predicate in the lanes of a mask written; a write to p0 is discarded. -/
def Group.setP (g : Group) (r : Nat) (m x : W32) : Group :=
  if r == 0 then g
  else Group.mark { g with p := if h : r < 16 then g.p.set r ((g.p.toList.getD r 0 &&& ~~~m) ||| (x &&& m)) else g.p } 3

/-- R75: a w register written. -/
def Bell.setW (b : Bell) (r : Nat) (x : W64) : Bell := { b with w := if h : r < 64 then b.w.set r x else b.w }

/-- R75: a predicate of the bellwether written; q0 ignores writes. -/
def Bell.setQ (b : Bell) (r : Nat) (x : Bool) : Bell :=
  if r == 0 || decide (r ≥ 8) then b
  else { b with q := if x then b.q ||| (1#8 <<< r) else b.q &&& ~~~(1#8 <<< r) }

/-- R87: what a word leaves in its latch. -/
inductive LatchOut where
  | invalid
  | val (x : Lanes W64)
  deriving DecidableEq, Repr

/-- R87: the latch of a scalar result: a copy in every lane. -/
def latchAll (x : W64) : LatchOut := .val (Vector.replicate 32 x)

/-- R87: the latch of a lane result: the destination after the instruction; 0 outside the mask for the latch-only and
channel destinations. -/
def latchLanes (g : Group) (d : BitVec 8) (n : Nat) (m : W32) (f : Nat → Nat) : LatchOut :=
  .val (lanesOf fun l =>
    if inMask m l then BitVec.ofNat 64 (f l % (if n == 1 then 2 ^ 32 else 2 ^ 64))
    else if d.toNat < 0x80 then
      (if n == 1 then zx (g.vlane d.toNat l) else (g.vlane (d.toNat + 1) l) ++ (g.vlane d.toNat l))
    else 0)

/-- R40: the entry that a vector push stores: 0 outside the mask. -/
def pushEntry (m : W32) (f : Nat → Nat) : ChanEntry :=
  .vec (lanesOf fun l => if inMask m l then BitVec.ofNat 32 (f l) else 0)

end Sys2Proof.Machine
end

