-- ==== Sys2Proof/Machine/Store.lean ====
section
/-! DEFINITION. Physical memory as its home slices hold it: reads and writes of bytes with poison marks, dirty tracking
(R248), monitors (R165) and the local address map (R23, R298). -/

namespace Sys2Proof.Machine

open Sys2Proof

/-! ## Fault codes (R226) -/

def fILLOP : Nat := 0x01
def fSTREAM : Nat := 0x02
def fLATCH : Nat := 0x03
def fUNIF : Nat := 0x04
def fDIVEXIT : Nat := 0x05
def fALIGN : Nat := 0x06
def fXLATE : Nat := 0x07
def fPERM : Nat := 0x08
def fWINREV : Nat := 0x09
def fWINCONF : Nat := 0x0A
def fACCWIN : Nat := 0x0B
def fBARSTALE : Nat := 0x0C
def fFEAT : Nat := 0x0D
def fBRAND : Nat := 0x0E
def fPOISON : Nat := 0x0F
def fATOMUNS : Nat := 0x10
def fSTACKOV : Nat := 0x11
def fPRIV : Nat := 0x12
def fTRAPI : Nat := 0x13
def fNOFIT : Nat := 0x14
def fPAIRUNRES : Nat := 0x15

/-! ## Association lists -/

/-- An association list with one key set. -/
def assocSet {β : Type} (l : List (Nat × β)) (k : Nat) (v : β) : List (Nat × β) := (k, v) :: l.filter (fun p => p.1 != k)
/-- The value of a key. -/
def assocGet {β : Type} (l : List (Nat × β)) (k : Nat) : Option β := (l.find? (fun p => p.1 == k)).map (·.2)

/-! ## Herd operators (R201, R202) -/

/-- R201: the bytes of an element under a tag. -/
def herdSize (tag : Nat) : Nat :=
  if tag == 5 then 2 else if tag == 2 || tag == 4 || decide (12 ≤ tag) then 8 else 4

/-- R201: the identity of a tag. -/
def herdIdent (tag : Nat) : Nat :=
  match tag with
  | 3 => 0x80000000
  | 4 => 0x8000000000000000
  | 5 => 0x8000
  | 6 => 0x7FFFFFFF
  | 7 => 0x80000000
  | 8 => 0xFFFFFFFF
  | 10 => 0x7F800000
  | 11 => 0xFF800000
  | 12 => 0xFFFFFFFFFFFFFFFF
  | _ => 0

/-- R202: `hop` for one element. -/
def hopElt (tag x y : Nat) : Nat :=
  let sgn (v : Nat) : Int := intV .i32 v
  match tag with
  | 1 => (x + y) % 2 ^ 32
  | 2 => (x + y) % 2 ^ 64
  | 3 => hopF fmt32 0 x y
  | 4 => hopF fmt64 0 x y
  | 5 => hopF fmtB 0 x y
  | 6 => if sgn y < sgn x then y else x
  | 7 => if sgn x < sgn y then y else x
  | 8 => min x y
  | 9 => max x y
  | 10 => hopF fmt32 1 x y
  | 11 => hopF fmt32 2 x y
  | 12 => Nat.land x y
  | 13 => Nat.lor x y
  | _ => Nat.xor x y

/-- R202: `hop` over `n` elements of bytes. -/
def hopBytes (tag : Nat) : Nat → List Byte → List Byte → List Byte
  | 0, _, _ => []
  | n + 1, a, b =>
    let k := herdSize tag
    leBytes k (hopElt tag (leNat (a.take k)) (leNat (b.take k))) ++ hopBytes tag n (a.drop k) (b.drop k)

/-- R202: `hop` of two lines. -/
def hopLine (tag : Nat) (a b : List Byte) : List Byte := hopBytes tag (128 / herdSize tag) a b

/-- R201: a line of identities. -/
def identLine (tag : Nat) : List Byte :=
  (List.replicate (128 / herdSize tag) (leBytes (herdSize tag) (herdIdent tag))).flatten

/-- R205: the tree over the `2 ^ k` slots from `base` upward. -/
def slotTree (tag : Nat) (parts : List (Nat × List Byte)) : Nat → Nat → Option (List Byte)
  | 0, base => assocGet parts base
  | k + 1, base =>
    match slotTree tag parts k base, slotTree tag parts k (base + 2 ^ k) with
    | some a, some b => some (hopLine tag a b)
    | some a, none => some a
    | none, b => b

/-- R205: P of the package: the tree over its 128 core slots. -/
def packageTree (tag : Nat) (parts : List (Nat × List Byte)) : Option (List Byte) := slotTree tag parts 7 0

/-! ## The address map -/

/-- R23: the package that a pod physical address names. -/
def paPkg (pa : Nat) : Nat := pa / 2 ^ 46 % 1024
/-- R23: the local address. -/
def paLocal (pa : Nat) : Nat := pa % 2 ^ 46
/-- The 128-byte line of an address. -/
def lineOf (pa : Nat) : Nat := pa / 128

/-- R23, R298: what a local address names. -/
inductive Region where
  | hbm (die : Nat)
  | tier (port : Nat)
  | host
  | aperture
  | reserved
  | devregs
  deriving DecidableEq, Repr

/-- R23, R298: the local address map; beyond a port's populated capacity nothing stands. -/
def region (s : State) (pa : Nat) : Region :=
  let l := paLocal pa
  if l < 0xC000000000 then .hbm (l / 0x3000000000)
  else if l < 0x8C000000000 then (if l - 0xC000000000 < s.mem.tierCap.1 then .tier 0 else .reserved)
  else if l < 0x10C000000000 then (if l - 0x8C000000000 < s.mem.tierCap.2 then .tier 1 else .reserved)
  else if l < 0x30C000000000 then .host
  else if l < 0x38C000000000 then .aperture
  else if l < 0x3F0000000000 then .reserved
  else .devregs

/-- R298: the first local address of the host window. -/
def hostBase : Nat := 0x10C000000000

/-- R23: an address of another package. -/
def isRemote (s : State) (pa : Nat) : Bool := paPkg pa != s.fabric.pkg

/-- R23, R298: an address at which nothing stands: reserved, or of another package in a pod of one. -/
def nowhere (s : State) (pa : Nat) : Bool := (isRemote s pa && !s.fabric.inPod) || region s pa == .reserved

/-- R302: a tier address behind a failed link. -/
def tierLost (s : State) (pa : Nat) : Bool :=
  match region s pa with
  | .tier 0 => s.mem.tierDown.1
  | .tier _ => s.mem.tierDown.2
  | _ => false

/-- R301: which device behind its port holds a memory-tier address: the port's HDM decoder interleaves 1, 2, 4 or 8 devices at 4 KiB; the two
ports are not interleaved. -/
def tierDevice (s : State) (pa : Nat) : Option Nat :=
  match region s pa with
  | .tier 0 => some ((paLocal pa - 0xC000000000) / 4096 % 2 ^ (Config.hdmLog2 s.mgmt.hdm.1).val)
  | .tier _ => some ((paLocal pa - 0x8C000000000) / 4096 % 2 ^ (Config.hdmLog2 s.mgmt.hdm.2).val)
  | _ => none

/-! ## Bytes -/

/-- Bytes at a pod physical address. -/
def physRead (s : State) (pa n : Nat) : List Byte := cellsRead s.mem.cells pa n
/-- A little-endian number at a pod physical address. -/
def physNat (s : State) (pa n : Nat) : Nat := leNat (physRead s pa n)

/-- R234, R302: whether a read of bytes meets poison. -/
def physPoison (s : State) (pa n : Nat) : Bool :=
  tierLost s pa ||
    (!s.mem.poison.isEmpty && (List.range ((pa + n + 7) / 8 - pa / 8)).any (fun k => s.poisoned (.mem (pa / 8 + k))))

/-- R23, R154: the compute die that homes an address: HBM by its range, the memory tier by its home slice. -/
def homeDie (s : State) (pa : Nat) : Nat :=
  match region s pa with
  | .hbm d => d
  | _ => Config.homeSlice (lineOf pa) / 16 % 4

/-- R22, R23: the home slice of a line among the package's 64: one of the 16 of its die. -/
def sliceOf (s : State) (line : Nat) : Nat := homeDie s (line * 128) * 16 + Config.homeSlice line % 16

/-- R22: the lines that an L2 slice of 8 MiB holds. -/
def sliceLines : Nat := 65536

/-- R204: the lines of a slice that a Herd line's partials occupy. -/
def HerdLine.size (h : HerdLine) : Nat := h.parts.length + h.sealedParts.length

/-- R204: the lines of a slice that partials occupy. -/
def slicePartials (s : State) (k : Nat) : Nat :=
  ((s.mem.herd.filter (fun h => sliceOf s h.line == k)).map HerdLine.size).foldl (· + ·) 0

/-- R204: a line's partials collapsed into one, in the lowest core slot that holds one. -/
def HerdLine.collapse (h : HerdLine) : HerdLine :=
  match packageTree h.tag h.parts with
  | some x => { h with parts := [((h.parts.map Prod.fst).foldl min 127, x)] }
  | none => h

/-- R22, R204: a slice that a line or a partial has filled makes room: when more than half of its lines hold partials, by the collapse of the
line that it updated least recently, and else by its oldest line (notes/assumptions 87). -/
def sliceRoom (s : State) (line : Nat) : State :=
  if s.mem.present.length + (s.mem.herd.map HerdLine.size).foldl (· + ·) 0 ≤ sliceLines then s
  else
    let k := sliceOf s line
    let mine := s.mem.present.filter (fun x => sliceOf s x == k)
    if mine.length + slicePartials s k ≤ sliceLines then s
    else
      let l := s.mem.herd.filter (fun h => sliceOf s h.line == k && decide (h.parts.length ≥ 2))
      let old := (l.find? (fun h => l.all (fun x => decide (h.stamp ≤ x.stamp)))).filter (fun _ => decide (sliceLines < 2 * slicePartials s k))
      match old with
      | some h => s.modMem (fun m => { m with herd := m.herd.map (fun x => if x.line == h.line then h.collapse else x) })
      | none => s.modMem (fun m => { m with present := m.present.filter (fun x => some x != mine.getLast?) })

/-- R22, R90: a line brought into its home slice. -/
def State.setPresent (s : State) (line : Nat) : State :=
  if s.mem.present.contains line then s else sliceRoom (s.modMem (fun m => { m with present := line :: m.present })) line

/-- R90: a line whose data have come into its home slice; lines of the host are in none. -/
def State.fillSlice (s : State) (line : Nat) : State := if region s (line * 128) == .host then s else s.setPresent line

/-! ## Dirty tracking (R248, R249) -/

/-- R248: an item marked in the current bitmap of a context. -/
def Ctx.markCur (c : Ctx) (i : Item) : Ctx := if c.cur.contains i then c else { c with cur := i :: c.cur }

/-- R248: an item marked in the streaming bitmap: read again by the newest uncommitted increment. -/
def Ctx.markStream (c : Ctx) (i : Item) : Ctx :=
  { c with chain := c.chain.map (fun n => if n.committed then n else
      let subs := match i with | .page _ => 16 | _ => 1
      { n with items := if n.items.contains i then n.items else i :: n.items,
               todo := n.todo ++ (List.range subs).filterMap (fun k => if n.todo.contains (i, k) then none else some (i, k)) }) }

/-- R249: the slot tag of a 64 KiB page. -/
def slotTag (s : State) (pa : Nat) : Nat := (assocGet s.mem.slotTags (pa / 65536)).getD 0

/-- R249: whether a context tracks a page of its checkpoint set: the page carries the context's tag. -/
def Ctx.tracks (s : State) (c : Ctx) (e : Nat × Nat) : Bool := slotTag s e.2 == c.desc.slottag && c.desc.slottag != 0

/-- R248, R249: the pages that bytes touch marked in the context whose slot tag they carry; `pre`: the context whose pre-cut write this
is, marked in its streaming bitmap. -/
def markPages (s : State) (pa n : Nat) (pre : Option Nat) : State :=
  let mark (ci : Nat) (c : Ctx) : Ctx := (c.desc.cset.filter (fun e => pa < e.2 + 65536 && e.2 < pa + n && c.tracks s e)).foldl
    (fun x e => if pre == some ci then x.markStream (.page e.1) else x.markCur (.page e.1)) c
  if s.mem.slotTags.isEmpty then s else { s with ctxs := s.ctxs.mapIdx mark }

/-- R248: an item of a block marked in its context's current bitmap. -/
def markItem (s : State) (blk : Nat) (i : Item) : State :=
  match s.block? blk with
  | some b => s.modCtx b.ctx (fun c => c.markCur i)
  | none => s

/-! ## Host sectors (R187) -/

/-- R187: whether an address is coherent host memory under a mapping type. -/
def hostCoh (s : State) (pa typ : Nat) : Bool := region s pa == .host && typ != 2

/-- R187: a byte of a sector that the device holds written. -/
def sectorByte (s : State) (a : Nat) : Option Byte :=
  match s.mem.sectors.find? (fun x => x.addr == a / 64) with
  | some x => if x.mask.getLsbD (a % 64) then x.bytes[a % 64]? else none
  | none => none

/-- Bytes as their owner holds them: host memory under the device's written sector bytes. -/
def ownRead (s : State) (pa n : Nat) : List Byte :=
  if s.mem.sectors.isEmpty then physRead s pa n
  else (List.range n).map (fun k => (sectorByte s (pa + k)).getD (cellGet s.mem.cells (pa + k)))

/-! ## Monitors (R165, R378, R421) -/

/-- R165, R164: whether a word satisfies a monitor. -/
def Monitor.holds (m : Monitor) (w : Nat) : Bool :=
  if m.counter then decide (w % 2 ^ 63 ≥ m.v.toNat % 2 ^ 63)
  else condW m.cond (8 * m.width) m.signed w m.v.toNat

/-- R165: every monitor on written memory bytes evaluated, indivisibly with the write. -/
def evalMonitors (s : State) (pa n : Nat) : State :=
  if s.mem.monitors.isEmpty then s
  else s.modMem fun ms => { ms with monitors := ms.monitors.map fun m =>
    match m.loc with
    | .mem _ =>
      let w := leNat (ownRead s m.pa m.width)
      if m.hit.isNone && pa < m.pa + m.width && m.pa < pa + n && m.holds w then { m with hit := some (BitVec.ofNat 64 w) } else m
    | _ => m }

/-- R165: every monitor on a block's scratchpad bytes evaluated. -/
def evalScratchMonitors (s : State) (blk off n : Nat) : State :=
  if s.mem.monitors.isEmpty then s
  else
    match s.block? blk with
    | none => s
    | some b =>
      s.modMem fun ms => { ms with monitors := ms.monitors.map fun m =>
        match m.loc with
        | .scratch k _ =>
          if k == blk && m.hit.isNone && off < m.pa + m.width && m.pa < off + n &&
              m.holds (leNat (cellsRead b.scratch m.pa m.width)) then
            { m with hit := some (BitVec.ofNat 64 (leNat (cellsRead b.scratch m.pa m.width))) }
          else m
        | _ => m }

/-! ## Writes -/

/-- R234: the marks of the memory words that bytes cover whole cleared. -/
def clearMemPoison (s : State) (pa n : Nat) : State :=
  s.clearPoison (fun l => match l with | .mem d => decide (pa ≤ 8 * d) && decide (8 * d + 8 ≤ pa + n) | _ => false)

/-- R168, R234, R248: bytes applied at their home slice. -/
def physWrite (s : State) (pa : Nat) (bs : List Byte) (pre : Option Nat := none) : State :=
  let s := s.modMem (fun m => { m with cells := cellsWrite m.cells pa bs })
  let s := clearMemPoison s pa bs.length
  let s := s.setPresent (lineOf pa)
  let s := markPages s pa bs.length pre
  evalMonitors s pa bs.length

/-- R234: the memory words that bytes touch poisoned. -/
def physPoisonWrite (s : State) (pa n : Nat) (pre : Option Nat := none) : State :=
  (List.range ((pa + n + 7) / 8 - pa / 8)).foldl (fun s k => s.addPoison (.mem (pa / 8 + k))) (markPages s pa n pre)

/-- R165, R186, R299: bytes applied at a host completer. -/
def hostPut (s : State) (pa : Nat) (bs : List Byte) : State :=
  evalMonitors (s.modMem (fun m => { m with cells := cellsWrite m.cells pa bs })) pa bs.length

/-! ## Scratchpad storage (R145, R248) -/

/-- Bytes of a block's scratchpad. -/
def scratchRead (s : State) (blk off n : Nat) : List Byte :=
  match s.block? blk with
  | some b => cellsRead b.scratch off n
  | none => cellsRead [] off n

/-- R234: whether scratchpad bytes are poisoned. -/
def scratchPoison (s : State) (blk off n : Nat) : Bool :=
  !s.mem.poison.isEmpty && (List.range ((off + n + 7) / 8 - off / 8)).any (fun k => s.poisoned (.scratch blk (off / 8 + k)))

/-- R156: a pushed line of a held lock that the block has written marked. -/
def HeldLock.touch (h : HeldLock) (off n : Nat) : HeldLock :=
  if h.rel.isSome then h else
  let lines := (h.ranges.map Prod.snd).foldl (· + ·) 0
  { h with marked := (List.range ((off + n + 127) / 128 - off / 128)).foldl (fun m k =>
      let i := off / 128 + k
      if decide (h.off / 128 ≤ i) && decide (i < h.off / 128 + lines) && !m.contains (i - h.off / 128)
      then m ++ [i - h.off / 128] else m) h.marked }

/-- R156, R168, R234, R248: bytes applied at a block's scratchpad port; `own`: the block itself writes them. -/
def scratchWrite (s : State) (blk off : Nat) (bs : List Byte) (own : Bool := true) : State :=
  let s := s.modBlock blk (fun b => { b with
    scratch := cellsWrite b.scratch off bs
    locks := if own then b.locks.map (fun h => h.touch off bs.length) else b.locks })
  let s := s.clearPoison (fun l =>
    match l with
    | .scratch k d => k == blk && decide (off ≤ 8 * d) && decide (8 * d + 8 ≤ off + bs.length)
    | _ => false)
  let s := (List.range ((off + bs.length + 127) / 128 - off / 128)).foldl
    (fun s k => markItem s blk (.scratch blk (off / 128 + k))) s
  evalScratchMonitors s blk off bs.length

/-- R234: scratchpad words poisoned. -/
def scratchPoisonWrite (s : State) (blk off n : Nat) : State :=
  (List.range ((off + n + 7) / 8 - off / 8)).foldl (fun s k => s.addPoison (.scratch blk (off / 8 + k))) s

/-! ## Accumulator rows (R136) -/

/-- R35, R136: an accumulator element; one that nothing has written is 0 on a cleared core and open otherwise (log 1). -/
def accGet (b : Block) (blk row col : Nat) : W32 :=
  match b.acc.find? (fun p => p.1 == row * 128 + col) with
  | some p => p.2
  | none => if b.accClean then 0 else Config.accResidue blk (row * 128 + col)

/-- R234: the marks of a row of the accumulator store cleared. -/
def accClear (s : State) (blk row : Nat) : State :=
  s.clearPoison (fun l => match l with | .acc k i => k == blk && i / 128 == row | _ => false)

/-- R136, R248: an accumulator element written; the mark of its word stands (R234). -/
def accSet (s : State) (blk row col : Nat) (x : W32) : State :=
  let s := s.modBlock blk (fun b => { b with acc := assocSet b.acc (row * 128 + col) x })
  markItem s blk (.acc blk (row / 8))

end Sys2Proof.Machine
end

