-- ==== Sys2Proof/Machine/Link.lean ====
section
/-! DEFINITION. The scale-up links (13_outside R303 to R305): keys, sequences and quarantine of each owner on a link, and the packets that
carry the package's messages on the fabric (09_fold_herd R192, R196). -/

namespace Sys2Proof.Machine

open Sys2Proof

/-! ## Owners on links (R303, R305) -/

/-- An owner on a link as nothing has yet been counted. -/
def LinkOwner.start (owner link : Nat) : LinkOwner :=
  { owner := owner, link := link, tagfail := 0, times := [], quarantined := false, keys := [], seqs := [], sent := [] }

/-- An owner on a link changed. -/
def modLink (s : State) (owner link : Nat) (f : LinkOwner → LinkOwner) : State :=
  let mine (x : LinkOwner) : Bool := x.owner == owner && x.link == link
  s.modFab (fun g => { g with links := f ((g.links.find? mine).getD (LinkOwner.start owner link)) :: g.links.filter (fun x => !mine x) })

/-- What a link end keeps of an owner. -/
def linkOf (s : State) (owner link : Nat) : LinkOwner :=
  (s.fabric.links.find? (fun x => x.owner == owner && x.link == link)).getD (LinkOwner.start owner link)

/-- R303: the next sequence number that a receiver accepts of an owner under an epoch. -/
def LinkOwner.nextSeq (x : LinkOwner) (e : Nat) : Nat := (assocGet x.seqs e).getD 0

/-- R303: the 96-bit IV of a packet: its sequence number, its owner index and the identity of its link. -/
def packetIv (seq owner link : Nat) : BitVec 96 := BitVec.ofNat 64 seq ++ BitVec.ofNat 16 owner ++ BitVec.ofNat 16 link

/-! ## Where a message goes (R192, R196) -/

/-- R192: the bucket of a line's address. -/
def bucketOf (line : Nat) : Nat :=
  let a := line * 128
  let f (k : Nat) : Nat := a / 2 ^ k % 4096
  Nat.xor (f 7) (Nat.xor (f 19) (Nat.xor (f 31) (Nat.xor (f 43) (a / 2 ^ 55 % 2))))

/-- R192: the first-tier switch of a line. -/
def switchOf (s : State) (line : Nat) : Nat := (assocGet s.fabric.dirmap (bucketOf line)).getD 0

/-- R196, R310: the agent to which a message travels. -/
inductive Dest where
  | switch (n : Nat)
  | pkg (n : Nat)
  | barriers
  deriving DecidableEq, Repr

/-- R196: the directory of a line. -/
def dirOf (s : State) (line : Nat) : Dest := .switch (switchOf s line)

/-- The port by which a message leaves. -/
def Dest.port : Dest → Nat
  | .switch n => Config.portToward 0 n
  | .pkg n => Config.portToward 1 n
  | .barriers => Config.portToward 2 0

/-- R305: whether an owner's packets to an agent, and those from it, are dropped. -/
def linkShut (s : State) (owner : Nat) (d : Dest) : Bool := (linkOf s owner d.port).quarantined

end Sys2Proof.Machine

namespace Sys2Proof.Config

/-- R303: the bytes that the tag of a packet covers, its header less the tag and its payload; the spec gives no layout of them. -/
opaque covered : Nat → Nat → Nat → Machine.OutMsg → List Byte

end Sys2Proof.Config

namespace Sys2Proof.Machine

open Sys2Proof

/-- R303, R304, R305: a message sent on the scale-up link toward an agent, in a packet that carries an owner index, under the newest key of the
owner there and with the next sequence number; a quarantined owner's packet is dropped. -/
def State.sendFab (s : State) (owner : Nat) (d : Dest) (m : OutMsg) : State :=
  let x := linkOf s owner d.port
  if x.quarantined then s
  else
    let k := x.keys.head?.getD (0, 0)
    let n := (assocGet x.sent k.1).getD 0
    let tag := Config.gmac k.2 (packetIv n owner d.port) (Config.covered owner d.port k.1 m)
    (modLink s owner d.port (fun x => { x with sent := assocSet x.sent k.1 ((n + 1) % 2 ^ 64) })).send
      (.packet { owner := owner, link := d.port, epoch := k.1, seq := n, tag := tag } m)

/-- R304: the owner index of a context's function. -/
def ownerOf (s : State) (ci : Nat) : Nat :=
  match s.ctxs[ci]? with
  | some c => ((s.fns[c.fn]?).map Fn.owner).getD 0
  | none => 0

/-- R304, R306: what an access to a line is made for: the owner index that its messages carry, and what awaits its answer. -/
structure Cause where
  owner : Nat
  who : FabWho
  deriving DecidableEq, Repr

/-- The cause of what a context's work does. -/
def causeOf (s : State) (ci : Nat) (who : FabWho) : Cause := { owner := ownerOf s ci, who := who }

/-- The cause of a function's own accesses: those of its walks and of its front end. -/
def fnCause (s : State) (fn : Nat) : Cause := { owner := ((s.fns[fn]?).map Fn.owner).getD 0, who := .walk fn }

/-- The cause of a word of an issuing stream. -/
def View.cause (v : View) (s : State) : Cause := causeOf s v.b.ctx (.party v.p)

/-- What the package's own memory does, for its own owner (R304). -/
def ownCause (s : State) : Cause := { owner := s.fabric.owner, who := .other }

end Sys2Proof.Machine
end

