-- ==== Sys2Proof/Machine/Line.lean ====
section
/-! DEFINITION. Lines at their owners (08_ordering, 09_fold_herd, 13_outside): leases and write completion times, the fabric
states, the Herd state and its merges, host sectors, shadow lines, synchronisation steps, and the completion of operations. -/

namespace Sys2Proof.Machine

open Sys2Proof

/-! ## Host sectors (R187) -/

/-- R187: a byte merged into its sector, which the device then owns modified. -/
def sectorPut (l : List Sector) (a : Nat) (v : Byte) : List Sector :=
  let x := (l.find? (fun x => x.addr == a / 64)).getD { addr := a / 64, modified := false, mask := 0, bytes := List.replicate 64 0 }
  { x with modified := true, mask := x.mask ||| (1#64 <<< (a % 64)), bytes := x.bytes.set (a % 64) v } ::
    l.filter (fun x => x.addr != a / 64)

/-- R165, R187: bytes written to coherent host memory. -/
def sectorWrite (s : State) (pa : Nat) (bs : List Byte) : State :=
  evalMonitors (s.modMem (fun m => { m with
    sectors := (bs.zipIdx).foldl (fun l (p : Byte × Nat) => sectorPut l (pa + p.2) p.1) m.sectors })) pa bs.length

/-- R187: the written bytes of a line's sectors written back, and both sectors dropped. -/
def dropSectors (s : State) (line : Nat) : State :=
  let mine := s.mem.sectors.filter (fun x => x.addr / 2 == line)
  let s := mine.foldl (fun s x => (List.range 64).foldl (fun s k =>
    if x.mask.getLsbD k then s.modMem (fun m => { m with cells := cellSet m.cells (x.addr * 64 + k) (x.bytes.getD k 0) }) else s) s) s
  s.modMem (fun m => { m with sectors := m.sectors.filter (fun x => x.addr / 2 != line) })

/-- R422: the bytes of a write sent to the home that performs it. -/
def carry (s : State) (pa : Nat) (bs : List Byte) : State :=
  match s.mem.fab.find? (fun f => f.line == lineOf pa) with
  | some f => if isRemote s pa && f.st == .shared && f.kept == some true then s.sendFab f.owner (.pkg (paPkg pa)) (.carried pa bs) else s
  | none => s

/-- R168, R187, R189, R422: bytes applied at their owner under a mapping type. -/
def ownWrite (s : State) (pa : Nat) (bs : List Byte) (typ : Nat) (pre : Option Nat) : State :=
  if typ == 1 then
    (physWrite s pa bs pre).modMem (fun m => { m with
      smDirty := (List.range bs.length).foldl (fun l k => if l.contains (pa + k) then l else (pa + k) :: l) m.smDirty })
  else if hostCoh s pa typ then sectorWrite s pa bs
  else carry (physWrite s pa bs pre) pa bs

/-! ## Cuts and writes (R248, R252) -/

/-- R248: the context one of whose pre-cut writes an operation's write is: a cut of it that is not yet closed came after the operation's
issue. Writes of a party that issues now are post-cut, since every party has stopped at T. -/
def preCut (s : State) (ci op : Nat) : Option Nat :=
  match s.ctxs[ci]? with
  | some c => if c.chain.any (fun n => !n.closed && decide (op < n.below)) then some ci else none
  | none => none

/-- R252: whether a context's uncommitted increment has still to read an item. -/
def Ctx.unread (c : Ctx) (i : Item) (sub : Nat) : Bool := c.chain.any (fun n => !n.committed && n.todo.contains (i, sub))

/-- R252: a post-cut write to memory bytes that must be held: an item not yet read. `pre`: the context whose writes are
pre-cut. -/
def pageHeld (s : State) (pa n : Nat) (pre : Option Nat) : Bool :=
  (s.ctxs.zipIdx).any fun (c, ci) =>
    pre != some ci && c.chain.any (fun x => !x.committed) &&
      c.desc.cset.any (fun e => decide (pa < e.2 + 65536) && decide (e.2 < pa + n) && c.unread (.page e.1) ((pa - e.2) / 4096))

/-- R473: whether a lock's write-back under way has still to read a scratchpad line. -/
def HeldLock.holds (h : HeldLock) (line : Nat) : Bool := h.rel.isSome && h.marked.any (fun i => h.off / 128 + i == line)

/-- R252: a post-cut write to an item of a block that must be held., or whether a lock's write-back has still to read it (R473). -/
def itemHeld (s : State) (blk : Nat) (i : Item) : Bool :=
  match s.block? blk with
  | some b =>
    match s.ctxs[b.ctx]? with
    | some c => c.unread i 0 || (match i with | .scratch k l => k == blk && b.locks.any (fun h => h.holds l) | _ => false)
    | none => false
  | none => false

/-- R252: the items that a held write waits for queued to be read next, in the order in which the holds arise. -/
def Ctx.askSnatch (c : Ctx) (l : List (Item × Nat)) : Ctx :=
  { c with chain := c.chain.map (fun n => if n.committed then n else
      { n with snatch := n.snatch ++ l.filter (fun x => n.todo.contains x && !n.snatch.contains x) }) }

/-- R252: the hold of a write to memory bytes. -/
def notePage (s : State) (pa n : Nat) (pre : Option Nat) : State :=
  { s with ctxs := s.ctxs.mapIdx fun ci c => if pre == some ci then c else
      c.askSnatch (((c.desc.cset.filter (fun e => decide (pa < e.2 + 65536) && decide (e.2 < pa + n))).map
        (fun e => (Item.page e.1, (pa - e.2) / 4096)))) }

/-- R252: the hold of a write to an item of a block. -/
def noteItem (s : State) (blk : Nat) (i : Item) : State :=
  match s.block? blk with
  | some b => s.modCtx b.ctx (fun c => c.askSnatch [(i, 0)])
  | none => s

/-- R252: the holds of a write to several items of a block. -/
def noteItems (s : State) (blk : Nat) (l : List Item) : State := l.foldl (fun s i => noteItem s blk i) s

/-! ## Leases (R170 to R173) -/

/-- R171: the latest lease end granted on a line, 0 for none. -/
def leaseEnd (s : State) (line : Nat) : Nat := (assocGet s.mem.leases line).getD 0
/-- R173: whether a synchronisation write is held on a line. -/
def heldOn (s : State) (line : Nat) : Bool := s.mem.held.any (fun h => h.line == line)
/-- A core's L1 copy of a line. -/
def l1Find (s : State) (core line : Nat) : Option L1Line :=
  match s.cores[core]? with
  | some c => c.l1.find? (fun x => x.line == line)
  | none => none
/-- R173: a core's L1 copy dropped. -/
def l1Drop (s : State) (core line : Nat) : State := s.modCore core (fun c => { c with l1 := c.l1.filter (fun x => x.line != line) })

/-- R174: the copies of a line in the cores of a party's block, and of its pair's other copy, dropped: a synchronisation access has found
what the line's owner holds, and no later read of theirs returns an older value. -/
def l1Away (s : State) (p : Party) (line : Nat) : State :=
  let cores : List Nat := match s.block? p.blk with
    | some b => b.core :: (match b.pair with | some q => ((s.block? q.mate).map Block.core).toList | none => [])
    | none => []
  cores.foldl (fun s c => l1Drop s c line) s

/-! ## Fabric states (R194 to R200) -/

/-- R191: the package takes part in the directory protocol for an address. -/
def onFabric (s : State) (pa : Nat) : Bool := isRemote s pa || s.mem.fabricBits.contains (lineOf pa)
/-- A line the package does not hold. -/
def FabLine.fresh (line : Nat) : FabLine :=
  { line := line, st := .inv, lease := 0, gRemote := 0, acks := 0, early := 0, lend := 0, grantAt := 0, req := 0, reqAt := 0, sw := 0, holdVer := 0,
    retryAt := 0, owner := 0, tag := 0, kept := none, waiters := [], errs := [], errEnd := 0 }
/-- What the package's L2 holds of a line. -/
def fabOf (s : State) (line : Nat) : FabLine := (s.mem.fab.find? (fun f => f.line == line)).getD (FabLine.fresh line)
/-- A line's fabric state replaced. -/
def setFab (s : State) (f : FabLine) : State := s.modMem (fun m => { m with fab := f :: m.fab.filter (fun x => x.line != f.line) })
/-- R194: whether a copy may be read. -/
def FabLine.readable (f : FabLine) (ft : Nat) (sm : Bool) : Bool :=
  match f.st with
  | .shared => sm || decide (ft < f.lease)
  | .excl | .modified | .owned => true
  | _ => false

/-- R194: whether the package owns a line. -/
def FabLine.owns (f : FabLine) : Bool := f.st == .excl || f.st == .modified || f.st == .owned

/-- R192, R196: the message of a request kind: 1 GETS, 2 GETX, 3 UPG, 4 REDJ, 5 a merge. R196 names none for the last: the model's own
message stands for it (notes/assumptions 46, DESIGN CHOICE). -/
def reqMsg (s : State) (line kind tag : Nat) : OutMsg :=
  match kind with
  | 1 => .gets line s.fabric.dirmapVer
  | 2 => .getx line s.fabric.dirmapVer
  | 3 => .upg line s.fabric.dirmapVer
  | 4 => .redj line tag s.fabric.dirmapVer
  | _ => .merge line s.fabric.dirmapVer

/-- R196, R304: a request sent for an owner unless one is in flight for the line. -/
def fabAsk (s : State) (owner line kind tag : Nat) : State :=
  let f := fabOf s line
  if f.req != 0 then s else (setFab s { f with
    req := kind, reqAt := s.ft, owner := owner, sw := switchOf s line, tag := if kind == 4 then tag else f.tag, waiters := [] }).sendFab owner
      (dirOf s line) (reqMsg s line kind tag)

/-- R306, R308: a request that has ended without its data: the accesses that await it take that end. -/
def FabLine.failed (f : FabLine) (ft code : Nat) : FabLine :=
  { f with req := 0, retryAt := 0, holdVer := 0, early := 0, waiters := [], errs := f.waiters.map (fun w => (w, code)), errEnd := ft + 1000 }

/-! ## What else the package asks of a directory (R192, R200, R207) -/

/-- R192: the message of an ask, with the package's VERSION. -/
def DirAsk.msg (a : DirAsk) (ver : Nat) : OutMsg := if a.recalls then .recallWin a.line ver else .askRevoke a.line ver

/-- R193: an ask sent, once more or for the first time, under the map in force. -/
def sendAsk (s : State) (a : DirAsk) : State :=
  let a : DirAsk := { a with sw := switchOf s a.line, holdVer := 0, retryAt := 0 }
  let rest (m : MemSys) : List DirAsk := m.asks.filter (fun x => x.line != a.line || x.recalls != a.recalls)
  (s.modMem (fun m => { m with asks := a :: rest m })).sendFab a.owner (dirOf s a.line) (a.msg s.fabric.dirmapVer)

/-- Whether an LREVOKE of a line, or its recall, has been asked for and has not come. -/
def asked (s : State) (line : Nat) (recalls : Bool) : Bool := s.mem.asks.any (fun a => a.line == line && a.recalls == recalls)

/-- An ask of a line done with. -/
def unask (s : State) (line : Nat) (recalls : Bool) : State :=
  s.modMem (fun m => { m with asks := m.asks.filter (fun a => a.line != line || a.recalls != recalls) })

/-- R207, R247, R308: the directory asked to recall a line (notes/assumptions 46, DESIGN CHOICE: R196 names no message for it). -/
def askRecall (s : State) (owner line : Nat) : State :=
  if asked s line true then s else sendAsk s { line := line, recalls := true, owner := owner, sw := 0, holdVer := 0, retryAt := 0 }

/-! ## Write completion times -/

/-- R171, R172: the package GWCT of a plain write performed now. -/
def gPkg (s : State) (pa : Nat) : Nat := max s.ft (leaseEnd s (lineOf pa)) + 4
/-- R171, R199: the GWCT of a plain write performed now. -/
def gFull (s : State) (pa : Nat) : Nat :=
  if onFabric s pa then
    let f := fabOf s (lineOf pa)
    max (gPkg s pa) (if f.gRemote < s.ft then 0 else f.gRemote)
  else gPkg s pa

/-- R170, R195: a line of 128 bytes filled into a core's L1 under a lease of its context. -/
def l1Fill (s : State) (core line lease : Nat) : State :=
  let cap := if onFabric s (line * 128) && (fabOf s line).st == .shared then (fabOf s line).lease else s.ft + lease
  let e := min cap (s.ft + lease)
  let s := s.modCore core (fun c => { c with
    l1 := { line := line, bytes := ownRead s (line * 128) 128, lease := e, bad := false } :: c.l1.filter (fun x => x.line != line && decide (s.ft < x.lease)) })
  s.modMem (fun m => { m with
    leases := assocSet (m.leases.filter (fun p => decide (s.ft < p.2))) line (max e (leaseEnd s line)) })

/-! ## Herd lines (R203 to R208) -/

/-- The package's Herd line. -/
def herdOf (s : State) (line : Nat) : Option HerdLine := s.mem.herd.find? (fun h => h.line == line)
/-- R209: whether any fresh partial of a line is poisoned. -/
def herdPoison (s : State) (line : Nat) : Bool :=
  s.mem.poison.any (fun l => match l with | .herd k _ => k == line | _ => false)
/-- R247: the contexts whose cuts have sealed partials of a line. -/
def HerdLine.sealCtxs (h : HerdLine) : List Nat := (h.sealers.map Prod.snd).eraseDups
/-- R247: the core slots of a line whose partials a context's cut has sealed. -/
def HerdLine.slotsOf (h : HerdLine) (ci : Nat) : List Nat := (h.sealers.filter (fun x => x.2 == ci)).map Prod.fst
/-- R209, R247: whether any sealed partial of some core slots of a line is poisoned. -/
def sealedPoison (s : State) (line : Nat) (slots : List Nat) : Bool :=
  s.mem.poison.any (fun l => match l with | .herdSealed k c => k == line && slots.contains c | _ => false)
/-- R247: the sealed partials of some core slots of a line freed. -/
def sealedFree (s : State) (line : Nat) (slots : List Nat) : State :=
  let left (h : HerdLine) : HerdLine := { h with
    sealedParts := h.sealedParts.filter (fun p => !slots.contains p.1), sealers := h.sealers.filter (fun p => !slots.contains p.1) }
  (s.modMem (fun m => { m with herd := (m.herd.map (fun h => if h.line == line then left h else h)).filter (fun h => h.size != 0) })).clearPoison
    (fun l => match l with | .herdSealed k c => k == line && slots.contains c | _ => false)
/-- A package's partials of a line freed. -/
def herdFree (s : State) (line : Nat) : State :=
  (s.modMem (fun m => { m with herd := m.herd.filter (fun h => h.line != line) })).clearPoison
    (fun l => match l with | .herd k _ | .herdSealed k _ => k == line | _ => false)

/-- R207: the home's indivisible update of a line; poisoned words stay poisoned, and a poisoned partial poisons the line. -/
def mergeHome (s : State) (line tag : Nat) (part : Option (List Byte)) (poison : Bool) (pre : Option Nat) : State :=
  if poison then physPoisonWrite s (line * 128) 128 pre
  else
    match part with
    | none => s
    | some x =>
      let bad := s.mem.poison.filter (fun l => match l with | .mem d => d / 16 == line | _ => false)
      bad.foldl State.addPoison (physWrite s (line * 128) (hopLine tag (physRead s (line * 128) 128) x) pre)

/-- R209, R247, R248: the partials of a line that a context's cut has sealed merged into its home value, as writes from before that cut. -/
def mergeSealedOf (s : State) (line ci : Nat) : State :=
  match herdOf s line with
  | none => s
  | some h =>
    let slots := h.slotsOf ci
    let tree := packageTree h.tag (h.sealedParts.filter (fun p => slots.contains p.1))
    sealedFree (mergeHome s line h.tag tree (sealedPoison s line slots) (some ci)) line slots

/-- R247: all sealed partials of a line merged, those of each cut for itself. -/
def mergeSealed (s : State) (line : Nat) : State := (((herdOf s line).map HerdLine.sealCtxs).getD []).foldl (fun s ci => mergeSealedOf s line ci) s

/-- R205, R207: the full merge of a line without directory entry: its sealed partials first (R247), then the others. -/
def localMerge (s : State) (line : Nat) (pre : Option Nat) : State :=
  let s := mergeSealed s line
  match herdOf s line with
  | none => s
  | some h => herdFree (mergeHome s line h.tag (packageTree h.tag h.parts) (herdPoison s line) pre) line

/-- R248, R252: whether the merge of a line has to wait for an item that is being saved: as a write of an access, if it has fresh partials, and
as a write from before a cut for its sealed ones. -/
def mergeHeld (s : State) (h : HerdLine) (pre : Option Nat) : Bool :=
  (!h.parts.isEmpty && pageHeld s (h.line * 128) 128 pre) || h.sealCtxs.any (fun ci => pageHeld s (h.line * 128) 128 (some ci))

/-- R203: bytes combined into a core's partial at an offset of the line: the partial is made at the identity, and the core's
own L1 copy goes. -/
def herdCombine (s : State) (line tag core : Nat) (upd : List Byte) : State :=
  let h := (herdOf s line).getD { line := line, tag := tag, parts := [], sealedParts := [], sealers := [], stamp := 0 }
  let part := (assocGet h.parts core).getD (identLine tag)
  let h' := { h with tag := tag, parts := assocSet h.parts core (hopLine tag part upd), stamp := s.ft }
  let s := l1Drop (s.modMem (fun m => { m with herd := h' :: m.herd.filter (fun x => x.line != line) })) core line
  if (assocGet h.parts core).isSome then s else sliceRoom s line

/-! ## Whether a line may be accessed now -/

/-- What an access wants of a line. -/
inductive Use where
  | read
  | write
  | sync
  | herd (tag : Nat)
  deriving DecidableEq, Repr

/-- What a line answers an access: it may be performed; it waits; or the request it needed ended in an error (R306, R308). -/
inductive LineAns where
  | go
  | wait (w : Wait)
  | err (code : Nat)
  deriving DecidableEq, Repr

/-- R306: an access that goes on to await the request in flight for a line. -/
def fabWait (s : State) (who : FabWho) (line : Nat) : State × LineAns :=
  let f := fabOf s line
  (if f.waiters.contains who then s else setFab s { f with waiters := who :: f.waiters }, .wait (.remote line))

/-- R422: a write that goes to the home and is performed there, past it when the longest lease of the fabric has ended (notes/assumptions 73). -/
def carryOn (s : State) (f : FabLine) : State :=
  setFab s { f with kept := some true, gRemote := max f.gRemote (s.ft + s.fabric.leasef) }

/-- R194, R196, R306: the fabric side of an access; one that has awaited a request which ended without its data takes that end. -/
def fabReady (s : State) (c : Cause) (pa typ : Nat) (u : Use) : State × LineAns :=
  let line := lineOf pa
  let f := fabOf s line
  let ask (k tag : Nat) : State × LineAns := fabWait (fabAsk s c.owner line k tag) c.who line
  match (f.errs.find? (fun x => x.1 == c.who)).filter (fun _ => decide (s.ft < f.errEnd)) with
  | some x => (setFab s { f with errs := f.errs.filter (fun y => y.1 != c.who) }, .err x.2)
  | none =>
  if f.req != 0 then fabWait s c.who line
  else if typ == 1 then (if f.readable s.ft true then (s, .go) else ask 1 0)
  else
    match u with
    | .read => if f.st == .herd then ask 5 0 else if f.readable s.ft false && f.kept != some true then (s, .go) else ask 1 0
    | .herd tag =>
      if f.st == .herd && ((herdOf s line).map HerdLine.tag).getD f.tag == tag then (s, .go)
      else if f.st == .herd then ask 5 0 else ask 4 tag
    | _ =>
      match f.st with
      | .modified => (s, .go)
      | .excl => (setFab s { f with st := .modified }, .go)
      | .herd => ask 5 0
      | .owned => ask 3 0
      | .shared =>
        if s.ft < f.lease then (if f.kept.isSome then (carryOn s f, .go) else ask 3 0) else ask 2 0
      | .inv => ask 2 0

/-- R190, R197, R207, R252: what the owner's side of a line answers an access; messages it needs are sent, and a local merge it
starts is made. -/
def ownerReady (s : State) (c : Cause) (pa typ : Nat) (u : Use) (pre : Option Nat) : State × LineAns :=
  let line := lineOf pa
  if onFabric s pa then fabReady s c pa typ u
  else
    match herdOf s line with
    | none => (s, .go)
    | some h =>
      if u == .herd h.tag then (s, .go)
      else if mergeHeld s h pre then (notePage s (line * 128) 128 pre, .wait (.snatch pa))
      else if s.ft < leaseEnd s line then (s, .wait (.held line))
      else (localMerge s line pre, .go)

/-- R173: whether a plain write is queued on a line. -/
def queuedOn (s : State) (line : Nat) : Bool := s.mem.writes.any (fun w => lineOf w.pa == line)

/-- R173, R190, R197, R207, R252: what an access to one line waits for before it may be performed, none when nothing; messages it
needs are sent, and a local merge it starts is made. `pre` is the context whose pre-cut accesses it is one of. A plain write waits behind
those that have arrived before it. -/
def lineFor (s : State) (c : Cause) (pre : Option Nat) (pa n typ : Nat) (u : Use) : State × LineAns :=
  let line := lineOf pa
  if (u == .write || u == .sync) && pageHeld s pa n pre then (notePage s pa n pre, .wait (.snatch pa))
  else if u != .sync && heldOn s line then (s, .wait (.held line))
  else if u == .write && queuedOn s line then (s, .wait (.held line))
  else ownerReady s c pa typ u pre

/-- What an access that is made now to one line waits for. -/
def lineReady (s : State) (c : Cause) (pa n typ : Nat) (u : Use) : State × LineAns := lineFor s c none pa n typ u

/-! ## Shadow lines of paired copies (R265) -/

/-- R265: the most shadow lines a copy holds. -/
def shadowMax : Nat := 8192

/-- A shadow line without content. -/
def Shadow.fresh (line : Nat) : Shadow := { pa := line, bytes := [], addend := [], bad := [], typ := 0 }

/-- R141, R265: the addend of an add-on-store added to an element's code. -/
def addOnStore (old x rnd : Nat) (sat : Bool) : Nat := faddF fmt32 { rnd := rnd, sat := sat, ftz := false, nanp := false } old x

/-- R265: a line's bytes with its addends added, in their order. -/
def shadowSums (off : Nat) (raw : List Byte) (l : List (Nat × W32 × Nat × Bool)) : List Byte :=
  l.foldl (fun (r : List Byte) a =>
    if decide (off ≤ a.1) && decide (a.1 + 4 ≤ off + raw.length) then
      let k := a.1 - off
      r.take k ++ leBytes 4 (addOnStore (leNat ((r.drop k).take 4)) a.2.1.toNat a.2.2.1 a.2.2.2) ++ r.drop (k + 4)
    else r) raw

/-- The shadow line of a pair that holds an address. -/
def shadowFind (pr : Option Pair) (pa : Nat) : Option Shadow := pr.bind (fun p => p.shadow.find? (fun x => x.pa == lineOf pa))

/-- R265, R174: memory bytes as a paired copy sees them: its held addends and writes over what memory holds. -/
def shadowOver (pr : Option Pair) (pa : Nat) (raw : List Byte) : List Byte :=
  match shadowFind pr pa with
  | none => raw
  | some x => (shadowSums (pa % 128) raw x.addend).mapIdx (fun k b => (assocGet x.bytes (pa % 128 + k)).getD b)

/-- R234: whether a paired copy's held bytes are poisoned. -/
def shadowBad (pr : Option Pair) (pa n : Nat) : Bool :=
  match shadowFind pr pa with
  | none => false
  | some x => x.bad.any (fun d => decide (8 * d < pa % 128 + n) && decide (pa % 128 < 8 * d + 8))

/-- R265: a shadow line changed; none when it would be one line too many. -/
def shadowMod (pr : Pair) (pa : Nat) (f : Shadow → Shadow) : Option Pair :=
  let line := lineOf pa
  let old := pr.shadow.find? (fun y => y.pa == line)
  if old.isNone && decide (pr.shadow.length ≥ shadowMax) then none
  else some { pr with shadow := f (old.getD (Shadow.fresh line)) :: pr.shadow.filter (fun y => y.pa != line) }

/-- Bytes over an offset of a shadow line. -/
def Shadow.put (x : Shadow) (off : Nat) (bs : List Byte) : Shadow :=
  { x with
    bytes := bs.zipIdx.foldl (fun l (p : Byte × Nat) => assocSet l (off + p.2) p.1) x.bytes
    bad := x.bad.filter (fun d => !(decide (off ≤ 8 * d) && decide (8 * d + 8 ≤ off + bs.length))) }

/-- R217, R265: the mapping type of a shadow line noted. -/
def Pair.typed (p : Pair) (pa typ : Nat) : Pair :=
  { p with shadow := p.shadow.map (fun x => if x.pa == lineOf pa then { x with typ := typ } else x) }

/-- R265: bytes of one line held as a shadow. -/
def shadowPut (pr : Pair) (pa : Nat) (bs : List Byte) : Option Pair := shadowMod pr pa (fun x => x.put (pa % 128) bs)

/-- R265: an addend of an FP32 element held as a shadow: added to held bytes of the element, else kept. -/
def shadowAdd (pr : Pair) (pa : Nat) (a : W32) (rnd : Nat) (sat : Bool) : Option Pair :=
  let off := pa % 128
  shadowMod pr pa fun x =>
    match assocGet x.bytes off, assocGet x.bytes (off + 1), assocGet x.bytes (off + 2), assocGet x.bytes (off + 3) with
    | some b0, some b1, some b2, some b3 =>
      { x.put off (leBytes 4 (addOnStore (leNat [b0, b1, b2, b3]) a.toNat rnd sat)) with bad := x.bad }
    | _, _, _, _ => { x with addend := x.addend ++ [(off, a, rnd, sat)] }

/-- R234: dwords of a shadow line that bytes touch poisoned. -/
def shadowPoison (pr : Pair) (pa n : Nat) : Option Pair :=
  let off := pa % 128
  shadowMod pr pa fun x =>
    let ds := (List.range ((off + n + 7) / 8 - off / 8)).map (fun k => off / 8 + k)
    { x with bad := ds ++ x.bad.filter (fun d => !ds.contains d) }

/-! ## Synchronisation steps (R347, R369, R377) -/

/-- R347: what an atomic operation makes of an element. -/
def rmwNew (aop : Nat) (t : Ty) (old x : Nat) : Nat :=
  let m := 2 ^ tyBits t
  match aop with
  | 0 => if tyFloat t then hopF (fmtOf t) 0 old x else (old + x) % m
  | 1 => x
  | 2 => if tyFloat t then hopF (fmtOf t) 1 old x else if intV t x < intV t old then x else old
  | 3 => if tyFloat t then hopF (fmtOf t) 2 old x else if intV t old < intV t x then x else old
  | 4 => Nat.land old x
  | 5 => Nat.lor old x
  | 6 => Nat.xor old x
  | 7 => if old ≥ x then 0 else old + 1
  | _ => if old == 0 || decide (old > x) then x else old - 1

/-- R164, R377: a completion counter after an addition. -/
def counterAdd (old : Nat) (n : Nat) : Nat :=
  (old % 2 ^ 63 + n % 2 ^ 63) % 2 ^ 63 + (if old / 2 ^ 63 + n / 2 ^ 63 == 0 then 0 else 2 ^ 63)

/-- The bytes a synchronisation step covers. -/
def SyncOp.size : SyncOp → Nat
  | .write d => d.length
  | .rmw _ _ x => x.length
  | .rmw2 _ _ x _ => 2 * x.length
  | .cas c _ => c.length
  | .cnta _ => 8

/-- R347, R350, R369, R377: the bytes a step writes over the old ones; none when it writes nothing. -/
def SyncOp.apply (o : SyncOp) (old : List Byte) : Option (List Byte) :=
  match o with
  | .write d => some d
  | .rmw aop ty x => some (leBytes x.length (rmwNew aop (tyOf ty) (leNat old) (leNat x)))
  | .rmw2 aop ty x0 x1 =>
    let n := x0.length
    some (leBytes n (rmwNew aop (tyOf ty) (leNat (old.take n)) (leNat x0)) ++
      leBytes n (rmwNew aop (tyOf ty) (leNat (old.drop n)) (leNat x1)))
  | .cas c x => if old == c then some x else none
  | .cnta n => some (leBytes 8 (counterAdd (leNat old) n.toNat))

/-- R348: one lane of a line's indivisible step at its owner: the old bytes and whether it wrote, none where the word is poisoned; a
plain synchronisation store reads nothing and so meets no poison. -/
def syncLane (s : State) (pa : Nat) (o : SyncOp) (pre : Option Nat) (typ : Nat := 0) : State × Option (List Byte × Bool) :=
  let n := o.size
  let stores := match o with | .write _ => true | _ => false
  if !stores && physPoison s pa n then (s, none)
  else
    let old := ownRead s pa n
    match o.apply old with
    | some bs => (ownWrite s pa bs typ pre, some (old, true))
    | none => (s, some (old, false))

/-- R348: the lanes of a line's step, ascending. -/
def syncLanes (s : State) (pre : Option Nat) (typ : Nat := 0) : List LaneReq → State × List (Nat × Option (List Byte × Bool))
  | [] => (s, [])
  | r :: rest =>
    let (s, x) := syncLane s r.pa r.op pre typ
    let (s, l) := syncLanes s pre typ rest
    (s, (r.lane, x) :: l)

/-- R369: whether a line's step would write anything as memory stands. -/
def syncWrites (s : State) (reqs : List LaneReq) : Bool :=
  reqs.any (fun r => match r.op with | .cas c _ => ownRead s r.pa c.length == c | _ => true)

/-- R173, R200: whether a synchronisation write on a line may be performed now. -/
def syncReady (s : State) (pa : Nat) : Bool :=
  decide (leaseEnd s (lineOf pa) ≤ s.ft) &&
    (!onFabric s pa || ((fabOf s (lineOf pa)).acks == 0 && decide ((fabOf s (lineOf pa)).lend < s.ft)))

/-- R200: an LREVOKE asked for when LEND lies more than 4 µs beyond the arrival of the grant (notes/assumptions 46, DESIGN CHOICE: R196 names
no message for the request). -/
def askRevoke (s : State) (owner line : Nat) : State :=
  let f := fabOf s line
  if decide (f.lend > f.grantAt + 4000) && decide (f.lend ≥ s.ft) && !asked s line false then
    sendAsk s { line := line, recalls := false, owner := owner, sw := 0, holdVer := 0, retryAt := 0 }
  else s

/-- R173, R200: a synchronisation write held at its line's slice; the lease is revoked when it has more than 128 ns left, and an
LREVOKE is asked for when LEND lies more than 4 µs ahead. -/
def holdWrite (s : State) (h : HeldReq) : State :=
  let e := leaseEnd s h.line
  let cores := (List.range s.cores.length).filter (fun c => (l1Find s c h.line).isSome)
  let s := askRevoke s (match s.block? h.party.blk with | some b => ownerOf s b.ctx | none => s.fabric.owner) h.line
  let revoke := decide (e > s.ft + 128)
  let s := if revoke && cores.isEmpty then s.modMem (fun m => { m with leases := m.leases.filter (fun p => p.1 != h.line) }) else s
  let (k, s) := (notePage s (h.line * 128) 128 none).newId
  s.modMem (fun m => { m with held := m.held ++ [{ h with acks := if revoke then cores else [], seq := k }] })

/-- R173, R174: whether nothing that arrived at a line before a number waits there still. -/
def lineFirst (s : State) (line seq : Nat) : Bool :=
  !s.mem.held.any (fun h => h.line == line && decide (h.seq < seq)) &&
    !s.mem.writes.any (fun w => lineOf w.pa == line && decide (w.seq < seq)) &&
    !s.mem.reads.any (fun r => lineOf r.pa == line && decide (r.seq < seq))

/-- R173: the oldest held synchronisation write of a line that nothing waiting there precedes. -/
def heldFirst (s : State) (line : Nat) : Option HeldReq :=
  (s.mem.held.find? (fun h => h.line == line)).filter (fun h => lineFirst s line h.seq)

/-- R171: a plain write queued for the owner of its line; the rest of its path goes on. -/
def queueWrite (s : State) (w : QWrite) : State :=
  let (k, s) := (notePage s w.pa w.bytes.length none).newId
  s.modMem (fun m => { m with writes := m.writes ++ [{ w with seq := k }] })

/-- R90, R173: a read queued for the owner of its line. -/
def queueRead (s : State) (r : QRead) : State :=
  let (k, s) := s.newId
  s.modMem (fun m => { m with reads := m.reads ++ [{ r with seq := k }] })

/-- R190: an address of a region under a mode switch. -/
def inRegion (c : Ctx) (va : Nat) : Bool :=
  match c.region with
  | some (base, len, _) => decide (base ≤ va) && decide (va < base + len)
  | none => false

/-- R190: whether an access of a context that has issued waits for a region switch. -/
def regionBars (s : State) (ci : Nat) (va : W64) : Bool := match s.ctxs[ci]? with | some c => inRegion c va.toNat | none => false

/-- R173, R197, R207: what a queued read still waits for: the synchronisation writes held on its line when it arrived, and the right to read
the line. -/
def readReady (s : State) (ci : Nat) (r : QRead) : State × LineAns :=
  if s.mem.held.any (fun h => h.line == lineOf r.pa && decide (h.seq < r.seq)) then (s, .wait (.held (lineOf r.pa)))
  else if regionBars s ci r.va then (s, .wait (.region ci))
  else ownerReady s (causeOf s ci (.read r.seq)) r.pa r.typ .read (preCut s ci r.op)

/-- R173, R197, R207, R252: what a queued write still waits for; the requests that it needs are sent. -/
def writeReady (s : State) (ci : Nat) (w : QWrite) : State × LineAns :=
  let pre := preCut s ci w.op
  if !lineFirst s (lineOf w.pa) w.seq then (s, .wait (.held (lineOf w.pa)))
  else if regionBars s ci w.va then (s, .wait (.region ci))
  else if pageHeld s w.pa w.bytes.length pre then (notePage s w.pa w.bytes.length pre, .wait (.snatch w.pa))
  else ownerReady s (causeOf s ci (.write w.seq)) w.pa w.typ .write pre

/-! ## Operations of a party's counters (R65, R176) -/

/-- The outstanding operations of a party. -/
def partyOps (s : State) (p : Party) : List OutOp :=
  match s.block? p.blk with
  | none => []
  | some b =>
    match p.who with
    | .bell => b.bell.ops
    | .path g _ => match b.groups[g]? with | some x => x.ops | none => []

/-- The operations of a party changed. -/
def modOps (s : State) (p : Party) (f : List OutOp → List OutOp) : State :=
  match p.who with
  | .bell => s.modBell p.blk (fun b => { b with ops := f b.ops })
  | .path g _ => s.modGroup p.blk g (fun x => { x with ops := f x.ops })

/-- One operation of a party changed. -/
def modOp (s : State) (p : Party) (id : Nat) (f : OutOp → OutOp) : State :=
  modOps s p (fun l => l.map (fun o => if o.id == id then f o else o))

/-- R176: GWMAX of a party's stream raised to a completion time. -/
def raiseGw (s : State) (p : Party) (g : Nat) : State :=
  match p.who with
  | .bell => s.modBell p.blk (fun b => { b with gwmax := max b.gwmax g })
  | .path k _ => s.modGroup p.blk k (fun x => { x with gwmax := max x.gwmax g })

/-- Words written to a block's lanes of vector registers, or to an s or w register; a load without a register writes none (R457). -/
def Block.deliver (b : Block) (who : Who) (dst : Dst) (ws : List (Nat × Nat × W32)) : Block :=
  match dst with
  | .sreg r =>
    let half (k : Nat) : W32 := match ws.find? (fun w => w.1 == k) with | some w => w.2.2 | none => 0
    let x : W64 := half 1 ++ half 0
    (match who with
    | .bell => { b with bell := b.bell.setW r x }
    | .path g _ => b.modGroup g (fun y => y.setS r x))
  | .vreg _ _ =>
    (match who with
    | .bell => b
    | .path g _ => b.modGroup g (fun y => ws.foldl (fun y w => y.setV w.2.1 (laneBit w.1) (fun _ => w.2.2)) y))
  | _ => b

/-- R246: data that arrive in a register which awaited them at a cut's stop are staged. -/
def stageLate (s : State) (p : Party) (dst : Dst) (ws : List (Nat × Nat × W32)) : State :=
  let late (n : Increment) : Bool := n.late.any (fun x => x.2.1.blk == p.blk && x.2.1 == p && x.2.2 == dst)
  match s.block? p.blk with
  | none => s
  | some b =>
    if !((s.ctxs[b.ctx]?).map (fun c => c.chain.any late)).getD false then s
    else s.modCtx b.ctx (fun c => { c with chain := c.chain.map (fun n => if !late n then n else
      { n with blocks := n.blocks.map (fun x => if x.1 == p.blk then (x.1, x.2.deliver p.who dst ws) else x) }) })

/-- R235, R248: words written to the lanes of vector registers, or the two halves of an s or w register, as data arrive. -/
def deliver (s : State) (p : Party) (dst : Dst) (ws : List (Nat × Nat × W32)) : State :=
  if ws.isEmpty then s
  else
    let s := stageLate (s.modBlock p.blk (fun b => b.deliver p.who dst ws)) p dst ws
    match dst, p.who with
    | .sreg r, .bell => s.clearPoison (fun l => l == .wreg p.blk r)
    | .sreg r, .path g _ => s.clearPoison (fun l => l == .sreg p.blk g r)
    | .none, _ | .pred _, _ | .vreg _ _, .bell => s
    | .vreg _ _, .path g _ => s.clearPoison (fun l => match l with
      | .vlane b k r ln => b == p.blk && k == g &&
          inMask (wholeWords (maskOf (fun x => ws.any (fun w => w.2.1 == r && w.1 == x)))) ln
      | _ => false)

/-- R171: the L1 copies of lines that a core has written brought up to date when the writes complete. -/
def l1Refresh (s : State) (core : Nat) (lines : List Nat) : State :=
  lines.foldl (fun s line => s.modCore core (fun c => { c with
    l1 := c.l1.map (fun x => if x.line == line then { x with bytes := ownRead s (line * 128) 128 } else x) })) s

/-- R176, R482: whether accesses of an operation are still on their way: data in flight, accesses queued or held at their lines, or
AtomicOps. -/
def opFlying (s : State) (o : OutOp) : Bool :=
  !o.pending.isEmpty || s.mem.reads.any (fun r => r.op == o.id) || s.mem.writes.any (fun w => w.op == o.id) ||
    s.mem.held.any (fun h => h.op == o.id && !h.lanes.isEmpty) || s.mem.atomics.any (fun a => a.op == o.id)

/-- R65: the counters fall for every operation at the head of its class that has completed. -/
def retireOps (ops : List OutOp) : List OutOp :=
  let headDone (c : Cls) (l : List OutOp) : List OutOp :=
    (l.foldl (fun (st : Bool × List OutOp) o =>
      if o.cls == c && st.1 then (if o.done then st else (false, st.2 ++ [o])) else (st.1, st.2 ++ [o])) (true, [])).2
  headDone .cc (headDone .ac (headDone .sc (headDone .lc ops)))

/-- R244: an operation of a staged block completed in closure: its time enters the staged GWMAX, and it is counted no more. -/
def Block.closeOp (b : Block) (who : Who) (o : OutOp) : Block :=
  let of (l : List OutOp) (g : Nat) : List OutOp × Nat :=
    if l.any (fun x => x.id == o.id) then (l.filter (fun x => x.id != o.id), max g o.g) else (l, g)
  match who with
  | .bell => { b with bell := { b.bell with ops := (of b.bell.ops b.bell.gwmax).1, gwmax := (of b.bell.ops b.bell.gwmax).2 } }
  | .path k _ => b.modGroup k (fun x => { x with ops := (of x.ops x.gwmax).1, gwmax := (of x.ops x.gwmax).2 })

/-- R244, R246: what an operation's completion changes of an increment: it awaits no register, and until closure the staged blocks count it. -/
def Increment.closeOp (n : Increment) (p : Party) (o : OutOp) : Increment :=
  { n with
    late := n.late.map (fun x => if x.1 == o.id then (x.1, x.2.1, .none) else x)
    blocks := if n.closed then n.blocks else n.blocks.map (fun x => if x.1 == p.blk then (x.1, x.2.closeOp p.who o) else x) }

/-- R65, R176: an operation completed: its time enters GWMAX, and the counter falls in completion order. -/
def completeOp (s : State) (p : Party) (id : Nat) : State :=
  match (partyOps s p).find? (fun o => o.id == id) with
  | none => s
  | some o =>
    let s := if o.g == 0 then s else raiseGw s p o.g
    let core := match s.block? p.blk with | some b => b.core | none => 0
    let s := l1Refresh s core o.lines
    let s := s.modCtx (match s.block? p.blk with | some b => b.ctx | none => 0) (fun c => { c with chain := c.chain.map (fun n => n.closeOp p o) })
    modOps s p (fun l => retireOps (l.map (fun x => if x.id == id then { x with done := true, pending := [], miss := [], dst := .none } else x)))

/-! ## Queued writes of an operation (R171, R173) -/

/-- The context of a party. -/
def partyCtx (s : State) (p : Party) : Nat := match s.block? p.blk with | some b => b.ctx | none => 0

/-- R298: the bus address of an address of the host window. -/
def busOf (pa : Nat) : Nat := paLocal pa - hostBase

/-- R298: the function that owns a context. -/
def ctxFn (s : State) (ci : Nat) : Nat := ((s.ctxs[ci]?).map Ctx.fn).getD 0

/-- R186, R298: a write sent to the host through the function that owns a context, untranslated. -/
def sendHost (s : State) (ci pa : Nat) (bs : List Byte) (relaxed : Bool) : State := s.send (.hostWrite (ctxFn s ci) (busOf pa) bs relaxed)

/-- R186, R187: a posted store handed to the host link: what the device holds of its line goes back first; its time and its line are noted in
its operation. -/
def handOver (s : State) (x : Posted) : State :=
  let s := dropSectors (s.modMem (fun m => { m with posted := m.posted.erase x })) (lineOf x.pa)
  modOp (sendHost (hostPut s x.pa x.bytes) (partyCtx s x.party) x.pa x.bytes x.relaxed) x.party x.op
    (fun o => { o with g := max o.g s.ft, lines := lineOf x.pa :: o.lines })

/-- R174, R186: the posted stores of a party to a line handed over, before a later write of the line is performed. -/
def handLine (s : State) (p : Party) (line : Nat) : State :=
  if s.mem.posted.isEmpty then s else (s.mem.posted.filter (fun x => x.party == p && lineOf x.pa == line)).foldl handOver s

/-- R171, R186: a write applied at its owner, its completion time and its line noted in its operation; one of a posted store is on its way. -/
def applyWrite (s : State) (w : QWrite) : State :=
  match w.post with
  | some k => s.modMem (fun m => { m with
      posted := m.posted ++ [{ party := w.party, op := w.op, pa := w.pa, bytes := w.bytes, wc := k.1, relaxed := k.2 }] })
  | none =>
    let s := handLine s w.party (lineOf w.pa)
    let g := gFull s w.pa
    modOp (ownWrite s w.pa w.bytes w.typ (preCut s (partyCtx s w.party) w.op)) w.party w.op
      (fun o => { o with g := max o.g g, lines := lineOf w.pa :: o.lines })

/-- R171, R306: the queued writes of an operation, in their order, as far as they may be performed; what is left in the queue is kept,
and those whose request ended in an error are returned with its code. -/
def performWrites (s : State) (id : Nat) : State × List (QWrite × Nat) :=
  (s.mem.writes.filter (fun w => w.op == id)).foldl (fun (r : State × List (QWrite × Nat)) w =>
    match writeReady r.1 (partyCtx r.1 w.party) w with
    | (s, .wait _) => (s, r.2)
    | (s, .err c) => (s.modMem (fun m => { m with writes := m.writes.erase w }), r.2 ++ [(w, c)])
    | (s, .go) => (applyWrite (s.modMem (fun m => { m with writes := m.writes.erase w })) w, r.2)) (s, [])

/-- R174, R186: the posted stores of an operation handed to the host link, behind older ones of its party to the same lines. -/
def sendPosted (s : State) (id : Nat) : State :=
  let mine := s.mem.posted.filter (fun x => x.op == id)
  let first (y : Posted) : Bool := mine.any (fun x => x.party == y.party && lineOf x.pa == lineOf y.pa && decide (y.op < id))
  (s.mem.posted.filter (fun y => y.op == id || first y)).foldl handOver s

/-- R199: the GWCT that the grants of an operation's lines give it. -/
def grantG (s : State) (o : OutOp) : Nat :=
  o.lines.foldl (fun g l => max g (fabOf s l).gRemote) o.g

/-- R176, R186: an operation all of whose accesses have been made ended: its posted stores are handed over, and it completes. -/
def endOp (s : State) (p : Party) (id : Nat) : State :=
  let s := sendPosted s id
  completeOp (modOp s p id (fun o => { o with g := grantG s o, dst := .none })) p id

/-- Whether an access that goes on waiting has made a request for its line, or now awaits the one in flight. -/
def asksMore (s t : State) (pa : Nat) : Bool :=
  t.outbox.length != s.outbox.length || (fabOf t (lineOf pa)).req != (fabOf s (lineOf pa)).req ||
    (fabOf t (lineOf pa)).waiters.length != (fabOf s (lineOf pa)).waiters.length

/-- R90: whether a queued read can be performed now, or needs a request that is not under way. -/
def readMay (s : State) (r : QRead) : Bool :=
  match readReady s (partyCtx s r.party) r with
  | (t, .wait _) => asksMore s t r.pa
  | _ => true

/-- R171: whether a queued write can be performed now, or needs a request that is not under way. -/
def writeMay (s : State) (w : QWrite) : Bool :=
  match writeReady s (partyCtx s w.party) w with
  | (t, .wait _) => asksMore s t w.pa
  | _ => true

/-- R55, R199: lines of global memory that a block's engine, copies or locks have written noted. -/
def noteLines (s : State) (blk : Nat) (pas : List Nat) : State :=
  pas.foldl (fun s pa => s.modBlock blk (fun b => { b with
    gOut := max b.gOut (gFull s pa)
    outLines := if onFabric s pa && !b.outLines.contains (lineOf pa) then lineOf pa :: b.outLines else b.outLines })) s

/-- R199: whether the shares of the lines that some writes went to, where they lie on the fabric, have all ended. -/
def linesPassed (s : State) (lines : List Nat) : Bool :=
  lines.all (fun l => (fabOf s l).acks == 0 && ((fabOf s l).gRemote == 0 || decide ((fabOf s l).gRemote < s.ft)))

/-! ## Miss-status entries (R92) -/

/-- R92: the miss-status entries of a core. -/
def missMax : Nat := 1024

/-- R92: whether a party is a stream of a core whose accesses take miss-status entries when they have to wait: of a group. -/
def missParty (s : State) (core : Nat) (p : Party) : Bool :=
  p.who != .bell && (match s.block? p.blk with | some b => b.core == core | none => false)

/-- R92: the entries of a core in use: one for each line whose data an operation of its blocks awaits, for each store, held
synchronisation access and AtomicOp of its groups that has still to be performed, for each line that reads of one operation await at its
owner, and for each line on its way to its engines. -/
def missUsed (s : State) (core : Nat) : Nat :=
  ((s.blocks.filter (fun b => b.core == core)).map (fun b =>
    ((b.bell.ops ++ (b.groups.map Group.ops).flatten).map (fun o => o.miss.length)).foldl (· + ·) 0)).foldl (· + ·) 0 +
    (s.mem.writes.filter (fun w => missParty s core w.party)).length +
    (s.mem.held.filter (fun h => !h.lanes.isEmpty && missParty s core h.party)).length +
    (s.mem.atomics.filter (fun a => missParty s core a.party)).length +
    ((s.mem.reads.filter (fun r => match s.block? r.party.blk with | some b => b.core == core | none => false)).map
      (fun r => (r.op, lineOf r.pa))).eraseDups.length +
    (match s.cores[core]? with | some c => (c.fills.filter (fun f => decide (s.ft ≤ f.since))).length | none => 0)

/-- R92: whether a waiting request still stands: its stream stalls for it, or its engine operation is there. -/
def MissReq.live (s : State) (r : MissReq) : Bool :=
  match r.who with
  | .party p => (match s.ctl? p with | some c => !c.ended && (c.keep || s.cur == some p) | none => false)
  | .mop b id => (match s.block? b with | some x => x.stat == .resident && x.mops.any (fun o => o.id == id) | none => false)
  | .copy b idx => (match s.block? b with | some x => x.stat == .resident && x.copies.any (fun c => c.idx == idx && !c.done) | none => false)

/-- R92: whether a request claims a freed entry before another: engine requests rejected 16 times, oldest first; group requests in
ascending slot; other engine requests, oldest first. -/
def MissReq.before (a b : MissReq) : Bool :=
  let rank (r : MissReq) : Nat × Nat :=
    if r.engine then (if r.rejected == 16 then (0, r.since) else (2, r.since)) else (1, r.slot)
  let x := rank a
  let y := rank b
  decide (x.1 < y.1) || (x.1 == y.1 && (decide (x.2 < y.2) || (x.2 == y.2 && decide (a.since < b.since))))

/-- The requests of a core that wait for an entry. -/
def missQueue (s : State) (core : Nat) : List MissReq := match s.cores[core]? with | some c => c.missQ | none => []

/-- R92: whether an entry is free for a request beyond those that waiting requests claim first. -/
def missMay (s : State) (core : Nat) (r : MissReq) : Bool :=
  decide (missUsed s core + ((missQueue s core).filter (fun q => q.who != r.who && q.live s && q.before r)).length < missMax)

/-- R92: a request for an entry: whether it is granted; one that is not waits among the others, an engine request with one rejection
more. -/
def missClaim (s : State) (core : Nat) (who : MissWho) (engine : Bool) (slot : Nat) : State × Bool :=
  let r : MissReq := ((missQueue s core).find? (fun q => q.who == who)).getD
    { who := who, engine := engine, since := s.ft, slot := slot, rejected := 0 }
  let rest (c : Core) : List MissReq := c.missQ.filter (fun q => q.who != who)
  if missMay s core r then (s.modCore core (fun c => { c with missQ := rest c }), true)
  else
    let r' := { r with engine := engine, rejected := if engine then min 16 (r.rejected + 1) else 0 }
    (s.modCore core (fun c => { c with missQ := rest c ++ [r'] }), false)

/-- R92: the request of a stream. -/
def missAsk (s : State) (v : View) (engine : Bool) : State × Bool :=
  missClaim s v.b.core (.party v.p) (engine || v.isBell) (v.gi % 8)

/-- R92: whether the data of a line that a unit of a requester's work has asked for have come. -/
def filled (s : State) (core : Nat) (who : MissWho) (line unit : Nat) : Bool :=
  match s.cores[core]? with
  | some c => c.fills.any (fun f => f.who == who && f.line == line && f.unit == unit && decide (f.since < s.ft))
  | none => false

/-- R92: a line asked for on behalf of an engine, under the entry that the request has claimed; what earlier units of its requester's work
have asked for is done with. -/
def fillAsk (s : State) (core : Nat) (who : MissWho) (line unit : Nat) : State :=
  s.modCore core (fun c => { c with
    fills := { who := who, line := line, since := s.ft, unit := unit } ::
      c.fills.filter (fun f => f.who != who || decide (s.ft ≤ f.since) || (f.unit == unit && f.line != line)) })

/-- R92: the lines of a requester whose data have come taken. -/
def fillTake (s : State) (core : Nat) (who : MissWho) : State :=
  s.modCore core (fun c => { c with fills := c.fills.filter (fun f => f.who != who || decide (s.ft ≤ f.since)) })

/-- R92: whether a stream that stalls for an entry may claim one. -/
def missReady (s : State) (v : View) : Bool :=
  match (missQueue s v.b.core).find? (fun q => q.who == .party v.p) with
  | some r => missMay s v.b.core r
  | none => true

/-! ## Host drains (R186) -/

/-- R186: whether the zero-length read of a party's host drain has completed (notes/assumptions 84). -/
def drainDone (s : State) (p : Party) : Bool := s.mem.drains.any (fun d => d.party == p && decide (d.issued < s.ft))

/-- R186: a host drain of a party begun: the zero-length read to its function's flush address. -/
def drainBegin (s : State) (p : Party) : State :=
  if s.mem.drains.any (fun d => d.party == p) then s
  else
    match s.ctxs[partyCtx s p]? with
    | some c =>
      (s.send (.flushRead c.fn (((s.fns[c.fn]?).map Fn.flushaddr).getD 0))).modMem (fun m => { m with
        drains := m.drains ++ [{ party := p, issued := s.ft }] })
    | none => s

/-- R186: a host drain of a party taken note of. -/
def drainTake (s : State) (p : Party) : State := s.modMem (fun m => { m with drains := m.drains.filter (fun d => d.party != p) })

/-- R306: a fault of an access that has issued, kept until an instruction takes it. -/
def addDeferred (s : State) (p : Party) (d : Deferred) : State :=
  match p.who with
  | .bell => s.modBell p.blk (fun b => { b with deferred := b.deferred ++ [d] })
  | .path g _ => s.modGroup p.blk g (fun x => { x with deferred := x.deferred ++ [d] })

end Sys2Proof.Machine
end

