-- ==== Sys2Proof/Machine/Xlate.lean ====
section
/-! DEFINITION. Two-stage translation, translation caches and page requests (10_faults R215 to R223, R481). -/

namespace Sys2Proof.Machine

open Sys2Proof

/-! ## Walks -/

/-- R216: the kinds of access a translation serves. -/
inductive Acc where
  | read | write | fetch
  deriving DecidableEq, Repr

/-- Why a walk gives no translation: a fault with its stage, the need of a page request (R221), or a line that the walker must wait for. -/
inductive XStop where
  | fault (code : Nat) (stage2 : Bool)
  | need (stage2 : Bool) (page : Nat) (write absent : Bool)
  | hold (w : Wait)
  deriving DecidableEq, Repr

/-- R216: OA, bits 55:12, as an address. -/
def entOA (e : Nat) : Nat := e / 2 ^ 12 % 2 ^ 44 * 2 ^ 12

/-- R216: a present entry that breaks a stated condition at a level. -/
def entBad (level e : Nat) : Bool :=
  let t := e.testBit 1
  e / 2 ^ 56 % 8 != 0 || e.testBit 7 || e / 256 % 4 == 3 || (e.testBit 11 && (level != 0 || t)) ||
    (decide (level ≥ 3) && !t) || (level == 0 && t) ||
    (!t && entOA e % 2 ^ (12 + 9 * level) != 0)

/-! ## The walk cache (R219) -/

/-- R219: the entries of a die's walk cache. -/
def walkMax : Nat := 1024

/-- R219: what a die's walk cache holds. -/
def walkFind (s : State) (k : Walker) (kind level tag : Nat) : Option Nat :=
  (s.mem.walks.find? (fun e => e.die == k.die && e.fn == k.fn && e.pasid == k.pasid && e.kind == kind && e.level == level && e.tag == tag)).map
    WalkEnt.val

/-- Of a list with the newest first, as many entries of one kind as there is room for (notes/assumptions 35). -/
def keepNewest {α : Type} (f : α → Bool) : Nat → List α → List α
  | _, [] => []
  | n, x :: rest => if f x then (match n with | 0 => keepNewest f 0 rest | n + 1 => x :: keepNewest f n rest) else x :: keepNewest f n rest

/-- R219: an entry kept in a die's walk cache. -/
def walkKeep (s : State) (k : Walker) (kind level tag val : Nat) : State :=
  let e : WalkEnt := { die := k.die, fn := k.fn, pasid := k.pasid, kind := kind, level := level, tag := tag, val := val }
  s.modMem (fun m => { m with walks := keepNewest (fun x => x.die == k.die) walkMax (e :: m.walks) })

/-! ## Entries at their home slices (R219) -/

/-- R219: `n` bytes of a table read through L2 at pkg scope. -/
def tableRead (s : State) (k : Walker) (pa n : Nat) (st2 : Bool) : Except (State × XStop) (State × List Byte) :=
  if nowhere s pa then .error (s, .fault fXLATE st2)
  else
    match lineFor s (fnCause s k.fn) none pa n 0 .read with
    | (s, .wait w) => .error (s, .hold w)
    | (s, .err c) => .error (s, .fault c st2)
    | (s, .go) => if physPoison s pa n then .error (s, .fault fPOISON st2) else .ok (s, ownRead s pa n)

/-- R219, R252: a bit set in an entry by an indivisible update at its home slice, unless it is set. -/
def entSet (s : State) (k : Walker) (pa e bit : Nat) (st2 : Bool) : Except (State × XStop) (State × Nat) :=
  if e.testBit bit then .ok (s, e)
  else
    match lineFor s (fnCause s k.fn) none pa 8 0 .write with
    | (s, .wait w) => .error (s, .hold w)
    | (s, .err c) => .error (s, .fault c st2)
    | (s, .go) => .ok (ownWrite s pa (leBytes 8 (e + 2 ^ bit)) 0 none, e + 2 ^ bit)

/-- R218: whether the 16 entries of a line map one 64 KiB page: all with V and CH, bits 11:2 identical, and OA contiguous from a 64 KiB
boundary. -/
def contiguous (bs : List Byte) : Bool :=
  let e (k : Nat) : Nat := leNat ((bs.drop (8 * k)).take 8)
  (List.range 16).all (fun k => (e k).testBit 0 && (e k).testBit 11 && e k / 4 % 1024 == e 0 / 4 % 1024 && entOA (e k) == entOA (e 0) + 4096 * k) &&
    entOA (e 0) % 65536 == 0

/-- R218: the size of the page, as a power of 2, that a leaf at a level maps for the caches: 64 KiB where its line of hinted entries
maps one, read with it. A poisoned entry beside it keeps the walk to the single entry, so that its own page gives POISON. -/
def leafShift (s : State) (pa e level : Nat) : Nat :=
  if level != 0 then 12 + 9 * level
  else if !e.testBit 11 then 12
  else if contiguous (ownRead s (pa / 128 * 128) 128) && !physPoison s (pa / 128 * 128) 128 then 16 else 12

/-- R216, R219: the walk of one stage from the table at `table`, `lv` being one more than the level to read; `tr` gives the
physical address of a table entry. The answer is the leaf, its level and its entry's physical address. Non-leaf entries come from the
walk cache where it has them. -/
def walkStage (k : Walker) (st2 wr : Bool) (tr : State → Nat → Except (State × XStop) (State × Nat)) (addr : Nat) :
    Nat → State → Nat → Except (State × XStop) (State × Nat × Nat × Nat)
  | 0, s, _ => .error (s, .fault fXLATE st2)
  | lv + 1, s, table =>
    let kind := if st2 then 1 else 0
    let tag := addr / 2 ^ (12 + 9 * lv)
    match walkFind s k kind lv tag with
    | some e => walkStage k st2 wr tr addr lv s (entOA e)
    | none =>
      match tr s (table + 8 * (tag % 512)) with
      | .error x => .error x
      | .ok (s, pa) =>
        match tableRead s k pa 8 st2 with
        | .error x => .error x
        | .ok (s, bs) =>
          let e := leNat bs
          if !e.testBit 0 then .error (s, .need st2 (addr / 4096 * 4096) wr true)
          else if entBad lv e then .error (s, .fault fXLATE st2)
          else
            match entSet s k pa e 5 st2 with
            | .error x => .error x
            | .ok (s, e) =>
              if e.testBit 1 then walkStage k st2 wr tr addr lv (walkKeep s k kind lv tag e) (entOA e) else .ok (s, e, lv, pa)

/-- R217: a translation: the physical address, what the leaves allow, whether both have D, and the size of the page for the caches. -/
structure Leaf where
  pa : Nat
  r : Bool
  w : Bool
  x : Bool
  sys : Bool
  typ : Nat
  d : Bool
  shift : Nat
  deriving DecidableEq, Repr

/-- R215: the physical address an address has under a leaf of a level. -/
def leafPa (e level addr : Nat) : Nat := entOA e + addr % 2 ^ (12 + 9 * level)

/-- R216, R217: the type of a mapping: the higher of the two codes. TYPE 2 names a mapping of the host; package memory under it counts as
coherent (notes/assumptions 102). -/
def leafTyp (s : State) (pa e1 e2 : Nat) : Nat :=
  let t := max (e1 / 256 % 4) (e2 / 256 % 4)
  if t == 2 && region s pa != .host then 0 else t

/-- R217, R219: the stage-2 translation of a table address of stage 1 (the identity without a stage-2 root). -/
def xlTable (k : Walker) (s2root : Nat) (s : State) (ia : Nat) : Except (State × XStop) (State × Nat) :=
  if s2root == 0 then .ok (s, ia)
  else
    let a := ia % 2 ^ 56
    match walkFind s k 2 0 (a / 4096) with
    | some p => .ok (s, p + a % 4096)
    | none =>
      match walkStage k true false (fun s a => .ok (s, a)) a 5 s s2root with
      | .error x => .error x
      | .ok (s, e, lv, _) =>
        if !e.testBit 2 then .error (s, .need true (ia / 4096 * 4096) false false)
        else .ok (walkKeep s k 2 0 (a / 4096) (leafPa e lv a - a % 4096), leafPa e lv a)

/-- R215: a canonical virtual address. -/
def canonical (va : W64) : Bool := va.toNat / 2 ^ 56 == 0 || va.toNat / 2 ^ 56 == 0xFF + 0x100

/-- R215 to R221: the walk of a virtual address of a context for an access. `prog`: a program's access, which a system page
refuses. -/
def walkVa (s : State) (k : Walker) (s1root : Nat) (va : W64) (acc : Acc) (prog : Bool) : Except (State × XStop) (State × Leaf) :=
  let s2root := ((s.fns[k.fn]?).map Fn.s2root).getD 0
  let a := va.toNat % 2 ^ 57
  let wr := acc == .write
  match walkStage k false wr (xlTable k s2root) a 5 s s1root with
  | .error x => .error x
  | .ok (s, e1, l1, p1) =>
    if prog && e1.testBit 10 then .error (s, .fault fPRIV false)
    else
      let ia := leafPa e1 l1 a
      let second : Except (State × XStop) (State × Nat × Nat × Option Nat) :=
        if s2root == 0 then .ok (s, 0x5E, 4, none)
        else
          match walkStage k true wr (fun s a => .ok (s, a)) (ia % 2 ^ 56) 5 s s2root with
          | .error x => .error x
          | .ok (s, e2, l2, p2) => .ok (s, e2, l2, some p2)
      match second with
      | .error x => .error x
      | .ok (s, e2, l2, p2) =>
        let pa := match p2 with | some _ => leafPa e2 l2 (ia % 2 ^ 56) | none => ia
        let leaf : Leaf :=
          { pa := pa, r := e1.testBit 2 && e2.testBit 2, w := e1.testBit 3 && e2.testBit 3, x := e1.testBit 4 && e2.testBit 4,
            sys := e1.testBit 10 || e2.testBit 10, typ := leafTyp s pa e1 e2, d := e1.testBit 6 && e2.testBit 6, shift := 12 }
        if prog && leaf.sys then .error (s, .fault fPRIV true)
        else if acc == .fetch && !leaf.x then .error (s, .fault fXLATE (e1.testBit 4))
        else if acc == .read && !leaf.r then
          .error (s, .need (e1.testBit 2) ((if e1.testBit 2 then ia else a) / 4096 * 4096) false false)
        else if wr && !leaf.w then
          .error (s, .need (e1.testBit 3) ((if e1.testBit 3 then ia else a) / 4096 * 4096) true false)
        else if nowhere s pa then .error (s, .fault fXLATE (p2.isSome))
        else
          let size (s : State) : Nat := match p2 with
            | some q => min (leafShift s p1 e1 l1) (leafShift s q e2 l2)
            | none => leafShift s p1 e1 l1
          if !wr then .ok (s, { leaf with shift := size s })
          else
            match entSet s k p1 e1 6 false with
            | .error x => .error x
            | .ok (s, _) =>
              match p2 with
              | none => .ok (s, { leaf with d := true, shift := size s })
              | some q =>
                match entSet s k q e2 6 true with
                | .error x => .error x
                | .ok (s, _) => .ok (s, { leaf with d := true, shift := size s })

/-! ## Translation caches (R219, R220) -/

/-- R219: the unit whose access is translated: a core's instruction fetch, group data or engines, or the front end by the L2 TLB of a
die alone. -/
inductive XUnit where
  | instr (core : Nat)
  | data (core : Nat)
  | engine (core : Nat)
  | front
  deriving DecidableEq, Repr

/-- R13, R219: the die of a unit; the front end uses die 0 (notes/assumptions 35). -/
def XUnit.die : XUnit → Nat
  | .instr c | .data c | .engine c => c / 32
  | .front => 0

/-- R219: the L1 TLB of a unit. -/
def XUnit.first : XUnit → Option TlbPlace
  | .instr c => some (.instr c)
  | .data c => some (.data c)
  | .engine c => some (.engine c)
  | .front => none

/-- R219: the entries of a TLB, or, of the 8-way L2 TLB, those of a set. -/
def TlbPlace.size : TlbPlace → Nat
  | .instr _ => 64
  | .data _ => 256
  | .engine _ => 128
  | .die _ => 8

/-- R219: whether two entries of a place compete for its room: all of an L1 TLB, those of one of 2,048 sets of an L2 TLB (log 35). -/
def Tlb.rivals (t u : Tlb) : Bool :=
  t.place == u.place && (match t.place with | .die _ => t.vpage % 2048 == u.vpage % 2048 | _ => true)

/-- Whether an entry translates an address. -/
def Tlb.maps (t : Tlb) (fn pasid va : Nat) : Bool := t.fn == fn && t.pasid == pasid && t.vpage == va / 2 ^ t.shift

/-- R219: a place's cached translation that serves an access. -/
def tlbFind (s : State) (place : TlbPlace) (fn pasid : Nat) (va : Nat) (acc : Acc) (prog : Bool) : Option Leaf :=
  match s.mem.tlb.find? (fun t => t.place == place && t.maps fn pasid va) with
  | none => none
  | some t =>
    let ok := match acc with | .read => t.r | .write => t.w && t.d | .fetch => t.x
    if ok && !(prog && t.sys) then
      some { pa := t.pa + va % 2 ^ t.shift, r := t.r, w := t.w, x := t.x, sys := t.sys, typ := t.typ, d := t.d, shift := t.shift }
    else none

/-- R219: a translation kept in a place, function and PASID beside it; the place loses its oldest when it is full. -/
def tlbAdd (s : State) (place : TlbPlace) (fn pasid : Nat) (va : Nat) (l : Leaf) : State :=
  let t : Tlb := { place := place, fn := fn, pasid := pasid, vpage := va / 2 ^ l.shift, shift := l.shift, pa := l.pa - va % 2 ^ l.shift,
                   r := l.r, w := l.w, x := l.x, sys := l.sys, typ := l.typ, d := l.d }
  s.modMem (fun m => { m with
    tlb := keepNewest t.rivals place.size (t :: m.tlb.filter (fun u => !(u.place == place && u.maps fn pasid va))) })

/-- R220: cached translations of a function, PASID and range dropped, and the walk caches' entries of function and PASID with them. -/
def tlbDrop (s : State) (fn pasid base len : Nat) (all : Bool) : State :=
  s.modMem fun m => { m with
    tlb := m.tlb.filter (fun t => !(all || (t.fn == fn && t.pasid == pasid &&
      decide (t.vpage * 2 ^ t.shift < base + len) && decide (base < (t.vpage + 1) * 2 ^ t.shift))))
    walks := m.walks.filter (fun e => !(all || (e.fn == fn && e.pasid == pasid))) }

/-- R219: a translation from a unit's L1 TLB, or from the L2 TLB of its die, which then fills the first. -/
def tlbServe (s : State) (u : XUnit) (fn pasid va : Nat) (acc : Acc) (prog : Bool) : Option (State × Leaf) :=
  match u.first.bind (fun p => tlbFind s p fn pasid va acc prog) with
  | some l => some (s, l)
  | none =>
    match tlbFind s (.die u.die) fn pasid va acc prog with
    | some l => some (match u.first with | some p => tlbAdd s p fn pasid va l | none => s, l)
    | none => none

/-- R22: the nested walkers of a die. -/
def walkerMax : Nat := 16

/-- R22: whether a walker still waits for what stopped it. -/
def Walking.waits (s : State) (q : Walking) : Bool :=
  match q.wait with
  | .held line => heldOn s line || queuedOn s line || decide (s.ft < leaseEnd s line)
  | .remote line => (fabOf s line).req != 0
  | .snatch pa => pageHeld s pa 1 none
  | _ => false

/-- R22: the walkers in use for other walks than that of a page for `k`. -/
def otherWalks (s : State) (k : Walker) (page : Nat) : List Walking :=
  s.mem.walking.filter (fun q => q.waits s && !(q.key == k && q.page == page))

/-- R22, R219: a walk by one of the die's nested walkers, which keeps it while it waits for a line. With all in use elsewhere the walk
waits for the walker that has waited longest (notes/assumptions 112). -/
def walkBy (s : State) (k : Walker) (s1root : Nat) (va : W64) (acc : Acc) (prog : Bool) : Except (State × XStop) (State × Leaf) :=
  let page := va.toNat % 2 ^ 57 / 4096
  let others := otherWalks s k page
  let mine := others.filter (fun q => q.key.die == k.die)
  match if decide (walkerMax ≤ mine.length) then mine.head? else none with
  | some q => .error (s, .hold q.wait)
  | none =>
    let s := s.modMem (fun m => { m with walking := others })
    match walkVa s k s1root va acc prog with
    | .error (s, .hold w) =>
      .error (s.modMem (fun m => { m with walking := m.walking ++ [{ key := k, page := page, wait := w }] }), .hold w)
    | r => r

/-- R215 to R221: the translation of one address for an access of a context, from a cache or by a walk. -/
def xlate (s : State) (u : XUnit) (c : Ctx) (va : W64) (acc : Acc) (prog : Bool) : Except (State × XStop) (State × Leaf) :=
  if !canonical va then .error (s, .fault fXLATE false)
  else
    let a := va.toNat % 2 ^ 57
    match tlbServe s u c.fn c.pasid a acc prog with
    | some r => .ok r
    | none =>
      match walkBy s { fn := c.fn, pasid := c.pasid, die := u.die } c.desc.s1root va acc prog with
      | .error x => .error x
      | .ok (s, l) =>
        let s := tlbAdd s (.die u.die) c.fn c.pasid a l
        .ok (match u.first with | some p => tlbAdd s p c.fn c.pasid a l | none => s, l)

/-! ## Page requests (R221, R222, R481) -/

/-- R481: the group index next used by a function: the lowest free one from the last, modulo 512. -/
def prIndex (s : State) (fn : Nat) : Option Nat :=
  let start := ((s.fns[fn]?).map Fn.prNext).getD 0
  let used := (s.mem.pageReqs.filter (fun r => r.fn == fn)).filterMap PageReq.idx
  ((List.range 512).map (fun k => (start + k) % 512)).find? (fun i => !used.contains i)

/-- R221: whether a function may send one more request. -/
def prRoom (s : State) (fn : Nat) : Bool :=
  match s.fns[fn]? with
  | none => false
  | some f => f.priOn && decide ((s.mem.pageReqs.filter (fun r => r.fn == fn && r.idx.isSome)).length < f.priAlloc)

/-- R221: a function's queued requests sent, oldest first, while its allocation allows. -/
def prPump (s : State) (fn : Nat) : Nat → State
  | 0 => s
  | fuel + 1 =>
    if !prRoom s fn then s
    else
      match (s.mem.pageReqs.filter (fun r => r.fn == fn && r.idx.isNone)).head?, prIndex s fn with
      | some r, some i =>
        let s := s.modMem (fun m => { m with pageReqs := m.pageReqs.map (fun q => if q.id == r.id then { q with idx := some i } else q) })
        let s := s.modFn fn (fun f => { f with prNext := (i + 1) % 512 })
        prPump (s.send (.pageReq fn i r.pasid r.page r.write r.stage2)) fn fuel
      | _, _ => s

/-- R221: the request that serves a need: one already open that covers it, or a new one, sent or queued. None when the
function may send none (R222, Response Failure). -/
def pageRequest (s : State) (fn pasid : Nat) (stage2 : Bool) (page : Nat) (write : Bool) : State × Option Nat :=
  match s.mem.pageReqs.find? (fun r => r.fn == fn && r.pasid == pasid && r.stage2 == stage2 && r.page == page && (r.write || !write)) with
  | some r => (s, some r.id)
  | none =>
    if !(((s.fns[fn]?).map Fn.priOn).getD false) then (s, none)
    else
      let (id, s) := s.newId
      let r : PageReq := { id := id, fn := fn, pasid := pasid, stage2 := stage2, page := page, write := write, idx := none, opened := s.ft }
      let s := s.modMem (fun m => { m with pageReqs := m.pageReqs ++ [r] })
      (prPump s fn 1, some id)

/-- R222: what an answered request makes of a need that a walk still meets; none when no answer covers it. -/
def needCode (outs : List PageOutcome) (stage2 : Bool) (page : Nat) (write absent : Bool) : Option Nat :=
  match outs.find? (fun o => o.page == page && o.stage2 == stage2 && (o.write || !write)) with
  | none => none
  | some o =>
    match o.res with
    | .success => some (if absent then fXLATE else fPERM)
    | .invalid => some (if write then fPERM else fXLATE)
    | .failure => some fXLATE

end Sys2Proof.Machine
end

