-- ==== Sys2Proof/Machine/Device.lean ====
section
/-! DEFINITION. The device's own accesses: reads and writes of a context's memory and of a function's structures (R219, R221, R252), the
event ring (R274, R283) and the context error log (R231). -/

namespace Sys2Proof.Machine

open Sys2Proof

/-- The context of a block. -/
def ctxOf (s : State) (b : Block) : Option Ctx := s.ctxs[b.ctx]?

/-- A range of addresses cut at 128-byte lines; `fuel` is at least the number of pieces. -/
def pieces (a n : Nat) : Nat → List (Nat × Nat)
  | 0 => []
  | fuel + 1 =>
    if n == 0 then []
    else
      let k := min n (128 - a % 128)
      (a, k) :: pieces (a + k) (n - k) fuel

/-- The lines of a range. -/
def linePieces (a n : Nat) : List (Nat × Nat) := pieces a n (n / 128 + 2)

/-- R309: an address that only a copy may reach, or none may: the scale-out aperture and the device registers. -/
def offLimits (s : State) (pa : Nat) : Bool := region s pa == .aperture || region s pa == .devregs

/-! ## Reads -/

/-- Bytes of a physical line as the device itself reads them through L2 at pkg scope. -/
def devLine (s : State) (c : Cause) (pa n typ : Nat) : State × Except XStop (List Byte) :=
  if offLimits s pa then (s, .error (.fault fPERM false))
  else
    match lineFor s c none pa n typ .read with
    | (s, .wait w) => (s, .error (.hold w))
    | (s, .err c) => (s, .error (.fault c false))
    | (s, .go) => if physPoison s pa n then (s, .error (.fault fPOISON false)) else (s, .ok (ownRead s pa n))

/-- Bytes of a context's virtual memory as a unit of the device itself reads them; none where a translation fails or a word is
poisoned. -/
def devRead (s : State) (u : XUnit) (c : Ctx) (va n : Nat) : State × Except XStop (List Byte) :=
  (linePieces va n).foldl (fun (st : State × Except XStop (List Byte)) (p : Nat × Nat) =>
    match st with
    | (s, .error e) => (s, .error e)
    | (s, .ok acc) =>
      match xlate s u c (BitVec.ofNat 64 p.1) .read false with
      | .error (s, e) => (s, .error e)
      | .ok (s, l) => let r := devLine s (fnCause s c.fn) l.pa p.2 l.typ; (r.1, r.2.map (acc ++ ·))) (s, .ok [])

/-- R219: the walker of a function's own structures, which have intermediate addresses. -/
def fnWalker (fn : Nat) : Walker := { fn := fn, pasid := 0, die := 0 }

/-- The physical address of an intermediate address of a function. -/
def iaPhys (s : State) (fn ia : Nat) : State × Except XStop Nat :=
  match xlTable (fnWalker fn) (((s.fns[fn]?).map Fn.s2root).getD 0) s ia with
  | .ok (s, pa) => if nowhere s pa then (s, .error (.fault fXLATE true)) else (s, .ok pa)
  | .error (s, e) => (s, .error e)

/-- Bytes at an intermediate address of a function under the device's own writes to it that have still to be performed. -/
def iaOver (s : State) (fn ia : Nat) (bs : List Byte) : List Byte :=
  s.mem.devq.foldl (fun bs w =>
    match w.dest with
    | .ia f a => if f == fn then bs.mapIdx (fun k b => if a ≤ ia + k then (w.bytes[ia + k - a]?).getD b else b) else bs
    | _ => bs) bs

/-- Bytes of a function's own structures. -/
def iaRead (s : State) (fn ia n : Nat) : State × Except XStop (List Byte) :=
  (linePieces ia n).foldl (fun (st : State × Except XStop (List Byte)) (p : Nat × Nat) =>
    match st with
    | (s, .error e) => (s, .error e)
    | (s, .ok acc) =>
      match iaPhys s fn p.1 with
      | (s, .error e) => (s, .error e)
      | (s, .ok pa) => let r := devLine s (fnCause s fn) pa p.2 0; (r.1, r.2.map (fun bs => acc ++ iaOver r.1 fn p.1 bs))) (s, .ok [])

/-! ## Writes (R171, R221, R252; notes/assumptions 38) -/

/-- R221: whether a page request is open. -/
def reqOpen (s : State) (id : Nat) : Bool := s.mem.pageReqs.any (fun q => q.id == id)

/-- The part of a target a number of bytes on. -/
def DevTo.plus (x : DevTo) (k : Nat) : DevTo :=
  match x with | .va c a => .va c (a + k) | .area c a => .area c (a + k) | .ia f a => .ia f (a + k) | .pa a => .pa (a + k)

/-- The address of a target. -/
def DevTo.addr (x : DevTo) : Nat := match x with | .va _ a | .area _ a | .ia _ a | .pa a => a

/-- R304: the cause of a write of the device's own. -/
def DevWrite.cause (w : DevWrite) (s : State) : Cause :=
  match w.dest with
  | .va c _ | .area c _ => causeOf s c (.dev w.id)
  | .ia f _ => { fnCause s f with who := .dev w.id }
  | .pa _ => { ownCause s with who := .dev w.id }

/-- The function that a write of the device's own is for. -/
def DevWrite.fn (w : DevWrite) (s : State) : Option Nat :=
  match w.dest with
  | .va c _ | .area c _ => (s.ctxs[c]?).map Ctx.fn
  | .ia f _ => some f
  | .pa _ => none

/-- R277: what a later release has to know of bytes of a write just performed; what no release needs any more goes. -/
def noteDone (s : State) (w : DevWrite) (pa typ : Nat) : State :=
  let left := s.mem.devdone.filter (fun d => d.posted || decide (s.ft ≤ d.gw))
  match w.fn s with
  | none => s
  | some f => s.modMem (fun m => { m with devdone :=
      { id := w.id, fn := f, gw := gFull s pa, posted := region s pa == .host && !hostCoh s pa typ } :: left })

/-- R252: bytes written at a physical address, line by line; what of them has to wait stays. -/
def devPerform (s : State) (w : DevWrite) (pa typ : Nat) : State × Option DevWrite :=
  if nowhere s pa || offLimits s pa then (s, none)
  else
    let r := (linePieces pa w.bytes.length).foldl (fun (r : State × Option Nat) p =>
      match r.2 with
      | some _ => r
      | none =>
        match lineFor r.1 (w.cause r.1) w.pre p.1 p.2 typ .write with
        | (s, .wait _) => (s, some (p.1 - pa))
        | (s, .err _) => (s, none)
        | (s, .go) => (noteDone (ownWrite s p.1 ((w.bytes.drop (p.1 - pa)).take p.2) typ w.pre) w p.1 typ, none)) (s, none)
    (r.1, r.2.map (fun k => { w with dest := w.dest.plus k, bytes := w.bytes.drop k }))

/-- R221, R222: what a translation that failed makes of a device write: it waits on its page request, or it is dropped. -/
def devFail (s : State) (w : DevWrite) (fn pasid : Nat) : XStop → State × Option DevWrite
  | .fault _ _ => (s, none)
  | .hold _ => (s, some w)
  | .need st2 page wr absent =>
    match needCode w.outcomes st2 page wr absent with
    | some _ => (s, none)
    | none =>
      match pageRequest s fn pasid st2 page wr with
      | (s, some id) => (s, some { w with req := some id })
      | (s, none) => (s, none)

/-- R186, R277: a release's earlier writes are past their times, and its host drain has been begun and, when it has completed, taken note
of; true: the release may be performed. The zero-length read completes after the clock that issues it (notes/assumptions 84). -/
def devRelease (s : State) (w : DevWrite) : State × DevWrite × Bool :=
  let mine (d : DevDone) : Bool := decide (d.id < w.id) && w.fn s == some d.fn
  let l := s.mem.devdone.filter mine
  if s.mem.devq.any (fun q => decide (q.id < w.id) && q.fn s == w.fn s) || l.any (fun d => decide (s.ft ≤ d.gw)) then (s, w, false)
  else if !l.any DevDone.posted then (s, w, true)
  else
    match w.drain, w.fn s with
    | some t, _ => if s.ft ≤ t then (s, w, false) else (s.modMem (fun m => { m with devdone := m.devdone.filter (fun d => !mine d) }), w, true)
    | none, some f => (s.send (.flushRead f (((s.fns[f]?).map Fn.flushaddr).getD 0)), { w with drain := some s.ft }, false)
    | none, none => (s, w, true)

/-- A write of the device's own performed, if it may be; otherwise what is left of it. -/
def devPut (s : State) (w : DevWrite) : State × Option DevWrite :=
  if (match w.req with | some r => reqOpen s r | none => false) then (s, some w)
  else
    match w.dest with
    | .pa a => devPerform s w a 0
    | .ia fn a =>
      (match iaPhys s fn a with
      | (s, .ok pa) => devPerform s w pa 0
      | (s, .error e) => devFail s w fn 0 e)
    | .va ci a | .area ci a =>
      match s.ctxs[ci]? with
      | none => (s, none)
      | some c =>
        match xlate s .front c (BitVec.ofNat 64 a) .write false with
        | .ok (s, l) => devPerform s w l.pa l.typ
        | .error (s, e) => devFail s w c.fn c.pasid e

/-- A write of the device's own performed, if it may be; otherwise what is left of it: a release first awaits what came before it. -/
def devTry (s : State) (w : DevWrite) : State × Option DevWrite :=
  if w.rel then
    match devRelease s w with
    | (s, w, true) => devPut s w
    | (s, w, false) => (s, some w)
  else devPut s w

/-- Whether a write of the device's own waits behind another: those of one context stay in order, but for those to areas, and those to
one page. -/
def DevTo.rules (x y : DevTo) : Bool :=
  let page (a b : Nat) : Bool := a / 4096 == b / 4096
  match x, y with
  | .va c _, .va d _ => c == d
  | .va c a, .area d b | .area c a, .va d b | .area c a, .area d b => c == d && page a b
  | .ia f a, .ia g b => f == g && page a b
  | .pa a, .pa b => page a b
  | _, _ => false

/-- The writes of the device's own performed in their order, as far as they may be. -/
def devPump (s : State) : State :=
  s.mem.devq.foldl (fun s w =>
    if s.mem.devq.any (fun q => decide (q.id < w.id) && q.dest.rules w.dest) then s
    else
      let r := devTry s w
      r.1.modMem (fun m => { m with devq := match r.2 with
        | none => m.devq.filter (fun q => q.id != w.id)
        | some w' => m.devq.map (fun q => if q.id == w.id then w' else q) })) s

/-- Whether a write of the device's own could go on. -/
def devDue (s : State) : Bool :=
  let key (w : DevWrite) : Nat × Nat × Option Nat × Option Nat := (w.id, w.bytes.length, w.req, w.drain)
  !s.mem.devq.isEmpty && (let t := devPump s; t.mem.devq.map key != s.mem.devq.map key || t.outbox.length != s.outbox.length)

/-- A range of addresses cut at 4 KiB; `fuel` is at least the number of pieces. -/
def pageRuns (a n : Nat) : Nat → List (Nat × Nat)
  | 0 => []
  | fuel + 1 =>
    if n == 0 then []
    else
      let k := min n (4096 - a % 4096)
      (a, k) :: pageRuns (a + k) (n - k) fuel

/-- Whether a write to an area takes the place of one that waits: it writes all of the same bytes. -/
def DevWrite.over (w q : DevWrite) : Bool :=
  (match w.dest with | .area _ _ => q.dest == w.dest | _ => false) && decide (q.bytes.length ≤ w.bytes.length)

/-- Bytes written by the device itself, page by page, behind those it has still to write; `rel`: as a release at sys scope. -/
def devSend (s : State) (tgt : DevTo) (bs : List Byte) (pre : Option Nat := none) (rel : Bool := false) : State :=
  devPump ((pageRuns tgt.addr bs.length (bs.length / 4096 + 2)).foldl (fun s p =>
    let k := p.1 - tgt.addr
    let (id, s) := s.newId
    let w : DevWrite := { id := id, dest := tgt.plus k, bytes := (bs.drop k).take p.2, pre := pre, req := none, outcomes := [], rel := rel, drain := none }
    s.modMem (fun m => { m with devq := m.devq.filter (fun q => !DevWrite.over w q) ++ [w] })) s)

/-- Bytes written to a context's virtual memory by the device itself. -/
def devWrite (s : State) (ci va : Nat) (bs : List Byte) (pre : Option Nat := none) : State := devSend s (.va ci va) bs pre

/-! ## Event ring and error log (R231, R274, R283) -/

/-- R283: the entries of a function's event ring as a power of 2; none without a ring. -/
def Fn.ring (f : Fn) : Option Nat :=
  let lg := f.evqbase % 32
  if f.evqbase / 4096 == 0 || decide (lg < 7) || decide (lg > 16) then none else some lg

/-- R283: an event posted to a function's ring; lost and counted when the ring is full, unwritten and uncounted without
a ring (R274). EVHEAD and EVTAIL count modulo 2³². The device keeps the count itself, so that it reads nothing to write it. -/
def postEvent (s : State) (fn kind code queue pasid pkt : Nat) : State :=
  match s.fns[fn]? with
  | none => s
  | some f =>
    match f.ring with
    | none => s
    | some lg =>
      let base := f.evqbase / 4096 * 4096
      if decide ((f.evhead + 2 ^ 32 - f.evtail) % 2 ^ 32 ≥ 2 ^ lg) then
        let a := base + 32 * ((f.evhead + 2 ^ lg - 1) % 2 ^ lg) + 28
        (devSend s (.ia fn a) (leBytes 4 (f.evlost + 1))).modFn fn (fun f => { f with evlost := (f.evlost + 1) % 2 ^ 32 })
      else
        let rec' := leBytes 8 s.ft ++ leBytes 1 kind ++ leBytes 1 code ++ leBytes 2 queue ++ leBytes 4 pasid ++ leBytes 8 pkt ++
          leBytes 4 0 ++ leBytes 4 0
        (devSend s (.ia fn (base + 32 * (f.evhead % 2 ^ lg))) rec').modFn fn (fun f => { f with
          evhead := (f.evhead + 1) % 2 ^ 32, evlost := 0 })

/-- R231: a record of the context error log. -/
def errRecord (s : State) (ci : Nat) (addr lin code grp lane kind : Nat) : State :=
  match s.ctxs[ci]? with
  | none => s
  | some c =>
    let n := c.errCount
    let s := s.modCtx ci (fun c => { c with errCount := min (c.errCount + 1) 0xFFFFFFFF })
    let s := devWrite s ci c.desc.errlog.toNat (leBytes 4 (min (n + 1) 0xFFFFFFFF))
    if n < 126 then
      let rec' := leBytes 8 s.ft ++ leBytes 8 addr ++ leBytes 8 lin ++ leBytes 1 code ++ leBytes 1 grp ++ leBytes 1 lane ++
        leBytes 1 kind ++ leBytes 4 0
      devWrite s ci (c.desc.errlog.toNat + 64 + 32 * n) rec'
    else s

end Sys2Proof.Machine
end

