-- ==== Sys2Proof/Machine/Ops.lean ====
section
/-! DEFINITION. The named operations that instruction words share: named barriers, brand signatures, the end of paths and groups, stopping a
context, TAKING AN EXCEPTION (R228, R230) and returning from one (R229), retiring a word, and the common course of every word (R330). -/

namespace Sys2Proof.Machine

open Sys2Proof

/-! ## Named barriers (R166, R238) -/

/-- R238: standing arrivers not yet counted in the phase. -/
def NBar.standingNow (b : NBar) : Nat := popMask (b.standing &&& ~~~b.counted)

/-- R166: `check(b)`. -/
def NBar.check (b : NBar) : NBar :=
  if b.exp != 0 && decide (b.arr + b.standingNow ≥ b.exp) then
    { b with phase := !b.phase, arr := 0, exp := 0, counted := 0 }
  else b

/-- R166: `arrive(b, n)`; none is the ILLOP of a count that does not fit. -/
def NBar.arrive (b : NBar) (n : Nat) : Option NBar :=
  if b.exp == 0 then (if b.arr ≥ n then none else some (NBar.check { b with exp := n, arr := b.arr + 1 }))
  else if b.exp != n then none
  else some (NBar.check { b with arr := b.arr + 1 })

/-- R166: `copyarrive(b)`. -/
def NBar.copyArrive (b : NBar) : NBar := NBar.check { b with arr := b.arr + 1 }

/-! ## Ends of paths and groups (R52, R95 to R97, R238) -/

/-- R70: GSTAT.SPILL as the stacks stand. -/
def Group.fixSpill (g : Group) : Group :=
  let any := decide (g.path0.divSpill + g.path0.ctl.retSpill + g.path1.divSpill + g.path1.ctl.retSpill > 0)
  Group.mark { g with gstat := if any then g.gstat ||| 0x10#32 else g.gstat &&& ~~~0x10#32 } 0

/-- R74, R96: both paths have arrived or ended: the merge at the join. -/
def Group.merge (g : Group) (age : Nat) : Group :=
  let m0 := if g.path0.ctl.ended then 0#32 else g.path0.mask
  let m1 := if g.path1.ctl.ended then 0#32 else g.path1.mask
  let m := (m0 ||| m1) &&& ~~~g.fin
  let c := g.path0.ctl
  Group.fixSpill { g with
    split := false
    path0 := { g.path0 with
      mask := m
      brand := 0xFFFFFFFF#32
      div := []
      divSpill := 0
      divJoins := []
      ctl := { c with pc := g.join, runPos := 0, inRun := false, wait := .ready, age := age, ended := false } }
    path1 := Path.none
    ops := g.ops.map (fun o => { o with side := none })
    deferred := g.deferred.map (fun d => { d with side := none }) }

/-- R244, R491: the operations of a stream whose instructions are stopped, or whose faults a handler has taken. -/
def Ctl.openIds (c : Ctl) : List Nat := c.openOp.toList ++ c.trapOp.toList

/-- R55, R97: operations whose instructions no path goes on with any more: lanes not performed never are, and they end with what they have
on its way. -/
def Group.leaveOps (g : Group) (ids : List Nat) : Group :=
  { g with ops := g.ops.map (fun o => if ids.contains o.id then { o with stopped := false, dst := .none } else o) }

/-- R52: a group retired. -/
def Group.retire (g : Group) : Group :=
  let g := g.leaveOps (g.path0.ctl.openIds ++ g.path1.ctl.openIds)
  { g with retired := true, path0 := { g.path0 with ctl := { g.path0.ctl with ended := true } },
           path1 := { g.path1 with ctl := { g.path1.ctl with ended := true } } }

/-- R96: whether a path stands at the join or has ended. -/
def Path.home (p : Path) : Bool := p.ctl.ended || p.ctl.wait == .join

/-- R52, R96: what a split group does once a path has arrived or ended: it merges when both have, and retires when both have
ended. -/
def Group.settle (g : Group) (age : Nat) : Group :=
  if !g.split then g
  else if g.path0.ctl.ended && g.path1.ctl.ended then g.retire
  else if g.path0.home && g.path1.home then g.merge age
  else g

/-- R97, R390: the lanes of a path finished; `top` is the join of its newest divergence entry, if any. -/
def Group.pathDone (g : Group) (sec : Bool) (top : Option W64) (age : Nat) : Group :=
  let p := g.path sec
  let g := { g with fin := g.fin ||| p.mask }
  match top with
  | some j => (g.leaveOps p.ctl.openOp.toList).setPath sec { p with
      mask := 0, ctl := { p.ctl with pc := j, runPos := 0, inRun := false, openOp := none, outcomes := [], asked := [] } }
  | none =>
    if g.split then ((g.leaveOps p.ctl.openIds).setPath sec { p with mask := 0, ctl := { p.ctl with ended := true } }).settle age
    else (g.setPath sec { p with mask := 0 }).retire

/-! ## The spill area (R72, R98) -/

/-- R282: the base of a block's spill frame. -/
def frameBase (s : State) (b : Block) : Nat :=
  match s.grids[b.grid]? with
  | some g => g.spillBase.toNat + b.frame * ((b.decl.groups + 1) * b.decl.spill)
  | none => 0

/-- R72: the address of the k-th spilled divergence entry of a path. -/
def divSpillAddr (s : State) (v : View) (k : Nat) : Nat :=
  frameBase s v.b + v.gi * v.b.decl.spill + (if v.sec then v.b.decl.spill / 4 else 0) + 32 * k

/-- R72: the address of the k-th spilled return entry of a stream. -/
def retSpillAddr (s : State) (v : View) (k : Nat) : Nat :=
  if v.isBell then frameBase s v.b + v.b.decl.groups * v.b.decl.spill + 8 * k
  else frameBase s v.b + v.gi * v.b.decl.spill + (v.b.decl.spill / 4) * (if v.sec then 3 else 2) + 8 * k

/-- R72: how many return entries the spill area of a stream holds. -/
def retSpillRoom (v : View) : Nat := if v.isBell then v.b.decl.spill / 8 else v.b.decl.spill / 4 / 8

/-- R73: the 32 bytes of a divergence entry. -/
def divBytes (e : DivEntry) : List Byte :=
  leBytes 8 e.start.toNat ++ leBytes 8 e.join.toNat ++ leBytes 4 e.waitMask.toNat ++ leBytes 4 e.parent.toNat ++ leBytes 8 0

/-- R73: a divergence entry from its bytes. -/
def divOfBytes (bs : List Byte) : DivEntry :=
  { start := BitVec.ofNat 64 (leNat (bs.take 8)), join := BitVec.ofNat 64 (leNat ((bs.drop 8).take 8)),
    waitMask := BitVec.ofNat 32 (leNat ((bs.drop 16).take 4)), parent := BitVec.ofNat 32 (leNat ((bs.drop 20).take 4)) }

/-! ## Exceptions -/

/-- R226: a fault as an instruction raises it. -/
structure Exc where
  code : Nat
  k2 : W64
  /-- the lanes of k4. -/
  lanes : W32
  write : Bool
  stage2 : Bool
  engine : Bool
  slot : Nat
  /-- R472: the fault is a TRAP's, whose word has retired. -/
  next : Bool
  deriving DecidableEq, Repr

/-- A fault of the whole instruction with its k2. -/
def exc (code : Nat) (k2 : W64 := 0) : Exc :=
  { code := code, k2 := k2, lanes := 0, write := false, stage2 := false, engine := false, slot := 0, next := false }

/-- R228: k1 at trap entry. -/
def trapK1 (bsave : W32) (runPos : Nat) (x : Exc) : W64 :=
  bsave ++ BitVec.ofNat 32 (runPos % 32 * 2 ^ 24 + x.slot % 4 * 2 ^ 16 + (if x.engine then 2 ^ 15 else 0) +
    (if x.write then 2 ^ 14 else 0) + (if x.stage2 then 2 ^ 13 else 0) + lowLane x.lanes % 32 * 2 ^ 8 + x.code % 256)

/-- One operation of a block changed. -/
def modMop (s : State) (blk id : Nat) (f : MOp → MOp) : State :=
  s.modBlock blk (fun b => { b with mops := b.mops.map (fun o => if o.id == id then f o else o) })

/-- R135: the rows on which an operation has still to act: the first, and the one after the last. -/
def MOp.rowSpan (o : MOp) : Nat × Nat :=
  if o.performed then (0, 0)
  else match o.kind with
    | .wld _ _ _ _ _ _ => (0, 0)
    | .mstr _ _ _ m _ _ r0 _ => (r0 + o.prog, r0 + m)
    | .mdrn _ _ m _ _ _ _ _ _ r0 => (r0 + o.prog, r0 + m)
    | .mclr r0 n => (r0, r0 + n)

/-- Whether an operation has still to act on a row. -/
def MOp.busyRow (o : MOp) (row : Nat) : Bool := decide (o.rowSpan.1 ≤ row) && decide (row < o.rowSpan.2)

/-- Whether an operation has still to act on a bank. -/
def MOp.busyBank (o : MOp) (bank : Bool) : Bool :=
  !o.performed && match o.kind with | .wld b _ _ _ _ _ => b == bank | .mstr b _ _ _ _ _ _ _ => b == bank | _ => false

/-- A weight load. -/
def MOp.isWld (o : MOp) : Bool := match o.kind with | .wld _ _ _ _ _ _ => true | _ => false
/-- A stream. -/
def MOp.isMstr (o : MOp) : Bool := match o.kind with | .mstr _ _ _ _ _ _ _ _ => true | _ => false

/-- R128, R135: whether two operations share a row, or a bank that one of them loads. -/
def MOp.meets (a b : MOp) : Bool :=
  decide (max a.rowSpan.1 b.rowSpan.1 < min a.rowSpan.2 b.rowSpan.2) ||
    ((a.isWld || b.isWld) && [false, true].any (fun k => a.busyBank k && b.busyBank k))

/-- R135: an operation of a block and those that have to wait for it, or for one that waits for it. -/
def followers (l : List MOp) (id : Nat) : List MOp :=
  (l.dropWhile (fun o => o.id != id)).foldl (fun r o => if r.isEmpty || r.any (fun x => x.meets o) then r ++ [o] else r) []

/-- R135: an operation that restarts goes behind the streams that wait then, with those of its block that wait for it. -/
def reenter (s : State) (blk id : Nat) : State :=
  match s.block? blk with
  | none => s
  | some b => (followers b.mops id).foldl (fun s o =>
      let (k, s) := s.newId
      modMop s blk o.id (fun o => { o with seq := k, entered := o.entered && o.id != id })) s

/-- R131, R135: the streams of blocks that are in their arrays stop, and re-enter behind those that wait. -/
def stopStreams (s : State) (f : Block → Bool) : State :=
  ((s.blocks.zipIdx).filter (fun x => f x.1)).foldl (fun s x =>
    (x.1.mops.filter MOp.entered).foldl (fun s o => reenter s x.2 o.id) s) s

/-- Page requests of a context abandoned (R223). -/
def abandonRequests (s : State) (fn pasid : Nat) : State :=
  let s := s.modMem (fun m => { m with pageReqs := m.pageReqs.filter (fun r => !(r.fn == fn && r.pasid == pasid)) })
  prPump s fn 512

/-- R243: what a stop makes of a stream's wait: it waits afresh on resume; a path at a join stays there. -/
def Ctl.stop (c : Ctl) : Ctl := { c with keep := false, acc := none, wait := if c.wait == .join then .join else .ready, outcomes := [], asked := [] }

/-- R243: a block at its restart points. -/
def Block.stop (b : Block) : Block :=
  { b with
    bell := { b.bell with ctl := b.bell.ctl.stop }
    groups := b.groups.map (fun g => { g with path0 := { g.path0 with ctl := g.path0.ctl.stop },
                                              path1 := { g.path1 with ctl := g.path1.ctl.stop } })
    mops := b.mops.map (fun o =>
      let o := { o with req := none, outcomes := [], entered := false }
      match o.kind with
      | .wld _ _ _ _ _ _ => if o.performed then o else { o with prog := 0 }
      | .mclr _ _ => if o.performed then o else { o with prog := 0 }
      | _ => o)
    reload := b.reload.map (fun r => { r with req := none, outcomes := [] })
    copies := b.copies.map (fun c => { c with req := none, outcomes := [] }) }

/-- R242, R268: whether a block's parties may issue. -/
def blockRuns (s : State) (b : Block) : Bool :=
  b.stat == .resident && (match s.ctxs[b.ctx]? with | some c => c.state == .running | none => false) &&
    (match b.pair with | some p => !p.failed | none => true)

/-- R162: the progress of a copy written back to its ring entry. -/
def putProg (s : State) (blk : Nat) (c : CopyWork) : State := scratchWrite s blk (32 * (c.idx % 64) + 29) (leBytes 3 c.prog) false

/-- R162: the progress of a block's copies written back to their ring entries. -/
def saveProgs (s : State) (blk : Nat) (b : Block) : State := b.copies.foldl (fun s c => putProg s blk c) s

/-- R284: the state byte. -/
def stateCode : CtxState → Nat
  | .running => 0
  | .stopping => 1
  | .stopped => 2
  | .resuming => 3
  | .discarded => 2

/-- R258, R284: the status record written: SAVECOST, the state, and the last committed cut with the FT of its commit. -/
def writeStatus (s : State) (ci : Nat) : State :=
  match s.ctxs[ci]? with
  | none => s
  | some c =>
    if c.desc.statusrec == 0 then s
    else
      let rec' := leBytes 4 c.savecost ++ leBytes 1 (stateCode c.state) ++ leBytes 3 0 ++ leBytes 8 c.lastCommit ++
        leBytes 8 c.commitFt ++ leBytes 40 0
      devWrite s ci c.desc.statusrec.toNat rec'

/-- R242, R243: every party of a context stopped at its restart point; its waits' registrations dropped, its page requests
abandoned (R223), its status record written (R284). A stop that meets one in progress joins it. -/
def beginStop (s : State) (ci : Nat) (cause : StopCause) : State :=
  match s.ctxs[ci]? with
  | none => s
  | some c =>
    let s := s.modCtx ci (fun c => { c with state := .stopping, cause := if c.state == .running || cause == .flr || cause == .discard then some cause else c.cause })
    let mine (p : Party) : Bool := match s.block? p.blk with | some b => b.ctx == ci && b.stat != .swapped | none => false
    let s := (s.blocks.zipIdx).foldl (fun s (x : Block × Nat) => if x.1.ctx == ci then saveProgs s x.2 x.1 else s) s
    let s := stopStreams s (fun b => b.ctx == ci && b.stat == .resident)
    let bs : List Block := s.blocks.map (fun (b : Block) => if b.ctx == ci && b.stat == BStat.resident then b.stop else b)
    let cu : Option Party := match s.cur with | some p => (if mine p then none else some p) | none => none
    let s : State := { s with blocks := bs, cur := cu }
    let s := s.modMem (fun (m : MemSys) => { m with
      held := m.held.filter (fun h => !(h.lanes.isEmpty && mine h.party))
      monitors := m.monitors.filter (fun q => !mine q.party)
      drains := m.drains.filter (fun d => !mine d.party)
      locks := m.locks.map (fun l => { l with queue := l.queue.filter (fun q => !mine q.party) }) })
    let s := s.modFe (fun e => { e with queues := e.queues.map (fun q => if q.ctx == ci then { q with req := none, outcomes := [] } else q) })
    writeStatus (abandonRequests s c.fn c.pasid) ci

/-- R230, R102: a context stopped for a fault: the stop, its error record of kind 0 and its context-stop event. -/
def stopContext (s : State) (ci code addr lin grp lane : Nat) : State :=
  match s.ctxs[ci]? with
  | none => s
  | some c =>
    let s := errRecord s ci addr lin code grp lane 0
    let s := postEvent s c.fn 3 code 0 c.pasid 0
    (beginStop s ci .faultStop).modCtx ci (fun c => { c with stopCode := code })

/-- R228: trap entry of a path: k0 to k4, MODE, the handler flag and the PC; a new run starts. A TRAP has retired before its
entry (R472), so that the PC and run position are those of the word after it. -/
def Group.enterTrap (g : Group) (sec : Bool) (x : Exc) (age : Nat) : Group :=
  let p := g.path sec
  let c := p.ctl
  let k0 := c.pc
  let k1 := trapK1 (if x.next && !c.inRun then 0xFFFFFFFF#32 else p.brand) c.runPos x
  let k3 := p.mask ++ (BitVec.setWidth 32 g.mode)
  let k := (((g.k.set 0 k0).set 1 k1).set 2 x.k2).set 3 k3
  let k := k.set 4 (zx x.lanes)
  let c' := { c with pc := g.tbase + BitVec.ofNat 64 (64 * x.code), runPos := 0, inRun := false, handler := true, trapPc := k0,
                     wait := .ready, age := age, trapOp := c.openOp, openOp := none, acc := none, outcomes := [], asked := [], yielded := false,
                     trapStart := c.runStart, arrived := none, trapKept := (c.arrived, c.yielded), cmpOk := false, fwd := false }
  Group.mark (Group.mark { g with k := k, mode := 0 } 0 |>.setPath sec
    { p with ctl := c', brand := 0xFFFFFFFF#32, trapWin := p.win }) 3

/-- R228, R472: trap entry of a bellwether, which has no BRAND: k1.BSAVE is 0, and all ones behind a TRAP with E (notes/assumptions 14). -/
def Bell.enterTrap (b : Bell) (x : Exc) (age : Nat) : Bell :=
  let c := b.ctl
  let k0 := c.pc
  let k := (((b.k.set 0 k0).set 1 (trapK1 (if x.next && !c.inRun then 0xFFFFFFFF#32 else 0) c.runPos x)).set 2 x.k2).set 3 (BitVec.setWidth 64 b.mode)
  let k := k.set 4 0
  { b with k := k, mode := 0,
           ctl := { c with pc := b.tbase + BitVec.ofNat 64 (64 * x.code), runPos := 0, inRun := false, handler := true,
                           trapPc := k0, wait := .ready, age := age, trapOp := c.openOp, openOp := none, outcomes := [], asked := [],
                           yielded := false, arrived := none, trapKept := (c.arrived, false), cmpOk := false, fwd := false } }

/-- Whether a party's fault reaches a handler: its TBASE is not 0 and its handler flag is clear (R228, R230). -/
def View.traps (v : View) : Bool := (if v.isBell then v.b.bell.tbase else v.g.tbase) != 0 && !v.ctl.handler

/-- TAKING AN EXCEPTION (R228, R230): the fault enters the party's handler, or, with TBASE = 0 or inside a handler, stops the
context. The party gives up the issue. -/
def raise (s : State) (v : View) (x : Exc) : State :=
  if v.traps then
    let s := if v.isBell then s.modBell v.p.blk (fun b => b.enterTrap x s.ft)
             else s.modGroup v.p.blk v.gi (fun g => g.enterTrap v.sec x s.ft)
    { s with cur := none }
  else { stopContext s v.b.ctx x.code x.k2.toNat v.b.lin (if v.isBell then 0xFF else v.gi)
           (if x.lanes == 0 then 0xFF else lowLane x.lanes) with cur := none }

/-! ## Lane death (R236 to R238) -/

/-- R266: barriers whose phase is to be completed by no party put among the compare points that a paired block waits at. -/
def Block.await (b : Block) (l : List Nat) : Block :=
  { b with pair := b.pair.map (fun p => { p with points := p.points ++ l.filter (fun n => !p.points.contains n) }) }

/-- R238, R266: a group that retired by the death of its last lane stands as an arriver at every barrier it has used; a phase that this
completes is a compare point of a paired block. -/
def standArrivers (s : State) (blk gi : Nat) : State :=
  s.modBlock blk (fun b =>
    let stand (n : NBar) : NBar := if n.users.getLsbD gi && !n.standing.getLsbD gi then { n with standing := n.standing ||| laneBit gi } else n
    if b.pair.isNone then { b with bars := b.bars.map (fun n => if (stand n).standing == n.standing then n else NBar.check (stand n)) }
    else { b with bars := b.bars.map stand }.await
      (((b.bars.zipIdx).filter (fun (x : NBar × Nat) => (stand x.1).standing != x.1.standing && NBar.check (stand x.1) != stand x.1)).map (fun (x : NBar × Nat) => x.2 + 1)))

/-- R95, R97: the join of a path's newest divergence entry; it needs no read of a spilled entry (notes/assumptions 82). -/
def Path.topJoin (p : Path) : Option W64 :=
  match p.div with
  | e :: _ => some e.join
  | [] => p.divJoins.head?

/-- R236, R237, R238: lanes of a group die: DEAD, LANEDIED and the error log; a path left without live lanes ends as by DONE,
and the group retires with its last live lane. -/
def killLanes (s : State) (v : View) (lanes : W32) : State :=
  let fresh := lanes &&& ~~~v.g.dead
  if fresh == 0 then s
  else
    let s := s.modGroup v.p.blk v.gi (fun g => Group.mark { g with dead := g.dead ||| fresh, gstat := g.gstat ||| 0x20#32 } 0)
    let s := (laneList.filter (inMask fresh)).foldl
      (fun s l => errRecord s v.b.ctx 0 v.b.lin fPOISON v.gi l 1) s
    match s.view v.p with
    | none => s
    | some w =>
      let left := w.g.records &&& ~~~w.g.fin &&& ~~~w.g.dead
      if left == 0 then
        { standArrivers (s.modGroup w.p.blk w.gi (fun g =>
          ({ g with path0 := { g.path0 with ctl := { g.path0.ctl with age := s.ft } } }).retire)) w.p.blk w.gi with cur := none }
      else if w.path.mask &&& ~~~w.g.dead == 0 then
        { s.modGroup w.p.blk w.gi (fun g => g.pathDone w.sec w.path.topJoin s.ft) with cur := none }
      else s

/-! ## Brand signatures (R101, R102, R291) -/

/-- R101: crc32c of one word, reflected polynomial 0x82F6_3B78, bytes lowest first, without a final inversion. -/
def crcWord (crc word : W32) : W32 :=
  (List.range 32).foldl (fun c _ => if c.getLsbD 0 then (c >>> 1) ^^^ 0x82F63B78#32 else c >>> 1) (crc ^^^ word)

/-- R290: the BRAND of the entry for an offset, from a brand table's bytes. -/
def brandEntry (off : Nat) : Nat → List Byte → Option W32
  | 0, _ => none
  | n + 1, bs =>
    if leNat (bs.take 4) == off then some (BitVec.ofNat 32 (leNat ((bs.drop 4).take 4))) else brandEntry off n (bs.drop 8)

/-- R291: the record of a brand map whose range holds an address: the range's first word, entry count and table address. -/
def brandRecord (a : Nat) : Nat → List Byte → Option (Nat × Nat × Nat)
  | 0, _ => none
  | n + 1, bs =>
    let base := leNat (bs.take 8)
    if decide (base ≤ a) && decide (a < base + leNat ((bs.drop 8).take 4)) then
      some (base, leNat ((bs.drop 12).take 4), leNat ((bs.drop 16).take 8))
    else brandRecord a n (bs.drop 32)

/-- R291: the brand map of a context: its count and records. -/
def brandMap (s : State) (u : XUnit) (c : Ctx) : State × Except XStop (Nat × List Byte) :=
  match devRead s u c c.desc.brmap.toNat 4 with
  | (s, .error e) => (s, .error e)
  | (s, .ok h) =>
    match devRead s u c (c.desc.brmap.toNat + 32) (32 * leNat h) with
    | (s, .error e) => (s, .error e)
    | (s, .ok bs) => (s, .ok (leNat h, bs))

/-- R291: the expected BRAND of a run start: none without record or entry. -/
def brandFind (s : State) (u : XUnit) (c : Ctx) (start : W64) : State × Except XStop (Option W32) :=
  match brandMap s u c with
  | (s, .error e) => (s, .error e)
  | (s, .ok (n, bs)) =>
    match brandRecord start.toNat n bs with
    | none => (s, .ok none)
    | some (base, cnt, tab) =>
      match devRead s u c tab (8 * cnt) with
      | (s, .error e) => (s, .error e)
      | (s, .ok t) => (s, .ok (brandEntry (start.toNat - base) cnt t))

/-- R157, R257: a block that is freed without an end of its own passes on the locks it holds, unwritten, and awaits none
(notes/assumptions 91). -/
def dropLocks (s : State) (blk : Nat) : State :=
  (s.modBlock blk (fun b => { b with locks := [] })).modMem (fun m => { m with locks := m.locks.map (fun l =>
    { l with holder := if l.holder == some blk then none else l.holder, queue := l.queue.filter (fun q => q.party.blk != blk) }) })

/-- R102, R257, R268: what a BRAND mismatch does: a paired copy waits for a third run; a block launched idempotent is dispatched
again; otherwise the context rolls back; without a checkpoint it stops. -/
def brandFault (s : State) (v : View) : State :=
  if v.b.pair.isSome then
    { s.modBlock v.p.blk (fun b => { b with pair := b.pair.map (fun p => { p with failed := true }) }) with cur := none }
  else if v.b.decl.idem then
    let s := s.modGrid v.b.grid (fun g => { g with
      redo := if g.node.isSome then g.redo else g.redo ++ [v.b.lin]
      formed := if g.node.isSome then v.b.recs :: g.formed else g.formed
      arrived := g.arrived.filter (· != v.p.blk) })
    let s := (dropLocks s v.p.blk).modBlock v.p.blk (fun b => { b with stat := .ended, copies := [], mops := [] })
    { s with cur := none }
  else
    match s.ctxs[v.b.ctx]? with
    | none => s
    | some c =>
      if c.lastCommit == 0 || c.desc.chain == 0 then
        { stopContext s v.b.ctx fBRAND 0 v.b.lin v.gi 0xFF with cur := none }
      else
        let s := errRecord s v.b.ctx 0 v.b.lin fBRAND v.gi 0xFF 0
        { (beginStop s v.b.ctx .rollback).modCtx v.b.ctx (fun c => { c with stopCode := fBRAND }) with cur := none }

/-- R101, R102: the check at the end of the run of a view's path; whether it passed. -/
def brandCheck (s : State) (v : View) (brand : W32) : State × Bool :=
  match ctxOf s v.b with
  | none => (s, true)
  | some c =>
    match brandFind s (.instr v.b.core) c v.ctl.runStart with
    | (s, .ok (some w)) => if w == brand then (s, true) else (brandFault s v, false)
    | (s, _) => (brandFault s v, false)

/-! ## Control-transfer targets (R82) -/

/-- R82: whether an address is a run start of a context: the first word of a code range, or the word after one with E set; a
word before it that cannot be read counts as one. A line that either must wait for is the answer instead. -/
def ctxRunStart (s : State) (u : XUnit) (c : Ctx) (a : W64) : State × Except Wait Bool :=
  match brandMap s u c with
  | (s, .error (.hold w)) => (s, .error w)
  | (s, m) =>
    let first : Bool := match m with
      | .ok (n, bs) => (List.range n).any (fun k => leNat ((bs.drop (32 * k)).take 8) == a.toNat)
      | .error _ => false
    if first then (s, .ok true)
    else
      match xlate s u c (a - 4) .fetch true with
      | .error (s, .hold w) => (s, .error w)
      | .error (s, _) => (s, .ok true)
      | .ok (s, l) =>
        match devLine s (fnCause s c.fn) l.pa 4 l.typ with
        | (s, .error (.hold w)) => (s, .error w)
        | (s, .error _) => (s, .ok true)
        | (s, .ok bs) => (s, .ok (decide (leNat bs ≥ 2 ^ 31)))

/-- R82: whether an address is a run start for a block. -/
def isRunStart (s : State) (b : Block) (a : W64) : State × Except Wait Bool :=
  match ctxOf s b with
  | none => (s, .ok true)
  | some c => ctxRunStart s (.instr b.core) c a

/-! ## Retiring a word -/

/-- R87, R101: a path after one of its words: latch, BRAND, run position and PC. -/
def Path.step (p : Path) (w : W32) (l : LatchOut) (pc : W64) : Path :=
  let i := p.ctl.runPos % 4
  let latch : Latch := match l with | .invalid => Latch.empty | .val x => { valid := true, val := x }
  { p with
    latches := if p.ctl.handler then p.latches else p.latches.set i latch (Nat.mod_lt _ (by decide))
    brand := crcWord p.brand w
    ctl := { p.ctl with pc := pc, runPos := p.ctl.runPos + 1, inRun := true, acc := Option.none, arrived := Option.none, openOp := Option.none,
                        outcomes := [], asked := [], cmpOk := false, fwd := false } }

/-- R64, R85, R89: a path at an ordinary run end: latches discarded (kept frozen in a handler), ready at this clock, 64 later
after a YIELD (R480). -/
def Path.endRun (p : Path) (ft : Nat) : Path :=
  { p with
    latches := if p.ctl.handler then p.latches else Vector.replicate 4 Latch.empty
    ctl := { p.ctl with runPos := 0, inRun := false, yielded := false, age := if p.ctl.yielded then ft + 64 else ft } }

/-- R266: the start of a completed run added to a paired copy's run digest. -/
def noteRun (s : State) (blk : Nat) (start : W64) : State :=
  s.modBlock blk (fun b => match b.pair with | some p => { b with pair := some { p with runSum := p.runSum + start } } | none => b)

/-- R81, R85, R101: a word of a bellwether retired: its next PC; it gives up the pipeline after every word (R20). -/
def retireBell (s : State) (v : View) (w : W32) (pc : W64) : State :=
  let e := w.getLsbD 31
  let s := s.modBell v.p.blk (fun b => { b with ctl := { b.ctl with
    pc := pc, runPos := if e then 0 else b.ctl.runPos + 1, inRun := !e, arrived := none, openOp := none, outcomes := [], asked := [],
    cmpOk := false, fwd := false, age := s.ft } })
  { (if e then noteRun s v.p.blk v.ctl.runStart else s) with cur := none }

/-- R87, R101, R248: a word of a path retired with its latch result, next PC and BRAND fold. -/
def retirePath (s : State) (v : View) (w : W32) (l : LatchOut) (pc : W64) (fold : W32) : State :=
  s.modGroup v.p.blk v.gi (fun g =>
    let p := (g.path v.sec).step w l pc
    let k := 4 + (if v.sec then 8 else 0) + v.ctl.runPos % 4 * 2
    Group.mark (Group.mark (Group.mark (g.setPath v.sec { p with brand := p.brand ^^^ fold }) 0) k) (k + 1))

/-- R85, R101: the end of a run of a path: the slot is free again, what the word makes of the group besides (`post`), and the
brand check. The answer says whether the check passed. -/
def endOfRun (s : State) (v : View) (post : Group → Group) : State × Bool :=
  let s := { s with cur := none }
  match s.view v.p with
  | none => (s, true)
  | some u =>
    let s := s.modGroup v.p.blk v.gi (fun g => post (g.setPath v.sec ((g.path v.sec).endRun s.ft)))
    brandCheck (noteRun s v.p.blk v.ctl.runStart) v u.path.brand

/-- R482: a lane access that page responses replay: the path holds no slot meanwhile, and becomes ready when its access has completed. -/
def Ctl.replays (c : Ctl) : Bool := c.openOp.isSome && !c.asked.isEmpty

/-- R84, R482: a path that is ready from now on, and holds no issue. -/
def standAside (s : State) (p : Party) : State := { s.modCtl p (fun c => { c with age := s.ft }) with cur := none }

/-- R81, R85, R101: a word retired with its latch result, its next PC, its BRAND fold and what it makes of the group besides; a
word with E ends the run with its brand check, and the slot is free again. -/
def retire (s : State) (v : View) (w : W32) (l : LatchOut) (pc : W64) (fold : W32 := 0) (post : Group → Group := id) : State :=
  if v.isBell then retireBell s v w pc
  else
    let s := retirePath s v w l pc fold
    if w.getLsbD 31 then (endOfRun s v post).1
    else
      match s.view v.p with
      | some u => if u.g.retired || u.ctl.ended then { s with cur := none } else if v.ctl.replays then standAside s v.p else s
      | none => s

/-- R65, R86, R92: the waits for which a path stalls and its run keeps the slot. -/
def Wait.stalls : Wait → Bool
  | .counter _ | .data _ | .miss => true
  | _ => false

/-- R91: a party waits at its instruction; it gives up the issue. A path that stalls keeps its slot (R65, R86, R92). -/
def park (s : State) (p : Party) (w : Wait) : State :=
  { s.modCtl p (fun c => { c with
      wait := w, age := s.ft, keep := w.stalls, asked := match w with | .page rs => (c.asked ++ rs).eraseDups | _ => c.asked }) with cur := none }

/-! ## The common course of every word (R330) -/

/-- What a word's own effect comes to. -/
inductive Act where
  /-- the effect is made: the word retires with its latch result and the path goes on at PC + 4. -/
  | done (s : State) (l : LatchOut)
  /-- the effect is made and the path goes on at an address. -/
  | jump (s : State) (pc : W64)
  /-- a branch-row word of a group: the next PC, the BRAND fold of R94, and what it makes of the group once its run has
  ended. -/
  | leave (s : State) (pc : W64) (fold : W32) (post : Group → Group)
  /-- nothing is done; the party waits (R91). -/
  | wait (s : State) (w : Wait)
  /-- a fault. -/
  | trap (s : State) (x : Exc)
  /-- the party's state is already what it is to be (a return from a trap, a party that has ended or died). -/
  | over (s : State)

/-- R327: the streams that may run an opcode. -/
inductive Streams where
  | g | b | gb | ba
  deriving DecidableEq, Repr

/-- R36, R44, R327: whether a stream may run an opcode. -/
def streamOk (v : View) : Streams → Bool
  | .g => !v.isBell
  | .b => v.isBell
  | .gb => true
  | .ba => v.isBell || decide (v.gi < v.b.decl.access)

/-- R81: a word at run position 23 must carry E. -/
def endOk (v : View) (w : W32) : Bool := decide (v.ctl.runPos < 23) || w.getLsbD 31

/-- R330: the fault of a word's decoding, in order: STREAM, FEAT, the field checks, LATCH. -/
def decodeFault (v : View) (w : W32) (st : Streams) (feat : Option Nat) (ok : Bool) (lats : List (BitVec 8)) : Option Exc :=
  if !streamOk v st then some (exc fSTREAM)
  else
    match feat with
    | some b =>
      if !Config.featmask.getLsbD b then some (exc fFEAT (BitVec.ofNat 64 b))
      else if !(ok && endOk v w) then some (exc fILLOP)
      else if !latchesOk v lats then some (exc fLATCH) else none
    | none =>
      if !(ok && endOk v w) then some (exc fILLOP) else if !latchesOk v lats then some (exc fLATCH) else none

/-- What a word comes to once its effect is known. -/
def settleAct (v : View) (w : W32) : Act → State
  | .done s l => retire s v w l (v.ctl.pc + 4)
  | .jump s pc => retire s v w .invalid pc
  | .leave s pc fold post => retire s v w .invalid pc fold post
  | .wait s k => park s v.p k
  | .trap s x => raise s v x
  | .over s => s

/-- What an instruction word needs of its issue: the streams that may run it, the feature bit it needs beyond bit 0, its field
checks, its latch sources, and whether the bellwether guard governs it (R67). -/
structure Need where
  streams : Streams
  feat : Option Nat := none
  ok : Bool := true
  lats : List (BitVec 8) := []
  guarded : Bool := true

/-- R330, R67: the state after a word of a view: its decode fault; nothing, when the bellwether guard suppresses it; its own
effect. -/
def issue (s : State) (v : View) (w : W32) (n : Need) (act : Act) : State :=
  match decodeFault v w n.streams n.feat n.ok n.lats with
  | some x => raise s v x
  | none => if v.suppressed && n.guarded then retire s v w .invalid (v.ctl.pc + 4) else settleAct v w act

/-- The course of every instruction word: its party is the one that holds the issue. -/
def wordExec (i : Instr) (s : State) (need : View → Need) (act : View → Act) : Host.Outcome State Fault Refusal :=
  match s.cur with
  | none => .fault .noIssuingParty
  | some p =>
    match s.view p with
    | none => .fault .noIssuingParty
    | some v => .next (issue s v (encode i) (need v) (act v))

/-! ## Single accesses to a context's memory (R225) -/

/-- The fault of a walk, at the address it translates. -/
def xExc (code : Nat) (va : W64) (write stage2 : Bool) : Exc := { exc code va with write := write, stage2 := stage2 }

/-- R219: the unit whose translation cache an access of a stream uses: its core's, for instruction fetch, for a bellwether, or for group
data. -/
def xUnit (v : View) (acc : Acc) : XUnit :=
  if acc == .fetch then .instr v.b.core else if v.isBell then .engine v.b.core else .data v.b.core

/-- R222, R225, R309: the translation of a whole instruction's one access; a need of a page opens or joins a request, for which the
party waits, and one already answered faults. The aperture and the device registers refuse it. -/
def xlateOne (s : State) (v : View) (va : W64) (acc : Acc) (prog : Bool := true) : Except Act (State × Leaf) :=
  match ctxOf s v.b with
  | none => .error (.trap s (exc fXLATE va))
  | some c =>
    if inRegion c va.toNat then .error (.wait s (.region v.b.ctx))
    else
    match xlate s (xUnit v acc) c va acc prog with
    | .ok (s, l) => if offLimits s l.pa then .error (.trap s (xExc fPERM va (acc == .write) false)) else .ok (s, l)
    | .error (s, .hold w) => .error (.wait s w)
    | .error (s, .fault code st2) => .error (.trap s (xExc code va (acc == .write) st2))
    | .error (s, .need st2 page wr absent) =>
      match needCode v.ctl.outcomes st2 page wr absent with
      | some code => .error (.trap s (xExc code va wr st2))
      | none =>
        match pageRequest s c.fn c.pasid st2 page wr with
        | (s, some id) => .error (.wait s (.page [id]))
        | (s, none) => .error (.trap s (xExc fXLATE va wr st2))

/-! ## Return from an exception (R229, R447, R491) -/

/-- R491: a lane access whose fault its handler returns past: PMASK := 0 in the lanes of its path (notes/assumptions 21), and its lanes
that were not performed never are. -/
def dropTrapOp (g : Group) (mask : W32) (op : Nat) : Group := Group.mark (({ g with pmask := g.pmask &&& ~~~mask }).leaveOps [op]) 0

/-- R491: whether an RTE continues past a lane access whose fault its handler has taken: the operation of that access. -/
def Group.pastOp (g : Group) (sec : Bool) : Option Nat :=
  let c := (g.path sec).ctl
  if g.k.toList.getD 0 0 == c.trapPc then none else c.trapOp

/-- R229: RTE of a path whose handler flag is set, to k0; `mid`: it resumes mid-run. -/
def Group.rte (g : Group) (sec : Bool) : Group :=
  let p := g.path sec
  let c := p.ctl
  let k (i : Nat) : W64 := g.k.toList.getD i 0
  let pos := (k 1).toNat / 2 ^ 24 % 32
  let same := k 0 == c.trapPc
  let mid := same && pos != 0
  let g := { g with mode := (k 3).setWidth 16 }
  let g := match c.trapOp with
    | some op => if same then g else dropTrapOp g p.mask op
    | none => g
  let c' := { c with pc := k 0, handler := false, runPos := if mid then pos else 0, inRun := mid, wait := .ready,
                     openOp := if same then c.trapOp else none, trapOp := none, arrived := if same then c.trapKept.1 else none,
                     yielded := mid && c.trapKept.2, trapKept := (none, false),
                     runStart := if mid then c.trapStart else k 0 }
  Group.mark (g.setPath sec { p with
    win := if mid then p.trapWin else p.win
    ctl := c'
    brand := if mid then ((k 1).toNat / 2 ^ 32 : Nat) |> BitVec.ofNat 32 else 0xFFFFFFFF#32
    latches := if mid then p.latches else Vector.replicate 4 Latch.empty }) 0

/-- R447: RTE of a bellwether: MODE from k3, the PC from k0, the handler flag clear; a run starts there (log 13). -/
def Bell.rte (b : Bell) (age : Nat) : Bell :=
  let c := b.ctl
  let k0 := b.k.toList.getD 0 0
  { b with mode := (b.k.toList.getD 3 0).setWidth 16,
           ctl := { c with pc := k0, handler := false, runPos := 0, inRun := false, wait := .ready, age := age,
                           openOp := none, trapOp := none, arrived := if k0 == c.trapPc then c.trapKept.1 else none, trapKept := (none, false) } }

end Sys2Proof.Machine
end

