-- ==== Sys2Proof/Machine/Image.lean ====
section
/-! DEFINITION. The bytes of a saved context and of the parts of an increment (03_state R79; 11_checkpoint R246, R253, R254): the group
and block records, the pieces of a part and where they lie, and a part read back. Places that R79 leaves to the device are those of
notes/assumptions 47. -/

namespace Sys2Proof.Machine

open Sys2Proof

/-! ## Fields of a record -/

/-- A field of a record: its offset, its bytes, and its place in the thing recorded. -/
structure Field (α : Type) where
  off : Nat
  size : Nat
  get : α → Nat
  set : Nat → α → α

/-- Bytes cut or filled with zeros to a length. -/
def fillTo (n : Nat) (bs : List Byte) : List Byte := bs.take n ++ List.replicate (n - bs.length) 0

/-- A record of `n` bytes from its fields, which stand in rising order. -/
def encodeFields {α : Type} (n : Nat) (l : List (Field α)) (x : α) : List Byte :=
  fillTo n (l.foldl (fun bs f => fillTo f.off bs ++ leBytes f.size (f.get x)) [])

/-- The fields of a record taken from its bytes. -/
def decodeFields {α : Type} (l : List (Field α)) (bs : List Byte) (x : α) : α :=
  l.foldl (fun x f => f.set (leNat ((bs.drop f.off).take f.size)) x) x

/-- Little-endian dwords and words of bytes. -/
def leDwords (n : Nat) (bs : List Byte) : List W64 := (List.range n).map (fun k => BitVec.ofNat 64 (leNat ((bs.drop (8 * k)).take 8)))
/-- Little-endian words of bytes. -/
def leWords (n : Nat) (bs : List Byte) : List W32 := (List.range n).map (fun k => BitVec.ofNat 32 (leNat ((bs.drop (4 * k)).take 4)))
/-- The bytes of dwords. -/
def dwordBytes (l : List W64) : List Byte := (l.map (fun x => leBytes 8 x.toNat)).flatten
/-- The bytes of words. -/
def wordBytes (l : List W32) : List Byte := (l.map (fun x => leBytes 4 x.toNat)).flatten
/-- A vector from a list. -/
def vecOf {n : Nat} {α : Type} (d : α) (l : List α) : Vector α n := Vector.ofFn (fun i => l.getD i.val d)
/-- A flag as a number. -/
def flag (b : Bool) : Nat := if b then 1 else 0

/-! ## Group records (R79) -/

/-- A field of a path's control part in bytes 0x000 to 0x07F of its group record. -/
def ctlField (sec : Bool) (off size : Nat) (get : Ctl → Nat) (set : Nat → Ctl → Ctl) : Field Group :=
  { off := off, size := size, get := fun g => get (g.path sec).ctl,
    set := fun n g => g.setPath sec { g.path sec with ctl := set n (g.path sec).ctl } }

/-- A field of a path in those bytes. -/
def pathField (sec : Bool) (off size : Nat) (get : Path → Nat) (set : Nat → Path → Path) : Field Group :=
  { off := off, size := size, get := fun g => get (g.path sec), set := fun n g => g.setPath sec (set n (g.path sec)) }

/-- R79: the latch valid marks: path 0 in bits 3:0, path 1 in bits 7:4. -/
def validMarks (g : Group) : Nat :=
  (([g.path0, g.path1].map (fun p => p.latches.toList.map (fun x => flag x.valid))).flatten).foldr (fun b n => b + 2 * n) 0

/-- R65: the counters of a stream, 10 bits each from LC up. -/
def cntBits (l : List OutOp) : Nat :=
  [Cls.lc, Cls.sc, Cls.ac, Cls.cc].foldr (fun c n => (l.filter (fun o => o.cls == c)).length % 1024 + 1024 * n) 0

/-- R60, R79: bytes 0x000 to 0x07F of a group record. -/
def groupHead : List (Field Group) :=
  [ ctlField false 0 8 (fun c => c.pc.toNat) (fun n c => { c with pc := BitVec.ofNat 64 n }),
    ctlField true 8 8 (fun c => c.pc.toNat) (fun n c => { c with pc := BitVec.ofNat 64 n }),
    { off := 16, size := 8, get := Group.gwmax, set := fun n g => { g with gwmax := n } },
    { off := 24, size := 8, get := fun g => g.tbase.toNat, set := fun n g => { g with tbase := BitVec.ofNat 64 n } },
    { off := 32, size := 8, get := fun g => g.join.toNat, set := fun n g => { g with join := BitVec.ofNat 64 n } },
    { off := 40, size := 8, get := fun g => cntBits g.ops, set := fun _ g => g },
    pathField false 48 4 (fun p => p.mask.toNat) (fun n p => { p with mask := BitVec.ofNat 32 n }),
    pathField true 52 4 (fun p => p.mask.toNat) (fun n p => { p with mask := BitVec.ofNat 32 n }),
    pathField false 56 4 (fun p => p.brand.toNat) (fun n p => { p with brand := BitVec.ofNat 32 n }),
    pathField true 60 4 (fun p => p.brand.toNat) (fun n p => { p with brand := BitVec.ofNat 32 n }),
    { off := 64, size := 4, get := fun g => g.dead.toNat, set := fun n g => { g with dead := BitVec.ofNat 32 n } },
    { off := 68, size := 4, get := fun g => g.pmask.toNat, set := fun n g => { g with pmask := BitVec.ofNat 32 n } },
    { off := 72, size := 4, get := fun g => g.gstat.toNat, set := fun n g => { g with gstat := BitVec.ofNat 32 n } },
    { off := 76, size := 4, get := fun g => g.fin.toNat, set := fun n g => { g with fin := BitVec.ofNat 32 n } },
    { off := 80, size := 2, get := fun g => g.mode.toNat, set := fun n g => { g with mode := BitVec.ofNat 16 n } },
    { off := 82, size := 2, get := Group.abase, set := fun n g => { g with abase := n } },
    { off := 84, size := 2, get := Group.alim, set := fun n g => { g with alim := n } },
    pathField false 86 2 (fun p => p.win.1) (fun n p => { p with win := (n, p.win.2) }),
    pathField false 88 2 (fun p => p.win.2) (fun n p => { p with win := (p.win.1, n) }),
    pathField true 90 2 (fun p => p.win.1) (fun n p => { p with win := (n, p.win.2) }),
    pathField true 92 2 (fun p => p.win.2) (fun n p => { p with win := (p.win.1, n) }),
    ctlField false 94 1 (fun c => c.runPos) (fun n c => { c with runPos := n }),
    ctlField true 95 1 (fun c => c.runPos) (fun n c => { c with runPos := n }),
    ctlField false 96 2 (fun c => c.retSpill) (fun n c => { c with retSpill := n }),
    ctlField true 98 2 (fun c => c.retSpill) (fun n c => { c with retSpill := n }),
    pathField false 100 2 (fun p => p.divSpill) (fun n p => { p with divSpill := n }),
    pathField true 102 2 (fun p => p.divSpill) (fun n p => { p with divSpill := n }),
    ctlField false 104 2 (fun c => c.mine.toNat) (fun n c => { c with mine := BitVec.ofNat 16 n }),
    ctlField true 106 2 (fun c => c.mine.toNat) (fun n c => { c with mine := BitVec.ofNat 16 n }),
    ctlField false 108 2 (fun c => c.pend.toNat) (fun n c => { c with pend := BitVec.ofNat 16 n }),
    ctlField true 110 2 (fun c => c.pend.toNat) (fun n c => { c with pend := BitVec.ofNat 16 n }),
    { off := 112, size := 1, get := fun g => flag g.split, set := fun n g => { g with split := n != 0 } },
    ctlField false 113 1 (fun c => flag c.handler) (fun n c => { c with handler := n != 0 }),
    ctlField true 114 1 (fun c => flag c.handler) (fun n c => { c with handler := n != 0 }),
    { off := 115, size := 1, get := validMarks, set := fun _ g => g },
    { off := 116, size := 1, get := fun g => g.path0.div.length, set := fun _ g => g },
    { off := 117, size := 1, get := fun g => g.path1.div.length, set := fun _ g => g },
    { off := 118, size := 1, get := fun g => g.path0.ctl.ret.length, set := fun _ g => g },
    { off := 119, size := 1, get := fun g => g.path1.ctl.ret.length, set := fun _ g => g },
    { off := 120, size := 1, get := fun g => flag g.retired, set := fun n g => { g with retired := n != 0 } },
    ctlField false 121 1 (fun c => flag c.inRun + 2 * flag c.ended) (fun n c => { c with inRun := n.testBit 0, ended := n.testBit 1 }),
    ctlField true 122 1 (fun c => flag c.inRun + 2 * flag c.ended) (fun n c => { c with inRun := n.testBit 0, ended := n.testBit 1 }),
    { off := 124, size := 4, get := fun g => g.records.toNat, set := fun n g => { g with records := BitVec.ofNat 32 n } } ]

/-- R79: the bytes of a path's hardware divergence entries, the oldest first. -/
def divImage (p : Path) : List Byte := fillTo 256 ((p.div.reverse.map divBytes).flatten)
/-- R79: the bytes of a path's hardware return entries, the oldest first. -/
def retImage (c : Ctl) : List Byte := fillTo 64 (dwordBytes c.ret.reverse)

/-- R79: a group record. -/
def groupRecord (g : Group) : List Byte :=
  encodeFields 128 groupHead g ++ dwordBytes g.s.toList ++ wordBytes g.p.toList ++ dwordBytes g.k.toList ++
    (([g.path0, g.path1].map (fun p => (p.latches.toList.map (fun x => dwordBytes x.val.toList)).flatten)).flatten) ++
    divImage g.path0 ++ divImage g.path1 ++ retImage g.path0.ctl ++ retImage g.path1.ctl ++ List.replicate 896 0 ++
    (g.v.map (fun r => wordBytes r.toList)).flatten

/-- R79: the granules of a group record. -/
def groupGrans (g : Group) : Nat := 32 + g.v.length

/-- R79: a granule of a record. -/
def granOf (k : Nat) (bs : List Byte) : List Byte := (bs.drop (128 * k)).take 128

/-- R79: a path with the latches, divergence entries and return entries of a group record. -/
def Path.load (p : Path) (bs : List Byte) (second : Bool) : Path :=
  let at' (off n : Nat) : List Byte := (bs.drop off).take n
  let marks := leNat (at' 115 1)
  let k := flag second
  let divs := (List.range (leNat (at' (116 + k) 1))).map (fun i => divOfBytes (at' (0xA00 + 256 * k + 32 * i) 32))
  { p with
    latches := Vector.ofFn (fun i => { valid := marks.testBit (4 * k + i.val),
                                       val := vecOf 0 (leDwords 32 (at' (0x200 + 1024 * k + 256 * i.val) 256)) })
    div := divs.reverse
    ctl := { p.ctl with ret := (leDwords (leNat (at' (118 + k) 1)) (at' (0xC00 + 64 * k) 64)).reverse } }

/-- R79, R260: a group restored from the bytes of its record. -/
def Group.load (g : Group) (bs : List Byte) : Group :=
  let g := decodeFields groupHead (bs.take 128) g
  { g with
    s := vecOf 0 (leDwords 32 (bs.drop 0x080))
    p := vecOf 0 (leWords 16 (bs.drop 0x180))
    k := vecOf 0 (leDwords 8 (bs.drop 0x1C0))
    path0 := g.path0.load bs false
    path1 := g.path1.load bs true
    v := (List.range g.v.length).map (fun r => vecOf 0 (leWords 32 ((bs.drop (0x1000 + 128 * r)).take 128)))
    gran := [] }

/-! ## Block records (R79) -/

/-- R79: the declared resources, and what the block is, in bytes 0 to 127 of its header; `cl` is its cluster-relative index, and its record
number counts from `base`. -/
def blockIdent (base blk cl : Nat) (b : Block) : List Byte :=
  let d := b.decl
  fillTo 128 (leBytes 8 b.lin ++ leBytes 4 b.grid ++ leBytes 2 cl ++ leBytes 2 (flag (b.stat == .swapped)) ++ leBytes 8 (blk - base) ++
    leBytes 1 d.groups ++ leBytes 1 d.vregs ++ leBytes 1 d.sregs ++ leBytes 1 d.barriers ++ leBytes 1 d.channels ++ leBytes 1 d.access ++
    leBytes 2 d.chanMask.toNat ++ leBytes 4 d.scratch ++ leBytes 4 d.acc ++ leBytes 4 d.spill ++ leBytes 2 d.recSize ++
    leBytes 2 (flag d.idem + 2 * flag d.paired + 4 * flag d.node) ++ leBytes 8 d.bellEntry.toNat ++ leBytes 8 d.groupEntry.toNat ++
    leBytes 4 d.dispatch ++ leBytes 4 b.frame ++ leBytes 1 (flag b.bell.ctl.inRun + 2 * flag b.bell.ctl.ended + 4 * flag b.bell.hbar.isSome) ++
    leBytes 1 (match b.pair with | some p => if p.isThird then 3 else if p.primary then 1 else 2 | none => 0) ++
    leBytes 8 (match b.pair with | some p => p.mate - base | none => 0))

/-- R79: the declared resources from a block header. -/
def imageDecl (bs : List Byte) : Decl :=
  let f (off n : Nat) : Nat := leNat ((bs.drop off).take n)
  { groups := f 24 1, vregs := f 25 1, sregs := f 26 1, barriers := f 27 1, channels := f 28 1, access := f 29 1, chanMask := BitVec.ofNat 16 (f 30 2),
    scratch := f 32 4, acc := f 36 4, spill := f 40 4, recSize := f 44 2, idem := (f 46 2).testBit 0, paired := (f 46 2).testBit 1,
    node := (f 46 2).testBit 2, bellEntry := BitVec.ofNat 64 (f 48 8), groupEntry := BitVec.ofNat 64 (f 56 8), dispatch := f 64 4 }

/-- R75, R79, R184: the scalar state of the bellwether, its GWMAX and counters last. -/
def bellHead : List (Field Bell) :=
  [ { off := 0, size := 8, get := fun b => b.ctl.pc.toNat, set := fun n b => { b with ctl := { b.ctl with pc := BitVec.ofNat 64 n } } },
    { off := 8, size := 8, get := fun b => b.tbase.toNat, set := fun n b => { b with tbase := BitVec.ofNat 64 n } },
    { off := 16, size := 4, get := fun b => b.mbatch.toNat, set := fun n b => { b with mbatch := BitVec.ofNat 32 n } },
    { off := 20, size := 2, get := fun b => b.mode.toNat, set := fun n b => { b with mode := BitVec.ofNat 16 n } },
    { off := 22, size := 1, get := fun b => b.q.toNat, set := fun n b => { b with q := BitVec.ofNat 8 n } },
    { off := 23, size := 1, get := fun b => flag b.ctl.handler, set := fun n b => { b with ctl := { b.ctl with handler := n != 0 } } },
    { off := 24, size := 1, get := fun b => b.ctl.runPos, set := fun n b => { b with ctl := { b.ctl with runPos := n } } },
    { off := 25, size := 1, get := fun b => b.ctl.ret.length, set := fun _ b => b },
    { off := 26, size := 2, get := fun b => b.ctl.retSpill, set := fun n b => { b with ctl := { b.ctl with retSpill := n } } },
    { off := 28, size := 2, get := fun b => b.ctl.mine.toNat, set := fun n b => { b with ctl := { b.ctl with mine := BitVec.ofNat 16 n } } },
    { off := 30, size := 2, get := fun b => b.ctl.pend.toNat, set := fun n b => { b with ctl := { b.ctl with pend := BitVec.ofNat 16 n } } },
    { off := 32, size := 8, get := fun b => b.gwmax, set := fun n b => { b with gwmax := n } },
    { off := 40, size := 8, get := fun b => cntBits b.ops, set := fun _ b => b } ]

/-- R75, R79: the bellwether state of a block header. -/
def bellImage (b : Bell) : List Byte :=
  dwordBytes b.w.toList ++ dwordBytes b.h.toList ++ dwordBytes b.k.toList ++ encodeFields 48 bellHead b ++ wordBytes b.rprog.toList ++
    retImage b.ctl

/-- R75, R260: a bellwether restored from the bytes of its block header. -/
def Bell.load (b : Bell) (bs : List Byte) : Bell :=
  let b := decodeFields bellHead ((bs.drop 640).take 48) b
  { b with
    w := vecOf 0 (leDwords 64 bs)
    h := vecOf 0 (leDwords 8 (bs.drop 512))
    k := vecOf 0 (leDwords 8 (bs.drop 576))
    rprog := vecOf 0 (leWords 4 (bs.drop 688))
    ctl := { b.ctl with ret := (leDwords (leNat ((bs.drop 665).take 1)) (bs.drop 704)).reverse } }

/-- R79, R133, R243: a matrix operation in 36 bytes: its kind, slot, settings, progress, first row, batch and the first three words of its
descriptor. -/
def mopImage (o : MOp) : List Byte :=
  let head (tag a row : Nat) : List Byte :=
    leBytes 1 tag ++ leBytes 1 (match o.slot with | some r => r + 1 | none => 0) ++ leBytes 2 (a + 2 ^ 15 * flag o.failed) ++ leBytes 2 o.prog ++
      leBytes 2 row ++ leBytes 4 (match o.batch with | some n => n.toNat | none => 0)
  fillTo 36 (match o.kind with
  | .wld bank addr cs ss fmt sptr => head 1 (flag bank) 0 ++ dwordBytes [addr, BitVec.ofNat 64 (cs + 2 ^ 32 * ss), BitVec.ofNat 64 (sptr.toNat / 16 * 16 + fmt)]
  | .mstr bank addr stride m fmt sptr row0 fresh =>
    head 2 (flag bank + 2 * flag fresh) row0 ++ dwordBytes [addr, BitVec.ofNat 64 (stride + 2 ^ 32 * m), BitVec.ofNat 64 (sptr.toNat / 16 * 16 + fmt)]
  | .mdrn addr stride m fmt rnd sat opn scratch scope row0 =>
    head 3 (opn + 4 * flag scratch + 8 * scope + 64 * flag sat + 128 * rnd) row0 ++ dwordBytes [addr, BitVec.ofNat 64 (stride + 2 ^ 32 * m), BitVec.ofNat 64 fmt]
  | .mclr row count => head 4 0 row ++ dwordBytes [BitVec.ofNat 64 count])

/-- R79, R260: a matrix operation from its bytes; none where there is none. -/
def mopOf (bs : List Byte) : Option MOp :=
  let f (off n : Nat) : Nat := leNat ((bs.drop off).take n)
  let a := f 2 2
  let addr : W64 := BitVec.ofNat 64 (f 12 8)
  let sptr : W64 := BitVec.ofNat 64 (f 28 8 / 16 * 16)
  let kind : Option MKind := match f 0 1 with
    | 1 => some (.wld (a.testBit 0) addr (f 20 4) (f 24 4) (f 28 1 % 16) sptr)
    | 2 => some (.mstr (a.testBit 0) addr (f 20 4) (f 24 4) (f 28 1 % 16) sptr (f 6 2) (a.testBit 1))
    | 3 => some (.mdrn addr (f 20 4) (f 24 4) (f 28 1 % 16) (a / 128 % 4) (a.testBit 6) (a % 4) (a.testBit 2) (a / 8 % 8) (f 6 2))
    | 4 => some (.mclr (f 6 2) (f 12 8))
    | _ => none
  kind.map (fun k =>
    { id := 0, seq := 0, kind := k, prog := f 4 2, slot := if f 1 1 == 0 then none else some (f 1 1 - 1),
      batch := if f 8 4 == 0 then none else some (BitVec.ofNat 32 (f 8 4)), failed := a.testBit 15, entered := false, performed := false, g := 0,
      lines := [], req := none, outcomes := [] })

/-- R79, R127: the last WLD of a bank in 32 bytes; zeros when there is none. -/
def bankImage (d : Option BankDesc) : List Byte :=
  fillTo 32 (match d with
  | some d => dwordBytes [d.addr, BitVec.ofNat 64 (d.cstride + 2 ^ 32 * d.sstride), BitVec.ofNat 64 (d.fmt + 1), d.sptr]
  | none => [])

/-- R79, R127: the last WLD of a bank from its bytes. -/
def bankDescOf (bs : List Byte) : Option BankDesc :=
  let f (off n : Nat) : Nat := leNat ((bs.drop off).take n)
  if f 16 8 == 0 then none
  else some { addr := BitVec.ofNat 64 (f 0 8), cstride := f 8 4, sstride := f 12 4, fmt := f 16 8 - 1, sptr := BitVec.ofNat 64 (f 24 8) }

/-- R79, R166, R238: a named barrier in 24 bytes. -/
def nbarImage (n : NBar) : List Byte :=
  leBytes 2 n.exp ++ leBytes 2 (flag n.phase) ++ leBytes 4 n.users.toNat ++ leBytes 4 n.standing.toNat ++ leBytes 4 n.counted.toNat ++ leBytes 8 n.arr

/-- R79, R166, R238: a named barrier from its bytes. -/
def nbarOf (bs : List Byte) : NBar :=
  let f (off n : Nat) : Nat := leNat ((bs.drop off).take n)
  { exp := f 0 2, arr := f 16 8, phase := f 2 2 != 0, users := BitVec.ofNat 32 (f 4 4), standing := BitVec.ofNat 32 (f 8 4),
    counted := BitVec.ofNat 32 (f 12 4) }

/-- R149: a window descriptor's fields: first line, lines, ACC; none while it is not valid. -/
def windowOf (d : BitVec 128) : Option (Nat × Nat × Nat) :=
  if d.getLsbD 0 then some (d.toNat / 128 % 2 ^ 17, d.toNat / 2 ^ 32 % 2 ^ 12 + 1, d.toNat / 2 % 4) else none

/-- R149, R150: the lines of a block's valid windows, those of the first window first. -/
def scratchWindows (wdesc : Vector (BitVec 128) 8) : List Nat :=
  ((wdesc.toList.filterMap windowOf).map (fun w => (List.range w.2.1).map (fun k => w.1 + k))).flatten

/-- R79, R150: the writer tags of the lines of a block's windows, 4 bits each: the cluster-relative index of the block that may write. -/
def tagImage (cl : Nat) (b : Block) : List Byte :=
  leBytes 1024 (((scratchWindows b.wdesc).zipIdx).foldl (fun n x => n + 16 ^ x.2 * ((assocGet b.tags x.1).getD cl % 16)) 0)

/-- R79, R150: the writer tags from their bytes. -/
def tagsOf (cl : Nat) (wdesc : Vector (BitVec 128) 8) (bs : List Byte) : List (Nat × Nat) :=
  ((scratchWindows wdesc).zipIdx).filterMap (fun x =>
    let t := leNat ((bs.drop (x.2 / 2)).take 1) / 16 ^ (x.2 % 2) % 16
    if t == cl then none else some (x.1, t))

/-- R32, R79: what a block's launch has given it, in 128 bytes: the grid's dimensions, cluster, spill areas and launch values, its phase,
and the packet that launched it. -/
def gridImage (g : Grid) : List Byte :=
  fillTo 128 (leBytes 4 g.dimX ++ leBytes 2 g.dimY ++ leBytes 2 g.dimZ ++ leBytes 1 g.cluster ++ leBytes 1 (flag g.graph) ++
    leBytes 2 (match g.node with | some n => n + 1 | none => 0) ++ leBytes 4 g.spillN ++ leBytes 8 g.spillBase.toNat ++ dwordBytes g.h.toList ++
    leBytes 8 g.phase ++ leBytes 4 (match g.pkt with | some p => p.queue + 1 | none => 0) ++ leBytes 4 (match g.pkt with | some p => p.slot | none => 0) ++
    leBytes 8 g.next ++ leBytes 8 g.seq)

/-- R32, R79, R259: a grid of a context from the bytes of one of its blocks' records. -/
def gridFrom (ci : Nat) (d : Decl) (bs : List Byte) : Grid :=
  let f (off n : Nat) : Nat := leNat ((bs.drop off).take n)
  { ctx := ci, dimX := f 0 4, dimY := f 4 2, dimZ := f 6 2, cluster := f 8 1, decl := d,
    h := vecOf 0 (leDwords 8 (bs.drop 24)), spillN := f 12 4, spillBase := BitVec.ofNat 64 (f 16 8), next := f 104 8, redo := [], phase := f 88 8,
    arrived := [], told := none, node := if f 10 2 == 0 then none else some (f 10 2 - 1), formed := [],
    pkt := if f 96 4 == 0 then none else some { ctx := ci, queue := f 96 4 - 1, slot := f 100 4 },
    graph := f 9 1 != 0, complete := false, drain := none, seq := f 112 8, moved := false }

/-- R79, R157: the locks that a block holds, by number and place, in 120 bytes. -/
def locksImage (l : List HeldLock) : List Byte :=
  fillTo 120 ((l.filter (fun h => h.asker.isNone)).map (fun h => leBytes 2 (h.num + 1) ++ leBytes 4 h.off)).flatten

/-- R79, R157: the locks from their bytes; their ranges are those that their descriptors give, and every line counts as marked. -/
def locksOf (bs : List Byte) : List HeldLock :=
  (List.range 20).filterMap (fun k =>
    let n := leNat ((bs.drop (6 * k)).take 2)
    if n == 0 then none
    else some { num := n - 1, off := leNat ((bs.drop (6 * k + 2)).take 4), ranges := [], marked := [], asker := none, word := 0, rel := none,
                giver := none })

/-- R79: a block header of a block of a grid. -/
def blockHeader (base blk cl : Nat) (g : Option Grid) (b : Block) : List Byte :=
  let kept := b.mops.filter (fun o => !o.performed)
  fillTo 4096 (blockIdent base blk cl b ++ bellImage b.bell ++
    ((List.range 4).map (fun r => fillTo 36 (((kept.find? (fun o => o.slot == some r)).map mopImage).getD []))).flatten ++
    bankImage b.bankDesc[0] ++ bankImage b.bankDesc[1] ++
    (List.range 16).map (fun c => BitVec.ofNat 8 (b.chans.getD c []).length) ++
    fillTo 384 ((b.bars.map nbarImage).flatten) ++
    (b.wdesc.toList.map (fun w => leBytes 16 w.toNat)).flatten ++ leBytes 16 b.creg.toNat ++ leBytes 4 b.resv.toNat ++ leBytes 4 b.head.toNat ++
    leBytes 4 b.tail.toNat ++ leBytes 4 b.retired.toNat ++
    fillTo 8 (b.pendFmt.toList.map (fun f => BitVec.ofNat 8 (match f with | some n => n + 1 | none => 0))) ++
    tagImage cl b ++ fillTo 1152 ((kept.map mopImage).flatten) ++ fillTo 128 ((g.map gridImage).getD []) ++
    locksImage b.locks)

/-- R39, R79: a channel entry in 128 bytes. -/
def chanBytes (e : ChanEntry) : List Byte :=
  match e with
  | .sc v => fillTo 128 (leBytes 8 v.toNat)
  | .vec v => wordBytes v.toList

/-- R39, R79: a channel entry from its bytes. -/
def chanEntryOf (vec : Bool) (bs : List Byte) : ChanEntry :=
  if vec then .vec (vecOf 0 (leWords 32 bs)) else .sc (BitVec.ofNat 64 (leNat (bs.take 8)))

/-- R79, R124, R148, R150, R260: a block restored from the bytes of its header; its channels have the entries that `ents` gives. Its matrix
operations keep the numbers that the model has given them. -/
def Block.load (b : Block) (bs : List Byte) (ents : Nat → List Byte) : Block :=
  let at' (off n : Nat) : List Byte := (bs.drop off).take n
  let f (off n : Nat) : Nat := leNat (at' off n)
  let wdesc : Vector (BitVec 128) 8 := Vector.ofFn (fun k => BitVec.ofNat 128 (f (1504 + 16 * k.val) 16))
  { b with
    bell := b.bell.load (at' 128 768)
    bankDesc := #v[bankDescOf (at' 1040 32), bankDescOf (at' 1072 32)]
    chans := b.chans.mapIdx (fun c _ => (List.range (f (1104 + c) 1)).map (fun k => chanEntryOf (b.decl.chanMask.getLsbD c) ((ents c).drop (128 * k))))
    bars := b.bars.mapIdx (fun k _ => nbarOf (at' (1120 + 24 * k) 24))
    wdesc := wdesc
    creg := BitVec.ofNat 128 (f 1632 16)
    resv := BitVec.ofNat 32 (f 1648 4)
    head := BitVec.ofNat 32 (f 1652 4)
    tail := BitVec.ofNat 32 (f 1656 4)
    retired := BitVec.ofNat 32 (f 1660 4)
    pendFmt := Vector.ofFn (fun k => match f (1664 + k.val) 1 with | 0 => none | n + 1 => some n)
    tags := tagsOf (f 12 2) wdesc (at' 1672 1024)
    mops := ((List.range 32).filterMap (fun k => mopOf (at' (2696 + 36 * k) 36))).mapIdx (fun k o =>
      match b.mops[k]? with | some q => { o with id := q.id, seq := q.seq } | none => o) }

/-- R79: the bytes of a record's part filled up to a 4 KiB boundary. -/
def pageFill (bs : List Byte) : List Byte := fillTo ((bs.length + 4095) / 4096 * 4096) bs

/-- R79, R267: a whole block record: header, channels, group records, scratchpad and accumulator rows, the scratchpad on a 4 KiB boundary. -/
def blockRecord (base blk cl : Nat) (g : Option Grid) (b : Block) : List Byte :=
  pageFill (pageFill (blockHeader base blk cl g b ++ ((List.range 16).map (fun c => fillTo 1024 (((b.chans.getD c []).map chanBytes).flatten))).flatten ++
    (b.groups.map groupRecord).flatten) ++ cellsRead b.scratch 0 b.decl.scratch ++
    wordBytes ((List.range (128 * b.decl.acc)).map (fun i => accGet b blk (i / 128) (i % 128))))

/-- R79: the bytes of a block record. -/
def recordSize (d : Decl) : Nat :=
  (0x5000 + (4096 + 128 * d.vregs) * d.groups + 4095) / 4096 * 4096 + (d.scratch + 512 * d.acc + 4095) / 4096 * 4096

/-! ## The context header (R79) -/

/-- R79, R257, R277: a queue's state in 32 bytes: its number, HEAD, DONE, STATE and PROG. -/
def queueImage (q : Queue) : List Byte :=
  fillTo 32 (leBytes 4 q.queue ++ leBytes 4 q.head.toNat ++ leBytes 4 q.done.toNat ++ leBytes 4 q.state ++ leBytes 8 q.prog)

/-- R79: a context header: the image's size, its block count, FT of the cut, FEATMASK, the offsets of the block records, and the queues. -/
def contextHeader (ft : Nat) (fm : W64) (recs : List Decl) (queues : List Queue) : List Byte :=
  let offs := recs.foldl (fun (r : List Nat × Nat) d => (r.1 ++ [r.2], r.2 + recordSize d)) ([], 532480)
  fillTo 4096 (leBytes 8 offs.2 ++ leBytes 8 recs.length ++ leBytes 8 ft ++ leBytes 8 fm.toNat ++ leBytes 8 queues.length ++
    (offs.1.map (leBytes 8)).flatten ++ (queues.map queueImage).flatten)

/-! ## CRC-32C (R253, R266) -/

/-- R101, R253, R266: crc32c over bytes, without a final inversion. -/
def crcBytes (crc : W32) (bs : List Byte) : W32 :=
  bs.foldl (fun c b => (List.range 8).foldl (fun c _ => if c.getLsbD 0 then (c >>> 1) ^^^ 0x82F63B78#32 else c >>> 1) (c ^^^ b.setWidth 32)) crc

/-! ## Parts of an increment (R246, R253) -/

/-- R79, R157: the blocks of a context that have records: resident or swapped. A spec-free choice: the order in which they were made
(notes/assumptions 92). -/
def liveBlocks (s : State) (ci : Nat) : List (Nat × Block) :=
  ((s.blocks.zipIdx).filter (fun x => x.1.ctx == ci && (x.1.stat == .resident || x.1.stat == .swapped))).map (fun x => (x.2, x.1))

/-- Elements in ascending order of a key, those of one key as they stood. -/
def sortBy {α : Type} (lt : α → α → Bool) (l : List α) : List α :=
  l.foldl (fun r x => r.takeWhile (fun y => !lt x y) ++ [x] ++ r.dropWhile (fun y => !lt x y)) []

/-- R251: blocks in ascending linear index, those of one index by their numbers. -/
def byLin (l : List (Nat × Block)) : List (Nat × Block) :=
  sortBy (fun a b => decide (a.2.lin < b.2.lin) || (a.2.lin == b.2.lin && decide (a.1 < b.1))) l

/-- R246: the granules that a cut stages of a group: the first, and those written since the last cut. -/
def stagedGrans (b : Block) (g : Group) : List Nat :=
  if b.newborn then List.range (groupGrans g) else sortBy (fun a b => decide (a < b)) (0 :: g.gran.filter (· != 0))

/-- R246: the granules that a cut stages. -/
def granItems (l : List (Nat × Block)) : List (Item × Nat) :=
  (l.map (fun x => ((x.2.groups.zipIdx).map (fun (y : Group × Nat) => (stagedGrans x.2 y.1).map (fun k => (Item.gran x.1 y.2 k, 0)))).flatten)).flatten

/-- R251: an item with its sub-blocks. -/
def subItems (i : Item) : List (Item × Nat) :=
  match i with
  | .page _ => (List.range 16).map (fun k => (i, k))
  | _ => [(i, 0)]

/-- A bitmap of numbers. -/
def bitmapOf (l : List Nat) : Nat := l.foldl (fun n k => if n.testBit k then n else n + 2 ^ k) 0

/-- R253: the bytes of a bitmap of `n` bits. -/
def mapBytes (n : Nat) : Nat := (n + 63) / 64 * 8

/-- R253: the sizes of the maps of a group record, a scratchpad and an accumulator store. -/
def granMapSize : Nat := 24
/-- R253: the bytes of a line bitmap. -/
def lineMapSize (b : Block) : Nat := mapBytes (b.decl.scratch / 128)
/-- R253: the bytes of a row-group bitmap. -/
def accMapSize (b : Block) : Nat := mapBytes (b.decl.acc / 8)

/-- R246, R253: the staged state of a block: its header, its occupied channels, and its granules. -/
def stagedPieces (todo : List (Item × Nat)) (x : Nat × Block) : List (PieceKind × Nat) :=
  (PieceKind.blockHead x.1, 4096) ::
    ((List.range 16).filter (fun c => !(x.2.chans.getD c []).isEmpty)).map (fun c => (PieceKind.chan x.1 c, 128 * (x.2.chans.getD c []).length)) ++
    ((x.2.groups.zipIdx).map (fun (y : Group × Nat) =>
      let ks := (List.range (groupGrans y.1)).filter (fun k => todo.contains (.gran x.1 y.2 k, 0))
      (PieceKind.granMap x.1 y.2 (bitmapOf ks), granMapSize) :: ks.map (fun k => (PieceKind.item (.gran x.1 y.2 k) 0, 128)))).flatten

/-- R253: a block's marked scratchpad lines. -/
def scratchPieces (todo : List (Item × Nat)) (x : Nat × Block) : List (PieceKind × Nat) :=
  let ks := sortBy (fun a b => decide (a < b)) (todo.filterMap (fun t => match t.1 with | .scratch k l => if k == x.1 then some l else none | _ => none))
  (PieceKind.lineMap x.1 (bitmapOf ks), lineMapSize x.2) :: ks.map (fun l => (PieceKind.item (.scratch x.1 l) 0, 128))

/-- R253: a block's marked accumulator row groups. -/
def accPieces (todo : List (Item × Nat)) (x : Nat × Block) : List (PieceKind × Nat) :=
  let ks := sortBy (fun a b => decide (a < b)) (todo.filterMap (fun t => match t.1 with | .acc k j => if k == x.1 then some j else none | _ => none))
  (PieceKind.accMap x.1 (bitmapOf ks), accMapSize x.2) :: ks.map (fun j => (PieceKind.item (.acc x.1 j) 0, 4096))

/-- R253: the pages of a part, in ascending intermediate address. -/
def pagePieces (ias : List Nat) : List (PieceKind × Nat) :=
  ((sortBy (fun a b => decide (a < b)) ias).map (fun ia =>
    (PieceKind.pageAddr ia, 8) :: (List.range 16).map (fun k => (PieceKind.item (.page ia) k, 4096)))).flatten

/-- R253: the sum of the sizes of pieces. -/
def piecesSize (l : List (PieceKind × Nat)) : Nat := (l.map Prod.snd).foldl (· + ·) 0

/-- R253: the die whose part holds a page. -/
def pageDie (s : State) (c : Ctx) (ia : Nat) : Nat :=
  match c.desc.cset.find? (fun e => e.1 == ia) with
  | some e => (match region s e.2 with | .hbm d => d | _ => 0)
  | none => 0

/-- R253: the pieces of one die's part in the order of their writing (R251), the trailer last; the context tables go with the
placement's first die (notes/assumptions 40). -/
def diePieces (s : State) (c : Ctx) (blocks : List (Nat × Block)) (todo : List (Item × Nat)) (first d : Nat) : List (PieceKind × Nat) :=
  let mine := byLin (blocks.filter (fun x => x.2.core / 32 == d))
  let pages := ((todo.filter (fun t => t.2 == 0)).filterMap (fun t => match t.1 with | .page ia => some ia | _ => none)).filter (fun ia => pageDie s c ia == d)
  let staged := (mine.map (stagedPieces todo)).flatten
  let scr := (mine.map (scratchPieces todo)).flatten
  let acc := (mine.map (accPieces todo)).flatten
  let pgs := pagePieces pages
  let tabs := if d == first then (List.range 129).map (fun k => (PieceKind.table k, 4096)) else []
  (PieceKind.header ([staged, scr, acc, pgs, tabs].map piecesSize) (mine.map Prod.fst), 4096) :: staged ++ scr ++ acc ++ pgs ++ tabs ++
    [(PieceKind.trailer, 4096)]

/-- R253: pieces laid one after another. -/
def placePieces (part : Nat) (l : List (PieceKind × Nat)) : List Piece :=
  (l.foldl (fun (r : List Piece × Nat) x => (r.1 ++ [{ part := part, off := r.2, size := x.2, what := x.1 }], r.2 + x.2)) ([], 0)).1

/-- R253, R254: the size of a part, in 4 KiB units. -/
def partSize (l : List (PieceKind × Nat)) : Nat := (piecesSize l + 4095) / 4096 * 4096

/-- R285: the compute dies that hold cores of a placement, ascending. -/
def placeDies (cores : BitVec 128) : List Nat :=
  (List.range 4).filter (fun d => (List.range 32).any (fun k => cores.getLsbD (32 * d + k)))

/-- R253, R254: the pieces of the part of each die of the package. -/
def cutPieces (s : State) (c : Ctx) (blocks : List (Nat × Block)) (todo : List (Item × Nat)) : List (List (PieceKind × Nat)) :=
  (List.range 4).map (diePieces s c blocks todo ((placeDies c.desc.cores).headD 0))

/-- R248, R253: the items that a cut taken now would stream; the first increment holds every page. -/
def cutItems (c : Ctx) : List Item :=
  if c.lastCut == 0 then c.cur.filter (fun i => match i with | .page _ => false | _ => true) ++ c.desc.cset.map (fun e => Item.page e.1)
  else c.cur

/-- R247: the cores whose partials are a context's: those that hold it, or held it last. -/
def ctxCores (s : State) (ci : Nat) : List Nat :=
  (List.range s.cores.length).filter (fun k => (s.cores[k]?).bind Core.ctx == some ci ||
    s.blocks.any (fun b => b.ctx == ci && b.core == k && b.stat == .resident))

/-- R246: the registers of a block that await data at the stop. -/
def lateOps (blk : Nat) (b : Block) : List (Nat × Party × Dst) :=
  let of (w : Who) (l : List OutOp) : List (Nat × Party × Dst) :=
    (l.filter (fun o => !o.done && o.dst != .none)).map (fun o => (o.id, { blk := blk, who := w }, o.dst))
  of .bell b.bell.ops ++ ((b.groups.zipIdx).map (fun (x : Group × Nat) => of (.path x.2 false) x.1.ops)).flatten

/-- R79, R246: the granules of a destination in a group record. -/
def dstGrans : Dst → List Nat
  | .vreg r n => (List.range n).map (fun k => 32 + r + k)
  | .sreg r => [1 + r / 16]
  | .pred _ => [3]
  | .none => []

/-- R246: the granules that await data at the stop: they are staged when those arrive. -/
def lateItems (l : List (Nat × Party × Dst)) : List (Item × Nat) :=
  (l.map (fun x => match x.2.1.who with
    | .path g _ => (dstGrans x.2.2).map (fun k => (Item.gran x.2.1.blk g k, 0))
    | .bell => [])).flatten

/-- R247: the lines of HBM that another package may hold: their entries are not I, and this package does not own them. The device keeps no
list of a context's pages but the checkpoint set, and recalls them all (notes/assumptions 115). -/
def recalledLines (s : State) : List Nat :=
  s.mem.fabricBits.filter (fun l => !(fabOf s l).owns && (match region s (l * 128) with | .hbm _ => true | _ => false))

/-- R244, R247: where what a context has in flight may still write to memory in the closure of a cut taken now: its queued and held writes, its
cores' Herd lines, the lines to be recalled, and the ranges of its locks. -/
def closureWrites (s : State) (ci : Nat) (c : Ctx) : List Nat :=
  let cores := ctxCores s ci
  let mine (p : Party) : Bool := match s.block? p.blk with | some b => b.ctx == ci | none => false
  let range (va n : Nat) : List Nat := (List.range (n / 4096 + 2)).filterMap (fun k =>
    match xlate s .front c (BitVec.ofNat 64 (va / 4096 * 4096 + 4096 * k)) .read false with | .ok (_, l) => some l.pa | .error _ => none)
  (s.mem.writes.filter (fun w => mine w.party)).map QWrite.pa ++ (s.mem.held.filter (fun h => mine h.party)).map (fun h => h.line * 128) ++
    (s.mem.herd.filter (fun h => h.parts.any (fun p => cores.contains p.1))).map (fun h => h.line * 128) ++ (recalledLines s).map (· * 128) ++
    range c.desc.lkbase.toNat (64 * c.desc.lklim) ++
    range c.desc.staging.toNat (((liveBlocks s ci).map (fun x => recordSize x.2.decl)).foldl (· + ·) 0) ++
    ((liveBlocks s ci).map (fun x => (x.2.locks.map (fun h => (h.ranges.map (fun r => range r.1.toNat (128 * r.2))).flatten)).flatten)).flatten

/-- R244, R254: the items that the closure of a cut taken now may still mark: what those writes touch, the copy-ring lines of copies under
way, and the granules of registers that await data. -/
def closureItems (s : State) (ci : Nat) (c : Ctx) : List (Item × Nat) :=
  let pas := closureWrites s ci c
  let live := liveBlocks s ci
  let pages := (c.desc.cset.filter (fun e => pas.any (fun a => decide (e.2 ≤ a) && decide (a < e.2 + 65536)))).map (fun e => Item.page e.1)
  let rings := (live.map (fun x => (x.2.copies.map (fun y => Item.scratch x.1 (y.idx % 64 / 4))).eraseDups)).flatten
  ((pages ++ rings).map subItems).flatten ++ lateItems (live.map (fun x => lateOps x.1 x.2)).flatten

/-- R254: the sizes that the parts of a cut taken now may need, with all that its closure may add. -/
def cutSizes (s : State) (ci : Nat) (c : Ctx) : List Nat :=
  let live := liveBlocks s ci
  (cutPieces s c live (granItems live ++ ((cutItems c).map subItems).flatten ++ closureItems s ci c).eraseDups).map partSize

/-- R254: whether a context's chain directory and region have room for parts of these sizes. -/
def chainRoom (s : State) (c : Ctx) (sizes : List Nat) : Bool :=
  decide (physNat s c.desc.chain 4 + sizes.length ≤ 126) &&
    decide (physNat s (c.desc.chain + 16) 8 + sizes.foldl (· + ·) 0 ≤ physNat s (c.desc.chain + 8) 8)

/-! ## A part read back (R256, R259) -/

/-- R254: a part record: its number in the directory, its cut, part number, state, offset and size. -/
structure PartRec where
  num : Nat
  cut : Nat
  part : Nat
  state : Nat
  off : Nat
  size : Nat
  deriving DecidableEq, Repr

/-- R254: the records of a chain directory. -/
def chainRecs (s : State) (chain : Nat) : List PartRec :=
  (List.range (min (physNat s chain 4) 126)).map (fun u =>
    let a := chain + 64 + 32 * u
    { num := u, cut := physNat s a 8, part := physNat s (a + 8) 4, state := physNat s (a + 12) 4, off := physNat s (a + 16) 8, size := physNat s (a + 24) 8 })

/-- R254: the committed cuts of a chain, the oldest first: every part written, and none discarded. -/
def chainCuts (s : State) (chain : Nat) : List Nat :=
  let l := (chainRecs s chain).filter (fun r => r.state != 2)
  sortBy (fun a b => decide (a < b)) ((l.filter (fun r => (l.filter (fun q => q.cut == r.cut)).all (fun q => q.state == 1))).map PartRec.cut).eraseDups

/-- R254: the written parts of a cut. -/
def cutParts (s : State) (chain n : Nat) : List PartRec := (chainRecs s chain).filter (fun r => r.cut == n && r.state == 1)

/-- R253, R262: the FEATMASK of a part, and how many blocks it lists. -/
def partFeat (s : State) (chain : Nat) (r : PartRec) : Nat × Nat :=
  (physNat s (chain + r.off + 32) 8, physNat s (chain + r.off + 136) 8)

/-- R79, R257: HEAD, DONE and PROG of the queues of a cut, by queue number, as far as the header of a part holds them. -/
def partQueues (s : State) (chain : Nat) (r : PartRec) : List (Nat × Nat × Nat × Nat) :=
  let a := chain + r.off
  let at' := 144 + 8 * (partFeat s chain r).2
  (List.range (min (physNat s (a + 40) 8) ((4096 - at') / 32))).map (fun k =>
    let q := a + at' + 32 * k
    (physNat s q 4, physNat s (q + 4) 4, physNat s (q + 8) 4, physNat s (q + 16) 8))

/-- R253: the numbers set in a bitmap in memory. -/
def setBits (s : State) (a n : Nat) : List Nat := let m := physNat s a (mapBytes n); (List.range n).filter m.testBit

/-- R253: the staged state of the blocks of a part, read from an address on: where each piece lies, and the blocks' numbers, which
count from `base`, with their scratchpad bytes and accumulator rows; `fuel` blocks at most. -/
def readStaged (s : State) (base stop : Nat) : Nat → Nat → List (PieceKind × Nat) × List (Nat × Nat × Nat)
  | 0, _ => ([], [])
  | fuel + 1, a =>
    if stop ≤ a then ([], [])
    else
      let blk := base + physNat s (a + 16) 8
      let nv := physNat s (a + 25) 1
      let chans := (List.range 16).foldl (fun (r : List (PieceKind × Nat) × Nat) c =>
        let n := physNat s (a + 1104 + c) 1
        if n == 0 then r else (r.1 ++ [(PieceKind.chan blk c, r.2)], r.2 + 128 * n)) ([], a + 4096)
      let grans := (List.range (physNat s (a + 24) 1)).foldl (fun (r : List (PieceKind × Nat) × Nat) g =>
        let ks := (setBits s r.2 192).filter (fun k => decide (k < 32 + nv))
        ((ks.zipIdx).foldl (fun l (y : Nat × Nat) => l ++ [(PieceKind.item (.gran blk g y.1) 0, r.2 + granMapSize + 128 * y.2)]) r.1,
          r.2 + granMapSize + 128 * ks.length)) chans
      let rest := readStaged s base stop fuel grans.2
      ((PieceKind.blockHead blk, a) :: grans.1 ++ rest.1, (blk, physNat s (a + 32) 4, physNat s (a + 36) 4) :: rest.2)

/-- R253: the marked lines or row groups of a part's blocks: each block's bitmap of `n` bits, and its items of `size` bytes after it. -/
def readMarked (s : State) (item : Nat → Nat → Item) (bits : Nat × Nat × Nat → Nat) (size : Nat) :
    List (Nat × Nat × Nat) → Nat → List (PieceKind × Nat)
  | [], _ => []
  | b :: rest, a =>
    let ks := setBits s a (bits b)
    let a := a + mapBytes (bits b)
    (ks.zipIdx).map (fun (y : Nat × Nat) => (PieceKind.item (item b.1 y.1) 0, a + size * y.2)) ++
      readMarked s item bits size rest (a + size * ks.length)

/-- R253: where the pieces of a part lie. -/
def readPart (s : State) (base chain : Nat) (r : PartRec) : List (PieceKind × Nat) :=
  let a := chain + r.off
  let size (k : Nat) : Nat := physNat s (a + 96 + 8 * k) 8
  let at' (k : Nat) : Nat := a + 4096 + ((List.range k).map size).foldl (· + ·) 0
  let (staged, blks) := readStaged s base (at' 1) (size 0 / 4096 + 1) (at' 0)
  staged ++ readMarked s Item.scratch (fun b => b.2.1 / 128) 128 blks (at' 1) ++ readMarked s Item.acc (fun b => b.2.2 / 8) 4096 blks (at' 2) ++
    ((List.range (size 3 / 65544)).map (fun k =>
      let p := at' 3 + 65544 * k
      (List.range 16).map (fun i => (PieceKind.item (.page (physNat s p 8)) i, p + 8 + 4096 * i)))).flatten ++
    (List.range (size 4 / 4096)).map (fun k => (PieceKind.table k, at' 4 + 4096 * k))

/-- R256: the newest committed cut of a chain. -/
def chainNewest (s : State) (chain : Nat) : Option Nat := (chainCuts s chain).getLast?

/-- R79, R257: the queues of a chain's newest cut. -/
def chainQueues (s : State) (chain : Nat) : List (Nat × Nat × Nat × Nat) :=
  match chainNewest s chain with
  | none => []
  | some n => match cutParts s chain n with | r :: _ => partQueues s chain r | [] => []

/-- R262, R263: whether the parts of a chain's newest cut that list blocks record this device's FEATMASK. -/
def chainFits (s : State) (chain : Nat) : Bool :=
  match chainNewest s chain with
  | none => true
  | some n => (cutParts s chain n).all (fun r => let f := partFeat s chain r; f.2 == 0 || f.1 == Config.featmask.toNat)

/-- R256: the pieces of a chain's committed increments, those of the newest first. -/
def chainPieces (s : State) (base chain : Nat) : List (PieceKind × Nat) :=
  (((chainCuts s chain).reverse).map (fun n =>
    ((cutParts s chain n).map (readPart s base chain)).flatten)).flatten

/-- R256: where the newest copy of a piece lies. -/
def findPiece (l : List (PieceKind × Nat)) (k : PieceKind) : Option Nat := (l.find? (fun x => x.1 == k)).map Prod.snd

/-- R256: the bytes of the newest copy of a piece; zeros where no increment holds one. -/
def pieceAt (s : State) (l : List (PieceKind × Nat)) (k : PieceKind) (n : Nat) : List Byte :=
  match findPiece l k with
  | some a => physRead s a n
  | none => List.replicate n 0

end Sys2Proof.Machine
end

