-- ==== Sys2Proof/Machine/Lane.lean ====
section
/-! DEFINITION. The common course of lane words (R340, R342) and the lane arithmetic rows: OP 0x10 to 0x25. -/

namespace Sys2Proof.Machine

open Sys2Proof

/-! ## Sources and destinations -/

/-- R235: the lanes of a mask that read a poisoned word through a lane source; `ops` pairs each source with its registers,
0 for a path-wide source. -/
def diesOf (s : State) (v : View) (m : W32) (fts : List Fetched) (ops : List (BitVec 8 × Nat)) : W32 :=
  m &&& ((fts.zip ops).foldl (fun acc (p : Fetched × BitVec 8 × Nat) =>
    if p.2.2 == 0 then acc else acc ||| poisonLanes s v p.2.2 p.1) 0)

/-- R41, R43, R235: the sources of a word fetched: pops and peeks in the order given, with room for the push judged after them; a poisoned
path-wide source among the first `n` raises POISON; lanes that consume poison die. The answer is the state and view in which the word's own
effect is made. -/
def fetchJudged (s : State) (v : View) (ops : List (BitVec 8 × Nat)) (n : Nat) (push : Option Nat)
    (dies : View → List Fetched → W32) : Except Act (State × View × List Fetched) :=
  match fetchChans (ops.map Prod.fst) v.b.chans [] with
  | .error c => .error (.wait s (.pop c))
  | .ok (fts, cs, pops) =>
    if (fts.take n).any (poisonScalar s v) then .error (.trap s (exc fPOISON))
    else if (match push with | some c => decide ((cs.getD c []).length ≥ chanDepth) | none => false) then
      .error (.wait s (.push (push.getD 0)))
    else
      let dead := dies v fts
      let s := if pops.isEmpty then s else (s.modBlock v.p.blk (fun b => { b with chans := cs })).popPoison v.p.blk pops
      let s := if dead == 0 then s else killLanes s v dead
      if s.cur == none then .error (.over s)
      else
        match s.view v.p with
        | none => .error (.over s)
        | some w => .ok (s, w, fts)

/-- R41, R43, R235: the sources of a word fetched, each of them judged for poison. -/
def fetchOps (s : State) (v : View) (ops : List (BitVec 8 × Nat)) (push : Option Nat)
    (dies : View → List Fetched → W32) : Except Act (State × View × List Fetched) :=
  fetchJudged s v ops ops.length push dies

/-- R227, R235: the sources of a word fetched of which the last, its data, is judged for poison behind the faults of its address. -/
def fetchFirst (s : State) (v : View) (ops late : List (BitVec 8 × Nat)) (push : Option Nat)
    (dies : View → List Fetched → W32) : Except Act (State × View × List Fetched) :=
  fetchJudged s v (ops ++ late) ops.length push dies

/-- R227, R235: whether the last source of a word, its data, is poisoned. -/
def lastPoison (s : State) (v : View) (fts : List Fetched) : Bool := match fts.getLast? with | some ft => poisonScalar s v ft | none => false

/-- The channel that a destination field pushes to. -/
def pushOf (d : BitVec 8) : Option Nat := if d.toNat / 16 == 0xC then some (d.toNat % 16) else none

/-- R11, R40, R87, R114: a lane result of `n` registers written in the lanes of a mask: to v registers, to the latch only, or
pushed; and the latch. -/
def laneFinish (s : State) (v : View) (d : BitVec 8) (n : Nat) (m : W32) (f : Nat → Nat) : Act :=
  let r := d.toNat
  let out := latchLanes v.g d n m f
  if r < 0x80 then
    let s := s.clearPoison (fun l =>
      match l with
      | .vlane b g k ln => b == v.p.blk && g == v.gi && decide (r ≤ k) && decide (k < r + n) && inMask (wholeWords m) ln
      | _ => false)
    .done (s.modGroup v.p.blk v.gi (fun g => g.setVs r n m f)) out
  else
    match pushOf d with
    | none => .done s out
    | some c =>
      match pushChan v.b.chans c (pushEntry m f) with
      | none => .wait s (.push c)
      | some cs => .done (s.modBlock v.p.blk (fun b => { b with chans := cs })) out

/-- R330: feature bit 1 for vector words under TYPE 3. -/
def laneFeat (v : View) : Option Nat := if v.ty == .f64 then some 1 else none

/-- The registers of an element of a type: a pair for a 64-bit one. -/
def tyRegs (t : Ty) : Nat := if tyWide t then 2 else 1

/-- R317, R330, R340: a lane word of a group: its checks, its sources with their registers, its destination of `dn` registers,
the lanes it writes and what each receives. -/
def laneWord (i : Instr) (s : State) (ok : View → Bool) (ops : View → List (BitVec 8 × Nat)) (d : BitVec 8) (dn : View → Nat)
    (lanes : View → W32) (f : View → List Fetched → Nat → Nat) : Host.Outcome State Fault Refusal :=
  wordExec i s
    (fun v => { streams := .g, feat := laneFeat v, ok := ok v && laneDstOk v (dn v) d, lats := (ops v).map Prod.fst })
    (fun v =>
      match fetchOps s v (ops v) (pushOf d) (fun v fts => diesOf s v (lanes v) fts (ops v)) with
      | .error a => a
      | .ok (s, w, fts) => laneFinish s w d (dn w) (lanes w) (f w fts))

/-- The value of the `k`-th fetched path-wide source. -/
def pathVal (v : View) (fts : List Fetched) (k : Nat) : W64 := match fts[k]? with | some ft => sval v ft | none => 0

/-- The element of the `k`-th fetched source. -/
def opndAt (v : View) (t : Ty) (fts : List Fetched) (k l : Nat) : Nat :=
  match fts[k]? with
  | some ft => opnd v t ft l
  | none => 0

/-- The raw 32 or 64 bits of the `k`-th fetched source. -/
def rawAt (v : View) (n : Nat) (fts : List Fetched) (k l : Nat) : Nat :=
  match fts[k]? with
  | some ft => rawLane v v.ty n ft l
  | none => 0

/-- R342: a lane source of an arithmetic word under MODE.TYPE; `fc`: FP constants are legal in a float TYPE. -/
def arithSrcOk (v : View) (fc : Bool) (f : BitVec 8) : Bool :=
  laneSrcOk v (tyRegs v.ty) (!tyStorage v.ty) (fc && tyFloat v.ty) f

/-- R342: a two-source lane operation over the types `tys`. -/
def arith2 (i : Instr) (tys : Ty → Bool) (op : Ty → Rm → Nat → Nat → Nat) (d a b : BitVec 8) (s : State) :
    Host.Outcome State Fault Refusal :=
  laneWord i s (fun v => tys v.ty && arithSrcOk v true a && arithSrcOk v true b)
    (fun v => [(a, tyRegs v.ty), (b, tyRegs v.ty)]) d (fun v => tyRegs v.ty) View.active
    (fun v fts l => place v.ty (op v.ty v.rm (opndAt v v.ty fts 0 l) (opndAt v v.ty fts 1 l)))

/-- R340: a unary lane operation over the types `tys`; the function gives the 32 or 64 bits of the destination. -/
def arith1 (i : Instr) (tys : Ty → Bool) (op : Ty → Rm → Nat → Nat) (d a : BitVec 8) (s : State) :
    Host.Outcome State Fault Refusal :=
  laneWord i s (fun v => tys v.ty && arithSrcOk v true a) (fun v => [(a, tyRegs v.ty)]) d (fun v => tyRegs v.ty) View.active
    (fun v fts l => op v.ty v.rm (opndAt v v.ty fts 0 l))

/-- The arithmetic types: float and integer. -/
def tyArith (t : Ty) : Bool := tyFloat t || tyInt t
/-- R341, R425: the types of ABS and NEG. -/
def tySign (t : Ty) : Bool := tyFloat t || (tyInt t && tySigned t)
/-- A float operation on a format, placed. -/
def onFmt (f : Fmt → Rm → Nat → Nat) (t : Ty) (rm : Rm) (x : Nat) : Nat := place t (f (fmtOf t) rm x)

/-! ## Two-source operations (R342) -/

/-- ADD (R343). -/
def execAdd (e : Bool) (d a b : BitVec 8) (s : State) : Host.Outcome State Fault Refusal :=
  arith2 (.opAdd e d a b) tyArith addE d a b s
/-- SUB (R467). -/
def execSub (e : Bool) (d a b : BitVec 8) (s : State) : Host.Outcome State Fault Refusal :=
  arith2 (.opSub e d a b) tyArith subE d a b s
/-- MUL (R419). -/
def execMul (e : Bool) (d a b : BitVec 8) (s : State) : Host.Outcome State Fault Refusal :=
  arith2 (.opMul e d a b) tyArith mulE d a b s
/-- MIN (R416). -/
def execMin (e : Bool) (d a b : BitVec 8) (s : State) : Host.Outcome State Fault Refusal :=
  arith2 (.opMin e d a b) tyArith (mmE false) d a b s
/-- MAX (R409). -/
def execMax (e : Bool) (d a b : BitVec 8) (s : State) : Host.Outcome State Fault Refusal :=
  arith2 (.opMax e d a b) tyArith (mmE true) d a b s
/-- AND (R344). -/
def execAnd (e : Bool) (d a b : BitVec 8) (s : State) : Host.Outcome State Fault Refusal :=
  arith2 (.opAnd e d a b) tyInt (fun _ _ x y => Nat.land x y) d a b s
/-- OR (R428). -/
def execOr (e : Bool) (d a b : BitVec 8) (s : State) : Host.Outcome State Fault Refusal :=
  arith2 (.opOr e d a b) tyInt (fun _ _ x y => Nat.lor x y) d a b s
/-- XOR (R479). -/
def execXor (e : Bool) (d a b : BitVec 8) (s : State) : Host.Outcome State Fault Refusal :=
  arith2 (.opXor e d a b) tyInt (fun _ _ x y => Nat.xor x y) d a b s
/-- MULH (R420). -/
def execMulh (e : Bool) (d a b : BitVec 8) (s : State) : Host.Outcome State Fault Refusal :=
  arith2 (.opMulh e d a b) tyInt (fun t _ x y => mulhE t x y) d a b s

/-- R449: a lane shift: the count is B's 32 bits, unsigned, at every TYPE. -/
def laneShift (i : Instr) (op : Ty → Nat → Nat → Nat) (d a b : BitVec 8) (s : State) : Host.Outcome State Fault Refusal :=
  laneWord i s (fun v => tyInt v.ty && arithSrcOk v false a && laneSrcOk v 1 true false b)
    (fun v => [(a, tyRegs v.ty), (b, 1)]) d (fun v => tyRegs v.ty) View.active
    (fun v fts l => place v.ty (op v.ty (opndAt v v.ty fts 0 l) (rawAt v 1 fts 1 l)))

/-- SHL (R449). -/
def execShl (e : Bool) (d a b : BitVec 8) (s : State) : Host.Outcome State Fault Refusal :=
  laneShift (.opShl e d a b) shlE d a b s
/-- SHR (R449). -/
def execShr (e : Bool) (d a b : BitVec 8) (s : State) : Host.Outcome State Fault Refusal :=
  laneShift (.opShr e d a b) shrE d a b s
/-- SAR (R449). -/
def execSar (e : Bool) (d a b : BitVec 8) (s : State) : Host.Outcome State Fault Refusal :=
  laneShift (.opSar e d a b) sarE d a b s

/-- MAD (R408): X is the addend and the destination. -/
def execMad (e : Bool) (x y z : BitVec 8) (s : State) : Host.Outcome State Fault Refusal :=
  laneWord (.opMad e x y z) s
    (fun v => tyArith v.ty && vregsOk v (tyRegs v.ty) x && arithSrcOk v true y && arithSrcOk v true z)
    (fun v => [(y, tyRegs v.ty), (z, tyRegs v.ty), (x, tyRegs v.ty)]) x (fun v => tyRegs v.ty) View.active
    (fun v fts l => place v.ty (madE v.ty v.rm (opndAt v v.ty fts 0 l) (opndAt v v.ty fts 1 l) (opndAt v v.ty fts 2 l)))

/-- R417: whether a copying word admits a source: constants except under a storage TYPE, FP constants only under a float
TYPE. -/
def copySrcOk (v : View) (f : BitVec 8) : Bool := laneSrcOk v (tyRegs v.ty) (!tyStorage v.ty) (tyFloat v.ty) f

/-- MOV (R417). -/
def execMov (e : Bool) (d a : BitVec 8) (s : State) : Host.Outcome State Fault Refusal :=
  laneWord (.opMov e d a) s (fun v => copySrcOk v a) (fun v => [(a, tyRegs v.ty)]) d (fun v => tyRegs v.ty) View.active
    (fun v fts l => rawAt v (tyRegs v.ty) fts 0 l)

/-- SEL (R451): over the live lanes, A where the guard passes and B elsewhere; a lane consumes only the source it takes
(notes/assumptions 20). -/
def execSel (e : Bool) (d a b : BitVec 8) (s : State) : Host.Outcome State Fault Refusal :=
  wordExec (.opSel e d a b) s
    (fun v => { streams := .g, feat := laneFeat v, ok := copySrcOk v a && copySrcOk v b && laneDstOk v (tyRegs v.ty) d,
                lats := [a, b] })
    (fun v =>
      let n := tyRegs v.ty
      let dies (v : View) (fts : List Fetched) : W32 :=
        diesOf s v (v.live &&& v.guardMask) (fts.take 1) [(a, n)] ||| diesOf s v (v.live &&& ~~~v.guardMask) (fts.drop 1) [(b, n)]
      match fetchOps s v [(a, n), (b, n)] (pushOf d) dies with
      | .error x => x
      | .ok (s, w, fts) => laneFinish s w d n w.live (fun l => rawAt w n fts (if inMask w.guardMask l then 0 else 1) l))

/-- CMP (R375). -/
def execCmp (e : Bool) (c p : BitVec 4) (a b : BitVec 8) (s : State) : Host.Outcome State Fault Refusal :=
  wordExec (.opCmp e c p a b) s
    (fun v => { streams := .g, feat := laneFeat v, lats := [a, b],
                ok := tyArith v.ty && decide (c.toNat ≤ (if tyFloat v.ty then 13 else 5)) && arithSrcOk v true a &&
                  arithSrcOk v true b })
    (fun v =>
      let ops := [(a, tyRegs v.ty), (b, tyRegs v.ty)]
      match fetchOps s v ops none (fun v fts => diesOf s v v.active fts ops) with
      | .error x => x
      | .ok (s, w, fts) =>
        let m := maskOf (fun l => condE c.toNat w.ty w.rm (opndAt w w.ty fts 0 l) (opndAt w w.ty fts 1 l))
        let g := w.g.setP p.toNat w.active m
        .done (s.modGroup w.p.blk w.gi (fun g => g.setP p.toNat w.active m)) (latchAll (zx (g.pred p.toNat))))

/-! ## Unary operations (R340) -/

/-- ABS (R341). -/
def execAbs (e : Bool) (d a : BitVec 8) (s : State) : Host.Outcome State Fault Refusal :=
  arith1 (.opAbs e d a) tySign (fun t rm x => place t (absE t rm x)) d a s
/-- NEG (R425). -/
def execNeg (e : Bool) (d a : BitVec 8) (s : State) : Host.Outcome State Fault Refusal :=
  arith1 (.opNeg e d a) tySign (fun t rm x => place t (negE t rm x)) d a s
/-- NOT (R427). -/
def execNot (e : Bool) (d a : BitVec 8) (s : State) : Host.Outcome State Fault Refusal :=
  arith1 (.opNot e d a) tyInt (fun t _ x => place t (notE t x)) d a s
/-- RCP (R439). -/
def execRcp (e : Bool) (d a : BitVec 8) (s : State) : Host.Outcome State Fault Refusal :=
  arith1 (.opRcp e d a) tyFloat (onFmt frcpF) d a s
/-- RSQ (R446). -/
def execRsq (e : Bool) (d a : BitVec 8) (s : State) : Host.Outcome State Fault Refusal :=
  arith1 (.opRsq e d a) tyFloat (onFmt frsqF) d a s
/-- SQRT (R460). -/
def execSqrt (e : Bool) (d a : BitVec 8) (s : State) : Host.Outcome State Fault Refusal :=
  arith1 (.opSqrt e d a) tyFloat (onFmt fsqrtF) d a s
/-- EXP2 (R392). -/
def execExp2 (e : Bool) (d a : BitVec 8) (s : State) : Host.Outcome State Fault Refusal :=
  arith1 (.opExp2 e d a) tyFloat (onFmt fexp2F) d a s
/-- LOG2 (R407). -/
def execLog2 (e : Bool) (d a : BitVec 8) (s : State) : Host.Outcome State Fault Refusal :=
  arith1 (.opLog2 e d a) tyFloat (onFmt flog2F) d a s
/-- SIN (R455). -/
def execSin (e : Bool) (d a : BitVec 8) (s : State) : Host.Outcome State Fault Refusal :=
  arith1 (.opSin e d a) tyFloat (onFmt fsinF) d a s
/-- COS (R379). -/
def execCos (e : Bool) (d a : BitVec 8) (s : State) : Host.Outcome State Fault Refusal :=
  arith1 (.opCos e d a) tyFloat (onFmt fcosF) d a s
/-- RINT (R445). -/
def execRint (e : Bool) (d a : BitVec 8) (s : State) : Host.Outcome State Fault Refusal :=
  arith1 (.opRint e d a) tyFloat (onFmt frintF) d a s
/-- CLZ (R374). -/
def execClz (e : Bool) (d a : BitVec 8) (s : State) : Host.Outcome State Fault Refusal :=
  arith1 (.opClz e d a) tyInt (fun t _ x => clzN (tyBits t) x) d a s
/-- POPC (R432). -/
def execPopc (e : Bool) (d a : BitVec 8) (s : State) : Host.Outcome State Fault Refusal :=
  arith1 (.opPopc e d a) tyInt (fun t _ x => popcN (tyBits t) x) d a s
/-- BREV (R365). -/
def execBrev (e : Bool) (d a : BitVec 8) (s : State) : Host.Outcome State Fault Refusal :=
  arith1 (.opBrev e d a) tyInt (fun t _ x => place t (brevN (tyBits t) x)) d a s
/-- CLASS (R373). -/
def execClass (e : Bool) (d a : BitVec 8) (s : State) : Host.Outcome State Fault Refusal :=
  arith1 (.opClass e d a) tyFloat (fun t _ x => classF (fmtOf t) x) d a s

/-! ## Bit fields (R357) -/

/-- R357: the types of BFE and BFI. -/
def tyBf (t : Ty) : Bool := t == .i32 || t == .u32 || t == .i64 || t == .u64

/-- BFE (R358). -/
def execBfe (e : Bool) (x y z : BitVec 8) (s : State) : Host.Outcome State Fault Refusal :=
  laneWord (.opBfe e x y z) s (fun v => tyBf v.ty && arithSrcOk v false y && laneSrcOk v 1 true false z)
    (fun v => [(y, tyRegs v.ty), (z, 1)]) x (fun v => tyRegs v.ty) View.active
    (fun v fts l => bfeE v.ty (opndAt v v.ty fts 0 l) (rawAt v 1 fts 1 l))

/-- BFI (R359): X is the base value and the destination. -/
def execBfi (e : Bool) (x y z : BitVec 8) (s : State) : Host.Outcome State Fault Refusal :=
  laneWord (.opBfi e x y z) s
    (fun v => tyBf v.ty && vregsOk v (tyRegs v.ty) x && arithSrcOk v false y && laneSrcOk v 1 true false z)
    (fun v => [(y, tyRegs v.ty), (z, 1), (x, tyRegs v.ty)]) x (fun v => tyRegs v.ty) View.active
    (fun v fts l => bfiE v.ty (opndAt v v.ty fts 2 l) (opndAt v v.ty fts 0 l) (rawAt v 1 fts 1 l))

/-! ## Conversions -/

/-- CVT (R385). -/
def execCvt (e : Bool) (d a : BitVec 8) (t : BitVec 4) (s : State) : Host.Outcome State Fault Refusal :=
  let dt := tyOf t.toNat
  let block (t : Ty) : Bool := t == .f4 || t == .f4s
  laneWord (.opCvt e d a t) s (fun v => !block v.ty && !block dt && arithSrcOk v true a)
    (fun v => [(a, tyRegs v.ty)]) d (fun _ => tyRegs dt) View.active
    (fun v fts l => place dt (cvtE v.ty dt v.rm (opndAt v v.ty fts 0 l)))

/-- R386: the block register form of a register's lanes 0 to 4: the code of each element. -/
def blkCode (g : Group) (r l : Nat) : Nat := (g.vlane r (l / 8)).toNat / 2 ^ (4 * (l % 8)) % 16

/-- R386: the header of a block in register form. -/
def blkHead (g : Group) (r : Nat) (f4s : Bool) : Nat := (g.vlane r 4).toNat % (if f4s then 2 ^ 16 else 2 ^ 8)

/-- R386, R387: CVTB, with the header chosen or given. -/
def cvtb (i : Instr) (given : Bool) (d a : BitVec 8) (s : State) : Host.Outcome State Fault Refusal :=
  wordExec i s
    (fun v => { streams := .g, feat := some 3, lats := [a],
                ok := (v.ty == .f4 || v.ty == .f4s) && vregsOk v 1 d && laneSrcOk v 1 false false a })
    (fun v =>
      match fetchOps s v [(a, 1)] none (fun v fts => diesOf s v v.active fts [(a, 1)]) with
      | .error x => x
      | .ok (t, w, fts) =>
        if given && !s.mem.poison.isEmpty && s.poisoned (.vlane w.p.blk w.gi d.toNat 4) then .trap s (exc fPOISON)
        else
          let f4s := w.ty == .f4s
          let xs := (laneList.filter (inMask w.active)).map (fun l => rawAt w 1 fts 0 l)
          let h := if given then blkHead w.g d.toNat f4s else blkHeader w.rm f4s xs
          let code (l : Nat) : Nat := if inMask w.active l then blkEncode w.rm.rnd h f4s (rawAt w 1 fts 0 l) else 0
          let out (l : Nat) : Nat :=
            if l == 4 then h
            else (List.range 8).foldl (fun x j => x + code (8 * l + j) * 2 ^ (4 * j)) 0
          laneFinish t w d 1 0x1F#32 out)

/-- CVTB (R387): the chosen form. -/
def execCvtb (e : Bool) (d a : BitVec 8) (s : State) : Host.Outcome State Fault Refusal := cvtb (.opCvtb e d a) false d a s
/-- CVTB_GIVEN (R387): the given form. -/
def execCvtbGiven (e : Bool) (d a : BitVec 8) (s : State) : Host.Outcome State Fault Refusal :=
  cvtb (.opCvtbGiven e d a) true d a s

/-- UNPB (R474). -/
def execUnpb (e : Bool) (d a : BitVec 8) (s : State) : Host.Outcome State Fault Refusal :=
  wordExec (.opUnpb e d a) s
    (fun v => { streams := .g, feat := some 3, ok := (v.ty == .f4 || v.ty == .f4s) && vregsOk v 1 a && laneDstOk v 1 d })
    (fun v =>
      if (List.range 5).any (fun l => s.poisoned (.vlane v.p.blk v.gi a.toNat l)) then .trap s (exc fPOISON)
      else
        match fetchOps s v [] (pushOf d) (fun _ _ => 0) with
        | .error x => x
        | .ok (s, w, _) =>
          let f4s := w.ty == .f4s
          laneFinish s w d 1 w.active (fun l => blkDecode (blkCode w.g a.toNat l) (blkHead w.g a.toNat f4s) f4s))

end Sys2Proof.Machine
end

