-- ==== Sys2Proof/Machine/Comm.lean ====
section
/-! DEFINITION. Lane communication: shuffles, votes, group reductions, predicates and counts (OP 0x30 to 0x38). -/

namespace Sys2Proof.Machine

open Sys2Proof

/-! ## Shuffles (R454) -/

/-- R454: the classes of B: a v register, an s register, a latch or a constant, zero among them. -/
def shuffleOk (v : View) (b : BitVec 8) : Bool := laneSrcOk v 1 true false b && (decide (b.toNat < 0xA5) || isIC b)

/-- R454: a shuffle: lane `l` reads lane `src l n` of A. A reader of a dead lane takes 0 and sets DEADREAD; a lane consumes
the A lane it reads and its own lane of B. -/
def shuffle (i : Instr) (src : Nat → Nat → Nat) (d a b : BitVec 8) (s : State) : Host.Outcome State Fault Refusal :=
  wordExec i s
    (fun v => { streams := .g, feat := laneFeat v, lats := [a, b],
                ok := copySrcOk v a && shuffleOk v b && laneDstOk v (tyRegs v.ty) d })
    (fun v =>
      let n := tyRegs v.ty
      let ops := [(a, n), (b, 1)]
      let from' (v : View) (fts : List Fetched) (l : Nat) : Nat := src l (rawAt v 1 fts 1 l % 32)
      let dies (v : View) (fts : List Fetched) : W32 :=
        let pa := diesOf s v 0xFFFFFFFF#32 (fts.take 1) [(a, n)]
        diesOf s v v.active (fts.drop 1) [(b, 1)] |||
          maskOf (fun l => inMask v.active l && inMask pa (from' v fts l) && !inMask v.g.dead (from' v fts l))
      match fetchOps s v ops (pushOf d) dies with
      | .error x => x
      | .ok (s, w, fts) =>
        let gone := laneList.any (fun l => inMask w.active l && inMask w.g.dead (from' w fts l))
        let s := if gone then s.modGroup w.p.blk w.gi (fun g => { g with gstat := g.gstat ||| 1#32 }) else s
        laneFinish s w d n w.active
          (fun l => if inMask w.g.dead (from' w fts l) then 0 else rawAt w n fts 0 (from' w fts l)))

/-- SHFL (R454). -/
def execShfl (e : Bool) (d a b : BitVec 8) (s : State) : Host.Outcome State Fault Refusal :=
  shuffle (.opShfl e d a b) (fun _ n => n) d a b s
/-- SHFX (R454). -/
def execShfx (e : Bool) (d a b : BitVec 8) (s : State) : Host.Outcome State Fault Refusal :=
  shuffle (.opShfx e d a b) (fun l n => Nat.xor l n) d a b s
/-- SHUP (R454). -/
def execShup (e : Bool) (d a b : BitVec 8) (s : State) : Host.Outcome State Fault Refusal :=
  shuffle (.opShup e d a b) (fun l n => if n ≤ l then l - n else l) d a b s
/-- SHDN (R454). -/
def execShdn (e : Bool) (d a b : BitVec 8) (s : State) : Host.Outcome State Fault Refusal :=
  shuffle (.opShdn e d a b) (fun l n => if l + n ≤ 31 then l + n else l) d a b s

/-! ## Results that go to a predicate, an s register or lanes -/

/-- R63, R87: a predicate result: the bits of the lanes of a mask, with the latch. -/
def predFinish (s : State) (v : View) (r : Nat) (m x : W32) : Act :=
  .done (s.modGroup v.p.blk v.gi (fun g => g.setP r m x)) (latchAll (zx ((v.g.setP r m x).pred r)))

/-- R62, R87: a scalar result of a group, with the latch. -/
def sregFinish (s : State) (v : View) (r : Nat) (x : W64) : Act :=
  let s := s.clearPoison (fun l => match l with | .sreg b g k => b == v.p.blk && g == v.gi && k == r | _ => false)
  .done (s.modGroup v.p.blk v.gi (fun g => g.setS r x)) (latchAll x)

/-! ## Votes (R475) and PCNT (R430) -/

/-- R475: a vote's destination. -/
def voteFinish (s : State) (v : View) (d : BitVec 8) (x : W32) (bal : Bool) : Act :=
  if isPred d then predFinish s v (d.toNat % 16) v.active (if bal then x else if x == 0 then 0 else 0xFFFFFFFF#32)
  else if isS d then sregFinish s v (d.toNat % 32) (zx x)
  else laneFinish s v d 1 v.active (fun _ => x.toNat)

/-- R475: a vote over the live set. -/
def vote (i : Instr) (op : W32 → W32 → W32) (bal : Bool) (d a : BitVec 8) (s : State) : Host.Outcome State Fault Refusal :=
  wordExec i s
    (fun v => { streams := .g, ok := isPred a && (isPred d || isS d || laneDstOk v 1 d) })
    (fun v => voteFinish s v d (op (v.g.pred (a.toNat % 16)) v.live) bal)

/-- VANY (R475). -/
def execVany (e : Bool) (d a : BitVec 8) (s : State) : Host.Outcome State Fault Refusal :=
  vote (.opVany e d a) (fun p l => if p &&& l != 0 then 1 else 0) false d a s
/-- VALL (R475). -/
def execVall (e : Bool) (d a : BitVec 8) (s : State) : Host.Outcome State Fault Refusal :=
  vote (.opVall e d a) (fun p l => if p &&& l == l then 1 else 0) false d a s
/-- VUNI (R475). -/
def execVuni (e : Bool) (d a : BitVec 8) (s : State) : Host.Outcome State Fault Refusal :=
  vote (.opVuni e d a) (fun p l => if p &&& l == l || p &&& l == 0 then 1 else 0) false d a s
/-- VBAL (R475). -/
def execVbal (e : Bool) (d a : BitVec 8) (s : State) : Host.Outcome State Fault Refusal :=
  vote (.opVbal e d a) (fun p l => p &&& l) true d a s

/-- PCNT (R430). -/
def execPcnt (e : Bool) (d a : BitVec 8) (s : State) : Host.Outcome State Fault Refusal :=
  wordExec (.opPcnt e d a) s
    (fun v => { streams := .g, ok := isPred a && (isS d || laneDstOk v 1 d) })
    (fun v =>
      let k := popMask (v.g.pred (a.toNat % 16) &&& v.live)
      if isS d then sregFinish s v (d.toNat % 32) (BitVec.ofNat 64 k) else laneFinish s v d 1 v.active (fun _ => k))

/-! ## Group reductions (R395) -/

/-- R121: the inputs of a tree: the elements of the lanes of a mask, the others absent. -/
def treeIns (v : View) (m : W32) (fts : List Fetched) : List (Option Nat) :=
  laneList.map (fun l => if inMask m l then some (opndAt v v.ty fts 0 l) else none)

/-- R395: GSUM, GMIN or GMAX: `op` 0, 1 or 2. -/
def reduce (i : Instr) (op : Nat) (d a : BitVec 8) (s : State) : Host.Outcome State Fault Refusal :=
  wordExec i s
    (fun v => { streams := .g, feat := laneFeat v, lats := [a],
                ok := tyArith v.ty && arithSrcOk v true a && (isS d || laneDstOk v (tyRegs v.ty) d) })
    (fun v =>
      let ops := [(a, tyRegs v.ty)]
      match fetchOps s v ops (pushOf d) (fun v fts => diesOf s v v.active fts ops) with
      | .error x => x
      | .ok (s, w, fts) =>
        let x := place w.ty (redTree op w.ty w.rm (treeIns w w.active fts))
        if isS d then sregFinish s w (d.toNat % 32) (BitVec.ofNat 64 x) else laneFinish s w d (tyRegs w.ty) w.active (fun _ => x))

/-- GSUM (R399). -/
def execGsum (e : Bool) (d a : BitVec 8) (s : State) : Host.Outcome State Fault Refusal := reduce (.opGsum e d a) 0 d a s
/-- GMIN (R397). -/
def execGmin (e : Bool) (d a : BitVec 8) (s : State) : Host.Outcome State Fault Refusal := reduce (.opGmin e d a) 1 d a s
/-- GMAX (R396). -/
def execGmax (e : Bool) (d a : BitVec 8) (s : State) : Host.Outcome State Fault Refusal := reduce (.opGmax e d a) 2 d a s

/-- GSCAN (R398): each prefix is a whole tree. -/
def execGscan (e : Bool) (d a : BitVec 8) (s : State) : Host.Outcome State Fault Refusal :=
  laneWord (.opGscan e d a) s (fun v => tyArith v.ty && arithSrcOk v true a) (fun v => [(a, tyRegs v.ty)]) d
    (fun v => tyRegs v.ty) View.active
    (fun v fts l =>
      place v.ty (redTree 0 v.ty v.rm (treeIns v (v.active &&& maskOf (fun k => decide (k ≤ l))) fts)))

/-! ## Predicates (R429, R437) -/

/-- R429: a member of the predicate family. -/
def predWord (i : Instr) (x y : BitVec 8) (op : Group → W32) (s : State) : Host.Outcome State Fault Refusal :=
  wordExec i s (fun _ => { streams := .g, ok := isPred x && isPred y })
    (fun v => predFinish s v (x.toNat % 16) v.active (op v.g))

/-- PAND (R429). -/
def execPand (e : Bool) (x y : BitVec 8) (b : BitVec 4) (s : State) : Host.Outcome State Fault Refusal :=
  predWord (.opPand e x y b) x y (fun g => g.pred (y.toNat % 16) &&& g.pred b.toNat) s
/-- POR (R433). -/
def execPor (e : Bool) (x y : BitVec 8) (b : BitVec 4) (s : State) : Host.Outcome State Fault Refusal :=
  predWord (.opPor e x y b) x y (fun g => g.pred (y.toNat % 16) ||| g.pred b.toNat) s
/-- PXOR (R438). -/
def execPxor (e : Bool) (x y : BitVec 8) (b : BitVec 4) (s : State) : Host.Outcome State Fault Refusal :=
  predWord (.opPxor e x y b) x y (fun g => g.pred (y.toNat % 16) ^^^ g.pred b.toNat) s
/-- PNOT (R431). -/
def execPnot (e : Bool) (x y : BitVec 8) (s : State) : Host.Outcome State Fault Refusal :=
  predWord (.opPnot e x y) x y (fun g => ~~~(g.pred (y.toNat % 16))) s

/-- R437: PSET from a path-wide value. -/
def psetWord (i : Instr) (op : W64 → W32) (d a : BitVec 8) (s : State) : Host.Outcome State Fault Refusal :=
  wordExec i s (fun v => { streams := .g, ok := isPred d && sSrcOk v false a, lats := [a] })
    (fun v =>
      match fetchOps s v [(a, 0)] none (fun _ _ => 0) with
      | .error x => x
      | .ok (s, w, fts) =>
        predFinish s w (d.toNat % 16) w.active (op (match fts with | ft :: _ => sval w ft | [] => 0)))

/-- PSET (R437). -/
def execPset (e : Bool) (d a : BitVec 8) (s : State) : Host.Outcome State Fault Refusal := psetWord (.opPset e d a) lo32 d a s
/-- PSET_FIRST (R437). -/
def execPsetFirst (e : Bool) (d a : BitVec 8) (s : State) : Host.Outcome State Fault Refusal :=
  psetWord (.opPsetFirst e d a) (fun n => maskOf (fun l => decide (l < n.toNat))) d a s
/-- PSET_NZ (R437). -/
def execPsetNz (e : Bool) (d a : BitVec 8) (s : State) : Host.Outcome State Fault Refusal :=
  wordExec (.opPsetNz e d a) s
    (fun v => { streams := .g, ok := isPred d && laneSrcOk v 1 (!tyStorage v.ty) (tyFloat v.ty) a, lats := [a] })
    (fun v =>
      match fetchOps s v [(a, 1)] none (fun v fts => diesOf s v v.active fts [(a, 1)]) with
      | .error x => x
      | .ok (s, w, fts) => predFinish s w (d.toNat % 16) w.active (maskOf (fun l => rawAt w 1 fts 0 l != 0)))

end Sys2Proof.Machine
end

