-- ==== Sys2Proof/Machine/Scalar.lean ====
section
/-! DEFINITION. The scalar row (R448 to R459) and the mode, system-value, control-register and channel-query words (OP 0x01 to
0x0C but for traps, which stand in Control.lean). -/

namespace Sys2Proof.Machine

open Sys2Proof

/-! ## Scalar destinations -/

/-- R448, R87: a 64-bit result of a path or of the bellwether: to an s or w register, to the latch only, or pushed. -/
def scalarFinish (s : State) (v : View) (d : BitVec 8) (x : W64) : Act :=
  match pushOf d with
  | some c =>
    match pushChan v.b.chans c (.sc x) with
    | none => .wait s (.push c)
    | some cs => .done (s.modBlock v.p.blk (fun b => { b with chans := cs })) (latchAll x)
  | none =>
    if v.isBell then
      let s := s.clearPoison (fun l => match l with | .wreg b k => b == v.p.blk && k == d.toNat | _ => false)
      .done (s.modBell v.p.blk (fun b => b.setW d.toNat x)) .invalid
    else if isS d then sregFinish s v (d.toNat % 32) x
    else .done s (latchAll x)

/-- R448: a scalar word: its path-wide sources, its destination and its result. -/
def scalarWord (i : Instr) (srcs : List (BitVec 8)) (d : BitVec 8) (f : List W64 → W64) (s : State) :
    Host.Outcome State Fault Refusal :=
  wordExec i s (fun v => { streams := .gb, ok := srcs.all (sSrcOk v true) && sDstOk v true d, lats := srcs })
    (fun v =>
      match fetchOps s v (srcs.map (fun f => (f, 0))) (pushOf d) (fun _ _ => 0) with
      | .error x => x
      | .ok (s, w, fts) => scalarFinish s w d (f (fts.map (sval w))))

/-- R448: a two-source member. -/
def scalar2 (i : Instr) (op : W64 → W64 → W64) (d a b : BitVec 8) (s : State) : Host.Outcome State Fault Refusal :=
  scalarWord i [a, b] d (fun xs => op (xs.getD 0 0) (xs.getD 1 0)) s

/-- SADD (R448). -/
def execSadd (e : Bool) (d a b : BitVec 8) (s : State) : Host.Outcome State Fault Refusal :=
  scalar2 (.opSadd e d a b) (· + ·) d a b s
/-- SSUB (R448). -/
def execSsub (e : Bool) (d a b : BitVec 8) (s : State) : Host.Outcome State Fault Refusal :=
  scalar2 (.opSsub e d a b) (· - ·) d a b s
/-- SMUL (R448). -/
def execSmul (e : Bool) (d a b : BitVec 8) (s : State) : Host.Outcome State Fault Refusal :=
  scalar2 (.opSmul e d a b) (· * ·) d a b s
/-- SAND (R448). -/
def execSand (e : Bool) (d a b : BitVec 8) (s : State) : Host.Outcome State Fault Refusal :=
  scalar2 (.opSand e d a b) (· &&& ·) d a b s
/-- SOR (R448). -/
def execSor (e : Bool) (d a b : BitVec 8) (s : State) : Host.Outcome State Fault Refusal :=
  scalar2 (.opSor e d a b) (· ||| ·) d a b s
/-- SXOR (R448). -/
def execSxor (e : Bool) (d a b : BitVec 8) (s : State) : Host.Outcome State Fault Refusal :=
  scalar2 (.opSxor e d a b) (· ^^^ ·) d a b s
/-- SSHL (R448). -/
def execSshl (e : Bool) (d a b : BitVec 8) (s : State) : Host.Outcome State Fault Refusal :=
  scalar2 (.opSshl e d a b) (fun a b => if b.toNat ≥ 64 then 0 else a <<< b.toNat) d a b s
/-- SSHR (R448). -/
def execSshr (e : Bool) (d a b : BitVec 8) (s : State) : Host.Outcome State Fault Refusal :=
  scalar2 (.opSshr e d a b) (fun a b => if b.toNat ≥ 64 then 0 else a >>> b.toNat) d a b s
/-- SMIN (R448). -/
def execSmin (e : Bool) (d a b : BitVec 8) (s : State) : Host.Outcome State Fault Refusal :=
  scalar2 (.opSmin e d a b) (fun a b => if a.slt b then a else b) d a b s
/-- SMAX (R448). -/
def execSmax (e : Bool) (d a b : BitVec 8) (s : State) : Host.Outcome State Fault Refusal :=
  scalar2 (.opSmax e d a b) (fun a b => if a.slt b then b else a) d a b s
/-- SMOV (R448). -/
def execSmov (e : Bool) (d a : BitVec 8) (s : State) : Host.Outcome State Fault Refusal :=
  scalarWord (.opSmov e d a) [a] d (fun xs => xs.getD 0 0) s
/-- SLI (R459). -/
def execSli (e : Bool) (d : BitVec 8) (i : BitVec 16) (s : State) : Host.Outcome State Fault Refusal :=
  scalarWord (.opSli e d i) [] d (fun _ => i.signExtend 64) s

/-- SLH (R458): D is the source and the destination. -/
def execSlh (e : Bool) (d : BitVec 8) (i : BitVec 16) (s : State) : Host.Outcome State Fault Refusal :=
  wordExec (.opSlh e d i) s (fun v => { streams := .gb, ok := sRegOk v d })
    (fun v =>
      match fetchOps s v [(d, 0)] none (fun _ _ => 0) with
      | .error x => x
      | .ok (s, w, _) =>
        scalarFinish s w d ((w.sreg (if w.isBell then d.toNat else d.toNat % 32)) <<< 16 ||| i.setWidth 64))

/-- R450: the conditions of SCMP. -/
def scmpOk (c : Nat) : Bool := decide (c ≤ 5) || (decide (10 ≤ c) && decide (c ≤ 13))

/-- SCMP (R450). -/
def execScmp (e : Bool) (c p : BitVec 4) (a b : BitVec 8) (s : State) : Host.Outcome State Fault Refusal :=
  wordExec (.opScmp e c p a b) s
    (fun v => { streams := .gb, lats := [a, b],
                ok := scmpOk c.toNat && (!v.isBell || decide (p.toNat < 8)) && sSrcOk v true a && sSrcOk v true b })
    (fun v =>
      match fetchOps s v [(a, 0), (b, 0)] none (fun _ _ => 0) with
      | .error x => x
      | .ok (s, w, fts) =>
        let x (k : Nat) : Nat := (pathVal w fts k).toNat
        let r := condW c.toNat 64 true (x 0) (x 1)
        if w.isBell then .done (s.modBell w.p.blk (fun q => q.setQ p.toNat r)) .invalid
        else predFinish s w p.toNat 0xFFFFFFFF#32 (if r then 0xFFFFFFFF#32 else 0))

/-! ## MODE -/

/-- R66, R67: whether a stream may set a MODE. -/
def modeOk (v : View) (m : W16) : Bool := m.toNat / 2 ^ 14 == 0 && (!v.isBell || decide (mGuard m < 8))

/-- R66, R248: the stream's MODE set. -/
def setMode (s : State) (v : View) (m : W16) : State :=
  if v.isBell then s.modBell v.p.blk (fun b => { b with mode := m })
  else s.modGroup v.p.blk v.gi (fun g => Group.mark { g with mode := m } 0)

/-- SETM (R452). -/
def execSetm (e : Bool) (i : BitVec 16) (s : State) : Host.Outcome State Fault Refusal :=
  wordExec (.opSetm e i) s (fun v => { streams := .gb, ok := modeOk v i }) (fun v => .done (setMode s v i) .invalid)

/-- SETMX (R453). -/
def execSetmx (e : Bool) (a : BitVec 8) (s : State) : Host.Outcome State Fault Refusal :=
  wordExec (.opSetmx e a) s (fun v => { streams := .gb, ok := sSrcOk v true a, lats := [a] })
    (fun v =>
      match fetchOps s v [(a, 0)] none (fun _ _ => 0) with
      | .error x => x
      | .ok (t, w, fts) =>
        let x := (fts.map (sval w)).getD 0 0
        if x.toNat ≥ 2 ^ 16 || !modeOk w (x.setWidth 16) then .trap s (exc fILLOP)
        else .done (setMode t w (x.setWidth 16)) .invalid)

/-- GETM (R394). -/
def execGetm (e : Bool) (d : BitVec 8) (s : State) : Host.Outcome State Fault Refusal :=
  wordExec (.opGetm e d) s (fun v => { streams := .gb, ok := sDstOk v true d })
    (fun v => scalarFinish s v d (v.mode.setWidth 64))

/-- NOP (R426). -/
def execNop (e : Bool) (s : State) : Host.Outcome State Fault Refusal :=
  wordExec (.opNop e) s (fun _ => { streams := .gb }) (fun _ => .done s .invalid)

/-! ## System values (R78, R468) -/

/-- R31: a core's virtual number in a context's placement, by ascending physical number. -/
def virtualCore (cores : BitVec 128) (core : Nat) : Nat := ((List.range core).filter (fun c => cores.getLsbD c)).length

/-- R31: a core's virtual quad number: the quads of the placement below its own, by physical number. -/
def virtualQuad (cores : BitVec 128) (core : Nat) : Nat :=
  ((List.range (core / 4)).filter (fun q => (List.range 4).any (fun k => cores.getLsbD (4 * q + k)))).length

/-- R45: a block's place in its cluster. -/
def clusterRel (g : Grid) (lin : Nat) : Nat := lin % g.cluster

/-- R78: a system value other than the lane index; none for a selector not listed. -/
def sysValue (s : State) (v : View) (sel : Nat) : Option Nat :=
  match s.grids[v.b.grid]?, ctxOf s v.b with
  | some g, some c =>
    match sel with
    | 0x0001 => some v.gi
    | 0x0002 => some v.b.lin
    | 0x0003 => some (v.b.lin % g.dimX)
    | 0x0004 => some (v.b.lin / g.dimX % g.dimY)
    | 0x0005 => some (v.b.lin / (g.dimX * g.dimY))
    | 0x0006 => some g.dimX
    | 0x0007 => some g.dimY
    | 0x0008 => some g.dimZ
    | 0x0009 => some g.cluster
    | 0x000A => some (clusterRel g v.b.lin)
    | 0x000B => some (virtualCore c.desc.cores v.b.core)
    | 0x000C => some (virtualQuad c.desc.cores v.b.core)
    | 0x000D => some (virtualCore c.desc.cores 128)
    | 0x000E => some s.ft
    | 0x000F => some (v.gi % 8)
    | 0x0010 => some (if v.b.decl.node then v.g.records.toNat else 0xFFFFFFFF)
    | 0x0011 => some Config.featmask.toNat
    | n => if 0x12 ≤ n ∧ n ≤ 0x18 then some 0 else none
  | _, _ => none

/-- R10: a read of FT by a party: none while it would repeat the party's last value. -/
def ftRead (s : State) (v : View) : Bool := decide ((if v.isBell then v.b.bell.lastFt else v.g.lastFt) < s.ft) || s.ft == 0

/-- R10: the party's last read of FT kept. -/
def noteFt (s : State) (v : View) : State :=
  if v.isBell then s.modBell v.p.blk (fun b => { b with lastFt := s.ft })
  else s.modGroup v.p.blk v.gi (fun g => { g with lastFt := s.ft })

/-- R468: whether a SYSV's destination receives lanes. -/
def sysvVec (v : View) (d : BitVec 8) : Bool :=
  !v.isBell && (decide (d.toNat < 0x80) || d.toNat == 0xA0 || chanOk v.b true d)

/-- R468: the checks of SYSV. -/
def sysvOk (v : View) (d : BitVec 8) (sel : Nat) : Bool :=
  decide (sel ≤ 0x18) &&
    (if v.isBell then sDstOk v true d && !(sel == 0 || sel == 1 || sel == 0xF || sel == 0x10)
     else (if sysvVec v d then laneDstOk v (tyRegs v.ty) d else sDstOk v true d && sel != 0))

/-- SYSV (R468). -/
def execSysv (e : Bool) (d : BitVec 8) (i : BitVec 16) (s : State) : Host.Outcome State Fault Refusal :=
  wordExec (.opSysv e d i) s
    (fun v => { streams := .gb, feat := if sysvVec v d then laneFeat v else none, ok := sysvOk v d i.toNat })
    (fun v =>
      if i.toNat == 0xE && !ftRead s v then .wait s .ready
      else
        let x := (sysValue s v i.toNat).getD 0
        let s := if i.toNat == 0xE then noteFt s v else s
        if sysvVec v d then
          laneFinish s v d (tyRegs v.ty) v.active
            (fun l => if i.toNat == 0 then l else x % (if tyWide v.ty then 2 ^ 64 else 2 ^ 32))
        else scalarFinish s v d (BitVec.ofNat 64 x))

/-! ## Control registers (R69, R384, R388) -/

/-- R69: the stream of a control register: some stream code, none for an unlisted number. -/
def cregStream (n : Nat) : Option Streams :=
  if n == 8 || (decide (0x10 ≤ n) && decide (n ≤ 0x17)) then some .gb
  else if (decide (1 ≤ n) && decide (n ≤ 7)) || n == 9 then some .g
  else if decide (0x100 ≤ n) && decide (n ≤ 0x105) then some .b
  else none

/-- R65, R69: how many operations of a class are outstanding. -/
def countOps (ops : List OutOp) (c : Cls) : Nat := (ops.filter (fun o => o.cls == c)).length

/-- R69: the value of a control register of a group. -/
def crdGroup (v : View) (n : Nat) : W64 :=
  match n with
  | 1 => zx v.g.gstat
  | 2 => zx v.g.dead
  | 3 => zx v.g.pmask
  | 4 => zx v.path.brand
  | 5 => BitVec.ofNat 64 v.g.gwmax
  | 6 => BitVec.ofNat 64 (countOps v.g.ops .lc + countOps v.g.ops .sc * 2 ^ 10 + countOps v.g.ops .ac * 2 ^ 20 +
           countOps v.g.ops .cc * 2 ^ 30)
  | 7 => BitVec.ofNat 64 (v.path.win.1 + v.path.win.2 * 2 ^ 16)
  | 8 => v.g.tbase
  | 9 => BitVec.ofNat 64 (v.path.div.length + v.path.divSpill + (v.ctl.ret.length + v.ctl.retSpill) * 2 ^ 16 +
           (if v.sec then 2 ^ 32 else 0) + (if v.g.split then 2 ^ 33 else 0))
  | n => v.g.k.toList.getD (n - 0x10) 0

/-- R69: the value of a control register of a bellwether. -/
def crdBell (b : Bell) (n : Nat) : W64 :=
  match n with
  | 8 => b.tbase
  | 0x100 => zx b.mbatch
  | 0x101 => zx (b.rprog.toList.getD 0 0)
  | 0x102 => zx (b.rprog.toList.getD 1 0)
  | 0x103 => zx (b.rprog.toList.getD 2 0)
  | 0x104 => zx (b.rprog.toList.getD 3 0)
  | 0x105 => BitVec.ofNat 64 (b.ctl.ret.length + b.ctl.retSpill)
  | n => b.k.toList.getD (n - 0x10) 0

/-- CRD (R384). -/
def execCrd (e : Bool) (d : BitVec 8) (i : BitVec 16) (s : State) : Host.Outcome State Fault Refusal :=
  wordExec (.opCrd e d i) s
    (fun v => { streams := (cregStream i.toNat).getD .gb, ok := (cregStream i.toNat).isSome && sDstOk v true d })
    (fun v => scalarFinish s v d (if v.isBell then crdBell v.b.bell i.toNat else crdGroup v i.toNat))

/-- R388: a control register of a group written: a register that CRD alone reads is unchanged. -/
def cwrGroup (g : Group) (n : Nat) (x : W64) : Group :=
  if n == 1 then Group.mark { g with gstat := g.gstat &&& ~~~(lo32 x &&& 0x12F#32) } 0
  else if n == 8 then Group.mark { g with tbase := x &&& ~~~0xFF#64 } 0
  else if h : 0x10 ≤ n ∧ n < 0x18 then
    Group.mark { g with k := g.k.set (n - 0x10) x (by omega) } 3
  else g

/-- R388: a control register of a bellwether written. -/
def cwrBell (b : Bell) (n : Nat) (x : W64) : Bell :=
  if n == 8 then { b with tbase := x &&& ~~~0xFF#64 }
  else if h : 0x10 ≤ n ∧ n < 0x18 then { b with k := b.k.set (n - 0x10) x (by omega) }
  else b

/-- CWR (R388): D is the source. -/
def execCwr (e : Bool) (a : BitVec 8) (i : BitVec 16) (s : State) : Host.Outcome State Fault Refusal :=
  wordExec (.opCwr e a i) s
    (fun v => { streams := (cregStream i.toNat).getD .gb, ok := (cregStream i.toNat).isSome && sSrcOk v false a, lats := [a] })
    (fun v =>
      match fetchOps s v [(a, 0)] none (fun _ _ => 0) with
      | .error x => x
      | .ok (s, w, fts) =>
        let x := (fts.map (sval w)).getD 0 0
        .done (if w.isBell then s.modBell w.p.blk (fun b => cwrBell b i.toNat x)
               else s.modGroup w.p.blk w.gi (fun g => cwrGroup g i.toNat x)) .invalid)

/-! ## Channels -/

/-- CHQ (R371). -/
def execChq (e : Bool) (d c : BitVec 8) (s : State) : Host.Outcome State Fault Refusal :=
  wordExec (.opChq e d c) s
    (fun v => { streams := .gb,
                ok := (match chanOf c with | some k => decide (k < v.b.decl.channels) | none => false) && sDstOk v false d })
    (fun v =>
      let k := c.toNat % 16
      scalarFinish s v d (BitVec.ofNat 64 ((v.b.chans.getD k []).length + (if v.b.decl.chanMask.getLsbD k then 256 else 0))))

end Sys2Proof.Machine
end

