-- ==== Sys2Proof/Machine/Access.lean ====
section
/-! DEFINITION. Where a lane's access goes and what it does there: addresses (R145 to R150, R215, R325), scratchpad ports
(R148 to R152), windows, single-lane loads, stores and synchronisation steps, and the course of a lane memory word with PMASK
(R224, R225, R227). -/

namespace Sys2Proof.Machine

open Sys2Proof

/-! ## Targets -/

/-- Where a lane's access goes. -/
inductive Tgt where
  | mem (l : Leaf) (va : W64)
  | scr (blk off : Nat) (own : Bool)
  | port (off : Nat)
  deriving DecidableEq, Repr

/-- What the address of a lane comes to. -/
inductive LRes where
  | goes (t : Tgt)
  | fault (code : Nat) (write st2 : Bool)
  | page (req : List Nat)
  | hold (w : Wait)
  deriving DecidableEq, Repr

/-- What became of a lane. -/
inductive LOut where
  /-- words for its destination registers; in flight or there; the write's GWCT, 0 for a read. -/
  | value (ws : List W32) (flight : Bool) (g : Nat)
  /-- a write with its GWCT and, in global memory, its line. -/
  | wrote (g : Nat) (line : Option Nat)
  /-- held at its slice, posted or sent: it completes later. -/
  | sent
  | dead
  /-- R306, R308: the request ended in an error: the lane is not performed and has a deferred fault. -/
  | late (code : Nat)
  | fault (code : Nat)
  | hold (w : Wait)
  | illop
  deriving DecidableEq, Repr

/-- R215 to R222, R298, R309: the target of a virtual address. -/
def memTgt (s : State) (v : View) (va : W64) (acc : Acc) : State × LRes :=
  match ctxOf s v.b with
  | none => (s, .fault fXLATE false false)
  | some c =>
    let wr := acc == .write
    if inRegion c va.toNat then (s, .hold (.region v.b.ctx))
    else
      match xlate s (xUnit v acc) c va acc true with
      | .ok (s, l) => if offLimits s l.pa then (s, .fault fPERM wr false) else (s, .goes (.mem l va))
      | .error (s, .hold w) => (s, .hold w)
      | .error (s, .fault code st2) => (s, .fault code wr st2)
      | .error (s, .need st2 page w absent) =>
        match needCode v.ctl.outcomes st2 page w absent with
        | some code => (s, .fault code w st2)
        | none =>
          match pageRequest s c.fn c.pasid st2 page w with
          | (s, some id) => (s, .page [id])
          | (s, none) => (s, .fault fXLATE w st2)

/-! ## Scratchpad addresses, windows and tags (R145 to R150) -/

/-- R149: the ACC of the valid window that a line of a block lies in. -/
def windowAcc (b : Block) (line : Nat) : Option Nat :=
  (b.wdesc.toList.filterMap windowOf).findSome? (fun w => if w.1 ≤ line ∧ line < w.1 + w.2.1 then some w.2.2 else none)

/-- R45, R264: the number of the resident block at a cluster-relative index of a block's cluster, of its own copy. -/
def peerBlk (s : State) (b : Block) (k : Nat) : Option Nat :=
  match s.grids[b.grid]? with
  | none => none
  | some g =>
    let lin := b.lin / g.cluster * g.cluster + k
    s.blocks.findIdx? (fun x => x.grid == b.grid && x.lin == lin && x.stat != .ended &&
      x.pair.map Pair.primary == b.pair.map Pair.primary && !((x.pair.map Pair.isThird).getD false))

/-- R45: the cluster size of a block's grid. -/
def clusterOf (s : State) (b : Block) : Nat := match s.grids[b.grid]? with | some g => g.cluster | none => 1

/-- R150: whether a line of a block's own allocation lies in a window under the tag of another block (notes/assumptions 85 for a tag
that names the block itself). -/
def ownBarred (s : State) (b : Block) (line : Nat) : Bool :=
  (windowAcc b line).isSome && (match assocGet b.tags line with | some t => t != b.lin % clusterOf s b | none => false)

/-- R145 to R150: the target of a scratchpad address, or its fault. -/
def scratchTgt (s : State) (v : View) (addr : Nat) (write : Bool) : Except Nat Tgt :=
  let a := addr % 2 ^ 32
  let off := a % 2 ^ 24
  let peer := a / 2 ^ 24 % 16
  if a / 2 ^ 29 != 0 then .error fILLOP
  else if !a.testBit 28 then
    if peer != 0 then .error fILLOP
    else if off < v.b.decl.scratch then
      if write && ownBarred s v.b (off / 128) then .error fWINCONF
      else .ok (.scr v.p.blk off true)
    else if off ≥ 0xFFFF00 then .ok (.port off)
    else .error fPERM
  else
    let rel := v.b.lin % clusterOf s v.b
    if peer ≥ clusterOf s v.b then .error fPERM
    else if peer == rel then .error fILLOP
    else
      match peerBlk s v.b peer with
      | none => .error fPERM
      | some k =>
        match s.block? k with
        | none => .error fPERM
        | some q =>
          if off ≥ 0xFFFF00 then .error fPERM
          else
            match windowAcc q (off / 128) with
            | none => .error fPERM
            | some acc =>
              if acc == 0 || (write && acc != 2) then .error fPERM
              else if write && assocGet q.tags (off / 128) != some rel then .error fWINCONF
              else .ok (.scr k off false)

/-- R403, R346, R465: a scratchpad address in bits 31:0 of a 64-bit one. -/
def scratchTgt64 (s : State) (v : View) (va : W64) (write : Bool) : Except Nat Tgt :=
  if va.toNat / 2 ^ 32 != 0 then .error fPERM else scratchTgt s v va.toNat write

/-- A scratchpad target as a lane's. -/
def lresOf (s : State) (r : Except Nat Tgt) (write : Bool) : State × LRes :=
  match r with
  | .ok t => (s, .goes t)
  | .error c => (s, .fault c write false)

/-! ## Ports (R148) -/

/-- R148: the size of a port, 0 for an offset without one. -/
def portSize (off : Nat) : Nat :=
  if off < 0xFFFF80 then (if off % 8 == 0 then 8 else 0)
  else if off == 0xFFFF80 || off == 0xFFFF90 || off == 0xFFFF98 then 8
  else if off == 0xFFFFF0 || off == 0xFFFFF4 || off == 0xFFFFF8 then 4 else 0

/-- R160: ring slots that may still be reserved. -/
def ringFree (b : Block) : Nat := 64 - (b.resv - b.head).toNat

/-- R7, R148: a read of a port at its size; none is ILLOP. WSET reads zero; a read of RESV reserves a slot. -/
def portRead (s : State) (blk off : Nat) : Option (State × Nat) :=
  match s.block? blk with
  | none => none
  | some b =>
    if off < 0xFFFF80 then some (s, (b.wdesc.toList.getD ((off - 0xFFFF00) / 16) 0).toNat / 2 ^ (64 * (off / 8 % 2)) % 2 ^ 64)
    else if off == 0xFFFF80 then some (s, 0)
    else if off == 0xFFFF90 then some (s, b.creg.toNat % 2 ^ 64)
    else if off == 0xFFFF98 then some (s, b.creg.toNat / 2 ^ 64)
    else if off == 0xFFFFF0 then some (s.modBlock blk (fun b => { b with resv := b.resv + 1 }), b.resv.toNat)
    else if off == 0xFFFFF4 then some (s, b.head.toNat)
    else if off == 0xFFFFF8 then some (s, b.tail.toNat)
    else none

/-- A 128-bit register with one half replaced. -/
def setHalf (d : BitVec 128) (hi : Bool) (x : Nat) : BitVec 128 :=
  if hi then BitVec.ofNat 128 (d.toNat % 2 ^ 64 + x % 2 ^ 64 * 2 ^ 64) else BitVec.ofNat 128 (d.toNat / 2 ^ 64 * 2 ^ 64 + x % 2 ^ 64)

/-- R149: whether a descriptor may stand beside the others of a block. -/
def windowOk (b : Block) (i : Nat) (d : BitVec 128) : Bool :=
  d.toNat / 2 ^ 44 == 0 && d.toNat / 2 ^ 24 % 256 == 0 && d.toNat / 8 % 16 == 0 && d.toNat / 2 % 4 != 3 &&
    match windowOf d with
    | none => true
    | some w =>
      let others := ((b.wdesc.toList.zipIdx).filter (fun x => x.2 != i)).filterMap (fun x => windowOf x.1)
      decide (128 * (w.1 + w.2.1) ≤ b.decl.scratch) &&
        others.all (fun o => decide (o.1 + o.2.1 ≤ w.1) || decide (w.1 + w.2.1 ≤ o.1)) &&
        decide ((others.map (fun o => o.2.1)).foldl (· + ·) w.2.1 ≤ 2048)

/-- R149, R150: a window descriptor written; the lines of a window that becomes valid take the tag owner. -/
def setWindow (b : Block) (i : Nat) (d : BitVec 128) : Block :=
  let old := b.wdesc.toList.getD i 0
  let inW (w : Option (Nat × Nat × Nat)) (l : Nat) : Bool :=
    match w with | some w => decide (w.1 ≤ l) && decide (l < w.1 + w.2.1) | none => false
  { b with
    wdesc := if h : i < 8 then b.wdesc.set i d else b.wdesc
    tags := b.tags.filter (fun t => !(inW (windowOf old) t.1 && !inW (windowOf d) t.1) && !(inW (windowOf d) t.1 && !inW (windowOf old) t.1)) }

/-- R150: WSET; none is ILLOP. The WRITER is kept as given (notes/assumptions 85). -/
def setWriter (b : Block) (x : Nat) : Option Block :=
  let first := x / 128 % 2 ^ 17
  let lines := (List.range (x / 2 ^ 32 % 4096 + 1)).map (fun k => first + k)
  if x / 2 ^ 53 != 0 || x / 2 ^ 44 % 16 != 0 || x / 2 ^ 24 % 256 != 0 || x % 128 != 0 then none
  else if !lines.all (fun l => (windowAcc b l).isSome) then none
  else
    let kept := b.tags.filter (fun t => !(decide (first ≤ t.1) && decide (t.1 < first + lines.length)))
    some { b with tags := if x.testBit 48 then lines.map (fun l => (l, x / 2 ^ 49 % 16)) ++ kept else kept }

/-- R152: whether CREG may take a value (log 22: the extents are judged when ON is set; an LSETS above 9 is refused, ON or not,
notes/assumptions 86). -/
def cregOk (b : Block) (d : BitVec 128) : Bool :=
  let x := d.toNat
  let sets := 2 ^ (x / 2 ^ 32 % 16)
  let reg := x / 4096 % 4096 * 4096
  let tab := x / 2 ^ 64 % 2 ^ 24
  x / 2 ^ 88 == 0 && x / 2 ^ 36 % 2 ^ 28 == 0 && x / 2 ^ 24 % 256 == 0 && x / 2 % 2 ^ 11 == 0 && tab % 8 == 0 &&
    decide (x / 2 ^ 32 % 16 ≤ 9) &&
    (!d.getLsbD 0 ||
      (decide (reg + sets * 2048 ≤ b.decl.scratch) && decide (tab + sets * 32 ≤ b.decl.scratch) &&
        (decide (reg + sets * 2048 ≤ tab) || decide (tab + sets * 32 ≤ reg)) && decide (0x800 ≤ reg) && decide (0x800 ≤ tab)))

/-- R7, R148: a write of a port at its size; none is ILLOP. A write of HEAD, which is read-only, is ignored; one of RESV, for which no
effect is stated, is ILLOP (notes/assumptions 86). -/
def portWrite (s : State) (blk off x : Nat) : Option State :=
  match s.block? blk with
  | none => none
  | some b =>
    if off < 0xFFFF80 then
      let i := (off - 0xFFFF00) / 16
      let d := setHalf (b.wdesc.toList.getD i 0) (off / 8 % 2 == 1) x
      if windowOk b i d then some (s.modBlock blk (fun b => setWindow b i d)) else none
    else if off == 0xFFFF80 then (setWriter b x).map (fun b' => s.modBlock blk (fun _ => b'))
    else if off == 0xFFFF90 || off == 0xFFFF98 then
      let d := setHalf b.creg (off == 0xFFFF98) x
      if cregOk b d then some (s.modBlock blk (fun b => { b with creg := d })) else none
    else if off == 0xFFFFF4 then some s
    else none

/-! ## New operations -/

/-- R176: a new entry of a party's counters. -/
def newOp (s : State) (v : View) (cls : Cls) (dst : Dst) : Nat × State :=
  let (id, s) := s.newId
  let o : OutOp := { id := id, cls := cls, side := v.side, done := false, g := 0, dst := dst, pending := [], miss := [],
                     lines := [], posted := false, stopped := false, made := 0, acq := false }
  (id, modOps s v.p (fun l => l ++ [o]))

/-- R65: whether a class's counter of a party stands at its limit. -/
def counterFull (s : State) (p : Party) (c : Cls) : Bool := decide (countOps (partyOps s p) c ≥ 1023)
/-- The number of a counter class as WAITC names it. -/
def clsNum : Cls → Nat
  | .lc => 0
  | .sc => 1
  | .ac => 2
  | .cc => 3

/-- R158, R161: the PROG that the ring entry of an index holds. -/
def ringProg (b : Block) (idx : Nat) : Nat := leNat (cellsRead b.scratch (32 * (idx % 64) + 29) 3)

/-- R160, R161: ring entries from TAIL up to an index published, each an entry of CC. -/
def publish (s : State) (v : View) : Nat → State
  | 0 => s
  | n + 1 =>
    match s.block? v.p.blk with
    | none => s
    | some b =>
      let (id, s) := newOp s v .cc .none
      let w : CopyWork := { idx := b.tail.toNat, issuer := if v.isBell then none else some v.gi, op := id, prog := ringProg b b.tail.toNat,
                            done := false, status := 0, g := 0, req := none, outcomes := [] }
      publish (s.modBlock v.p.blk (fun b => { b with tail := b.tail + 1, copies := b.copies ++ [w] })) v n

/-- R160: the notify store; none is ILLOP. Indices are compared modulo 2³²: one less than half the circle above TAIL is above it
(notes/assumptions 86). -/
def notify (s : State) (v : View) (x : W32) : Option State :=
  match s.block? v.p.blk with
  | none => none
  | some b =>
    let d := (x - b.tail).toNat
    if d == 0 || decide (d ≥ 2 ^ 31) then some s
    else if d > (b.resv - b.tail).toNat then none
    else some (publish s v d)

/-! ## One lane -/

/-- The 32-bit words that a loaded element of a type fills. -/
def wordsOf (t : Ty) (bs : List Byte) : List W32 :=
  let x := place t (leNat bs)
  if tyWide t then [BitVec.ofNat 32 x, BitVec.ofNat 32 (x / 2 ^ 32)] else [BitVec.ofNat 32 x]

/-- R174: a line on which a party has an outstanding write: performed and not complete, queued, posted or held. -/
def ownStore (s : State) (p : Party) (line : Nat) : Bool :=
  (partyOps s p).any (fun o => !o.done && o.lines.contains line) ||
    s.mem.writes.any (fun w => w.party == p && lineOf w.pa == line) ||
    s.mem.posted.any (fun w => w.party == p && lineOf w.pa == line) ||
    s.mem.held.any (fun h => h.party == p && h.line == line)

/-- One write's bytes over those of an address range. -/
def overlay (pa : Nat) (raw : List Byte) (wpa : Nat) (bs : List Byte) : List Byte :=
  raw.mapIdx (fun k b => if wpa ≤ pa + k ∧ pa + k < wpa + bs.length then bs.getD (pa + k - wpa) b else b)

/-- R174: memory bytes as a path sees them under its own writes that are still on their way, in the order in which it has made them;
`op` and `seq`: those made before an operation and before a place among the arrivals alone. -/
def ownOver (s : State) (p : Party) (pa : Nat) (raw : List Byte) (op seq : Nat) : List Byte :=
  let r := (s.mem.posted.filter (fun w => w.party == p && decide (w.op < op))).foldl (fun r w => overlay pa r w.pa w.bytes) raw
  (s.mem.writes.filter (fun w => w.party == p && decide (w.seq < seq))).foldl (fun r w => overlay pa r w.pa w.bytes) r

/-- R174: whether a party has a read queued for the owner of a line: what it does there later does not pass it. -/
def ownReads (s : State) (p : Party) (line : Nat) : Bool := s.mem.reads.any (fun r => r.party == p && lineOf r.pa == line)

/-- R90: whether the data of a line come from beyond its home slice. -/
def farLine (s : State) (pa typ : Nat) : Bool := typ == 2 || region s pa == .host || !s.mem.present.contains (lineOf pa)

/-- R299: no lease is granted on a line while an AtomicOp is in flight for it. -/
def leaseBar (s : State) (line : Nat) : Bool := s.mem.atomics.any (fun a => lineOf a.pa == line)

/-- R170, R173, R299: what a read at the slice makes of its core's L1: it fills the line under a lease, where one may be granted; else the
core's copy goes, so that no later read of the core returns an older value. -/
def l1Take (s : State) (core line typ lease : Nat) (fill : Bool) : State :=
  if fill && typ != 2 && !leaseBar s line && !heldOn s line && !physPoison s (line * 128) 128 then l1Fill s core line lease
  else l1Drop s core line

/-- R168 to R174, R188, R306: a read of `n` bytes of global memory: the bytes and whether they are in flight, or the code of the
fault that they bring: POISON for a poisoned word. `bypass`: the read never hits the L1; `fill`: it fills the L1. A read at the slice that
fills no L1 line ends the core's copy, so that no later read of the core returns an older value. -/
def readMem (s : State) (v : View) (l : Leaf) (n : Nat) (bypass fill : Bool) :
    State × Except Wait (Except Nat (List Byte × Bool)) :=
  let line := lineOf l.pa
  let own := ownStore s v.p line
  let hit := if bypass || l.typ == 2 || own || (herdOf s line).isSome then none
    else (l1Find s v.b.core line).filter (fun x => decide (s.ft < x.lease))
  match hit with
  | some x => (s, if x.bad then .ok (.error fPOISON) else .ok (.ok (shadowOver v.b.pair l.pa ((x.bytes.drop (l.pa % 128)).take n), false)))
  | none =>
    if ownReads s v.p line then (s, .error (.held line))
    else
    match lineReady s (v.cause s) l.pa n l.typ .read with
    | (s, .wait w) => (s, .error w)
    | (s, .err c) => (s, .ok (.error c))
    | (s, .go) =>
      if physPoison s l.pa n || shadowBad v.b.pair l.pa n then (s, .ok (.error fPOISON))
      else
        let bs := ownOver s v.p l.pa (shadowOver v.b.pair l.pa (ownRead s l.pa n)) s.nextId s.nextId
        let far := farLine s l.pa l.typ
        let lease := match s.ctxs[v.b.ctx]? with | some c => c.desc.lease | none => 0
        (l1Take (if bypass then l1Away s v.p line else s) v.b.core line l.typ lease fill, .ok (.ok (bs, far)))

/-- R401 to R405: one lane of a load. -/
def loadLane (s : State) (v : View) (t : Tgt) (n : Nat) (words : List Byte → List W32) (bypass fill : Bool) : State × LOut :=
  match t with
  | .mem l _ =>
    match readMem s v l n bypass fill with
    | (s, .error w) => (s, .hold w)
    | (s, .ok (.error c)) => (s, if c == fPOISON then .dead else .late c)
    | (s, .ok (.ok (bs, far))) => (s, .value (words bs) far 0)
  | .scr blk off _ => if scratchPoison s blk off n then (s, .dead) else (s, .value (words (scratchRead s blk off n)) false 0)
  | .port off =>
    if portSize off != n then (s, .illop)
    else
      match portRead s v.p.blk off with
      | none => (s, .illop)
      | some (s, x) => (s, .value (words (leBytes n x)) false 0)

/-- R171, R186, R265, R463: a plain store of bytes to global memory. One that its line's owner cannot take yet is queued, and the
path goes on. -/
def storeMem (s : State) (v : View) (op ln : Nat) (va : W64) (l : Leaf) (bs : List Byte) (hint : Nat) : State × LOut :=
  match v.b.pair with
  | some _ =>
    match s.block? v.p.blk with
    | none => (s, .illop)
    | some b =>
      match b.pair.bind (fun p => (shadowPut p l.pa bs).map (·.typed l.pa l.typ)) with
      | none => (s, .fault fPERM)
      | some p => (s.modBlock v.p.blk (fun b => { b with pair := some p }), .wrote s.ft none)
  | none =>
    let post : Option (Bool × Bool) :=
      if l.typ == 2 || (region s l.pa == .host && (hint == 1 || hint == 2)) then some (hint == 2, hint == 1 || hint == 2) else none
    match (if ownReads s v.p (lineOf l.pa) then (s, LineAns.wait (.held (lineOf l.pa))) else lineReady s (v.cause s) l.pa bs.length l.typ .write) with
    | (s, .wait (.snatch a)) => (s, .hold (.snatch a))
    | (t, .wait _) =>
      if !v.isBell && !(missAsk s v false).2 then ((missAsk s v false).1, .hold .miss)
      else
        (queueWrite (if v.isBell then t else (missAsk t v false).1)
          { seq := 0, party := v.p, op := op, lane := ln, va := va, pa := l.pa, typ := l.typ, bytes := bs, post := post }, .sent)
    | (s, .err c) => (s, .late c)
    | (s, .go) =>
      match post with
      | some k =>
        (s.modMem (fun m => { m with posted := m.posted ++ [{ party := v.p, op := op, pa := l.pa, bytes := bs, wc := k.1, relaxed := k.2 }] }), .sent)
      | none =>
        let s := handLine s v.p (lineOf l.pa)
        let g := gFull s l.pa
        (ownWrite s l.pa bs l.typ none, .wrote g (some (lineOf l.pa)))

/-- R146, R151, R252, R466: a store of bytes to scratchpad storage. -/
def storeScr (s : State) (blk off : Nat) (own : Bool) (bs : List Byte) : State × LOut :=
  if itemHeld s blk (.scratch blk (off / 128)) then (noteItem s blk (.scratch blk (off / 128)), .hold (.snatch off))
  else (scratchWrite s blk off bs own, .wrote s.ft none)

/-- R463, R466: one lane of a plain store. -/
def storeLane (s : State) (v : View) (op ln : Nat) (t : Tgt) (bs : List Byte) (hint : Nat) : State × LOut :=
  match t with
  | .mem l va => storeMem s v op ln va l bs hint
  | .scr blk off own => storeScr s blk off own bs
  | .port off =>
    if portSize off != bs.length then (s, .illop)
    else
      match portWrite s v.p.blk off (leNat bs) with
      | none => (s, .illop)
      | some s => (s, .wrote s.ft none)

/-- R168, R347: one lane's synchronisation step at a scratchpad port. -/
def syncScr (s : State) (blk off : Nat) (own : Bool) (o : SyncOp) (words : List Byte → List W32) : State × LOut :=
  let n := o.size
  if itemHeld s blk (.scratch blk (off / 128)) then (noteItem s blk (.scratch blk (off / 128)), .hold (.snatch off))
  else if (match o with | .write _ => false | _ => true) && scratchPoison s blk off n then (s, .dead)
  else
    let old := scratchRead s blk off n
    match o.apply old with
    | some bs => (scratchWrite s blk off bs own, .value (words old) false s.ft)
    | none => (s, .value (words old) false 0)

/-! ## System-scope atomics (R299, R300) -/

/-- R299, R300: the ATOMCAP bit an operation needs; none when no AtomicOp exists for it. -/
def atomicBit (o : SyncOp) : Option Nat :=
  match o with
  | .rmw 0 ty x => if tyFloat (tyOf ty) then none else some (if x.length == 4 then 0 else 1)
  | .rmw 1 _ x => some (if x.length == 4 then 2 else 3)
  | .cas c _ => some (if c.length == 4 then 4 else if c.length == 8 then 5 else 6)
  | _ => none

/-- R346, R350, R299, R300: whether an atomic lane at a scope may be performed where its address lies; false is ATOMUNS. -/
def atomicOk (s : State) (fn : Nat) (l : Leaf) (scope : Nat) (o : SyncOp) : Bool :=
  let host := region s l.pa == .host
  if l.typ == 1 then false
  else
    match o with
    | .rmw2 _ _ _ _ => scope != 5 && !host && l.typ != 2
    | _ =>
      if scope != 5 then !host && l.typ != 2
      else if host then
        match atomicBit o with
        | none => false
        | some b => (((s.fns[fn]?).map Fn.atomcap).getD 0).getLsbD (if l.typ == 2 then 8 + b else b)
      else true

/-- R299: each lane sent as its own AtomicOp, in ascending lane order. -/
def sendAtomics (s : State) (p : Party) (op : Nat) (dst : Dst) (words : Nat) (reqs : List LaneReq) : State :=
  reqs.foldl (fun s r =>
    let (id, s) := (dropSectors s (lineOf r.pa)).newId
    let a : HostAtomic := { id := id, party := p, op := op, lane := r.lane, pa := r.pa, va := r.va, req := r.op, dst := dst, words := words }
    (s.modMem (fun m => { m with atomics := m.atomics ++ [a] })).send (.atomicOp id (ctxFn s (partyCtx s p)) (busOf r.pa) r.op)) s

/-- Whether a step goes to the host home agent as an AtomicOp. -/
def isHostAtomic (s : State) (r : LaneReq) : Bool :=
  region s r.pa == .host && (match r.op with | .write _ => false | .cnta _ => false | _ => true)

/-- R169, R347: what one lane of a performed step answers: its old value, with the time at which it was performed if it wrote. -/
def syncOut (ft : Nat) (words : List Byte → List W32) (x : Option (List Byte × Bool)) : LOut :=
  match x with
  | some (old, wrote) => .value (words old) false (if wrote then ft else 0)
  | none => .dead

/-- R173, R188, R348: the synchronisation step of one line: performed now, held at the slice, or sent to the host. The core's own copy of
the line goes, so that no later read of it returns an older value (R174). -/
def syncLine (s : State) (v : View) (op : Nat) (dst : Dst) (words : List Byte → List W32) (nw pa typ : Nat)
    (reqs : List LaneReq) : State × List (Nat × LOut) :=
  let all (o : LOut) : List (Nat × LOut) := reqs.map (fun r => (r.lane, o))
  let host := reqs.any (isHostAtomic s)
  let counts := reqs.any (fun r => match r.op with | .cnta _ => true | _ => false)
  if typ == 2 && host then
    (if !v.isBell && !(missAsk s v false).2 then ((missAsk s v false).1, all (.hold .miss))
    else (sendAtomics (if v.isBell then s else (missAsk s v false).1) v.p op dst nw reqs, all .sent))
  else if typ == 2 && counts then
    let (s, l) := syncLanes (handLine s v.p (lineOf pa)) none 2 reqs
    (s, l.map (fun x => (x.1, syncOut s.ft words x.2)))
  else if typ == 2 then
    (s.modMem (fun m => { m with posted := m.posted ++ reqs.filterMap (fun r =>
      match r.op with
      | .write d => some { party := v.p, op := op, pa := r.pa, bytes := d, wc := false, relaxed := false }
      | _ => none) }), all .sent)
  else
    match lineReady s (v.cause s) pa 1 typ .sync with
    | (s, .wait w) => (s, all (.hold w))
    | (s, .err c) => (s, all (if c == fPOISON && dst != .none then .dead else .late c))
    | (s, .go) =>
      let line := lineOf pa
      if heldOn s line || queuedOn s line || ownReads s v.p line || ((host || syncWrites s reqs) && !syncReady s pa) then
        if !v.isBell && !(missAsk s v false).2 then ((missAsk s v false).1, all (.hold .miss))
        else
        (holdWrite (if v.isBell then s else (missAsk s v false).1) { party := v.p, op := op, line := line, lanes := reqs, dst := dst, words := nw, acks := [], seq := 0, obj := false, far := none },
          all .sent)
      else if host then
        (if !v.isBell && !(missAsk s v false).2 then ((missAsk s v false).1, all (.hold .miss))
        else (sendAtomics (if v.isBell then s else (missAsk s v false).1) v.p op dst nw reqs, all .sent))
      else
        let (s, l) := syncLanes (l1Away (handLine s v.p line) v.p line) none 0 reqs
        (s, l.map (fun x => (x.1, syncOut s.ft words x.2)))

/-- R348: the synchronisation steps of lanes, line by line in the order of their lowest lanes. `fuel` is at least the number
of lanes. -/
def syncAll (v : View) (op : Nat) (dst : Dst) (words : List Byte → List W32) (nw : Nat) (o : Nat → SyncOp) :
    Nat → State → List (Nat × Tgt) → State × List (Nat × LOut)
  | 0, s, _ => (s, [])
  | _ + 1, s, [] => (s, [])
  | fuel + 1, s, (ln, t) :: rest =>
    match t with
    | .mem l va =>
      let same (x : Nat × Tgt) : Option LaneReq :=
        match x.2 with
        | .mem k w => if lineOf k.pa == lineOf l.pa then some { lane := x.1, pa := k.pa, va := w, op := o x.1 } else none
        | _ => none
      let reqs : List LaneReq := { lane := ln, pa := l.pa, va := va, op := o ln } :: rest.filterMap same
      let (s, a) := syncLine s v op dst words nw l.pa l.typ reqs
      let (s, b) := syncAll v op dst words nw o fuel s (rest.filter (fun x => (same x).isNone))
      (s, a ++ b)
    | .scr blk off own =>
      let (s, x) := syncScr s blk off own (o ln) words
      let (s, b) := syncAll v op dst words nw o fuel s rest
      (s, (ln, x) :: b)
    | .port _ =>
      let (s, b) := syncAll v op dst words nw o fuel s rest
      (s, (ln, .illop) :: b)

/-! ## The course of a lane memory word (R224, R225, R227) -/

/-- A lane memory word: its counter class, awaited destination, alignment, lane addresses, whether it writes, what an address
comes to, and what the lanes with targets do. -/
structure LaneJob where
  cls : Cls
  dst : Dst
  align : Nat
  addr : Nat → W64
  write : Bool
  /-- R403: no later access of the path issues before it has completed. -/
  acq : Bool := false
  resolve : State → Nat → State × LRes
  perform : State → Nat → List (Nat × Tgt) → State × List (Nat × LOut)

/-- R224, R225: the lanes of the path's stopped access that are not made again: those of PMASK (log 21: a handler's own access keeps them
apart), and those that its operation has made and are still on their way. -/
def View.perf (v : View) : W32 :=
  match v.ctl.openOp with
  | none => 0
  | some id =>
    (match v.g.ops.find? (fun o => o.id == id) with | some o => o.made | none => 0) |||
      (if v.ctl.trapOp.isSome then 0 else v.g.pmask &&& v.path.mask)

/-- R225, R248: PMASK in the lanes of a path set; the access of a handler sets none. -/
def setPerf (s : State) (v : View) (x : W32) : State :=
  if v.ctl.trapOp.isSome then s
  else s.modGroup v.p.blk v.gi (fun g => Group.mark { g with pmask := (g.pmask &&& ~~~v.path.mask) ||| x } 0)

/-- The targets of lanes, in ascending order, with what else their addresses came to. -/
def resolveEach (f : State → Nat → State × LRes) : State → List Nat → State × List (Nat × LRes)
  | s, [] => (s, [])
  | s, l :: rest =>
    let (s, r) := f s l
    let (s, q) := resolveEach f s rest
    (s, (l, r) :: q)

/-- R481: what a lane's address comes to behind a lane whose walk has still to wait: it opens no page request before that lane does. -/
def behind (f : State → Nat → State × LRes) (w : Wait) (s : State) (l : Nat) : State × LRes :=
  match f s l with
  | (_, .page _) => (s, .hold w)
  | r => r

/-- R225, R481: the targets of lanes, in ascending order, with what else their addresses came to; their page requests are opened in the order
of their lowest lanes. -/
def resolveAll (f : State → Nat → State × LRes) : State → List Nat → State × List (Nat × LRes)
  | s, [] => (s, [])
  | s, l :: rest =>
    let (s, r) := f s l
    let (s, q) := match r with | .hold w => resolveEach (behind f w) s rest | _ => resolveAll f s rest
    (s, (l, r) :: q)

/-- R227: the faults of group 4 in their order of delivery. -/
def laneFaultOrder : List Nat := [fPRIV, fXLATE, fPERM, fWINREV, fWINCONF, fATOMUNS, fPOISON]

/-- R227: the fault delivered among those of lanes: its code, its lanes, and the lowest lane's flags. -/
def pickFault (fs : List (Nat × Nat × Bool × Bool)) (addr : Nat → W64) : Option Exc :=
  match laneFaultOrder.find? (fun c => fs.any (fun f => f.2.1 == c)) with
  | none => none
  | some c =>
    let mine := fs.filter (fun f => f.2.1 == c)
    let m := maskOf (fun l => mine.any (fun f => f.1 == l))
    let low := lowLane m
    match mine.find? (fun f => f.1 == low) with
    | some f => some { exc c (addr low) with lanes := m, write := f.2.2.1, stage2 := f.2.2.2 }
    | none => some { exc c (addr low) with lanes := m }

/-- R41: the channels of a block as another state has them, its pops undone. -/
def restoreChans (s s0 : State) (blk : Nat) : State :=
  match s0.block? blk with
  | none => s
  | some b =>
    let mine (l : PLoc) : Bool := match l with | .chan k _ _ _ => k == blk | _ => false
    let s := s.modBlock blk (fun x => { x with chans := b.chans })
    if s0.mem.poison.any mine then
      s.modMem (fun m => { m with poison := s0.mem.poison.filter mine ++ m.poison.filter (fun l => !mine l) })
    else s

/-- R225: lanes of a word made: data delivered or in flight, times and lines noted, lanes dead; and what is left. -/
def commitLanes (s : State) (v : View) (id : Nat) (dst : Dst) (outs : List (Nat × LOut)) : State :=
  let base := match dst with | .vreg r _ => r | _ => 0
  let ws (far : Bool) : List (Nat × Nat × W32) := (outs.map (fun (x : Nat × LOut) =>
    match x.2 with
    | .value l f _ => if f == far then (l.zipIdx).map (fun (y : W32 × Nat) => (x.1, base + y.2, y.1)) else []
    | _ => [])).flatten
  let g := outs.foldl (fun m x => match x.2 with | .value _ _ t => max m t | .wrote t _ => max m t | _ => m) 0
  let lines := outs.filterMap (fun x => match x.2 with | .wrote _ (some l) => some l | _ => none)
  let s := match dst with | .vreg _ _ => deliver s v.p dst (ws false) | _ => s
  modOp s v.p id (fun o => { o with
    g := max o.g g, lines := lines ++ o.lines, pending := match dst with | .vreg _ _ => o.pending ++ ws true | _ => o.pending })

/-- R306: the deferred faults of lanes whose request ended in an error, one for each code. -/
def lateLanes (s : State) (v : View) (j : LaneJob) (outs : List (Nat × LOut)) : State :=
  [fPERM, fWINREV, fPOISON].foldl (fun s c =>
    let m := maskOf (fun l => outs.any (fun x => x.1 == l && x.2 == .late c))
    if m == 0 then s
    else addDeferred s v.p { cls := j.cls, side := v.side, code := c, addr := j.addr (lowLane m), lanes := m, dst := j.dst, write := j.write }) s

/-- R225: the operation that a lane memory word goes on with, or the one it opens. -/
def jobStart (s : State) (v : View) (j : LaneJob) : Nat × State :=
  match v.ctl.openOp with
  | some id => (id, modOp s v.p id (fun o => { o with dst := j.dst }))
  | none => let (id, s) := newOp s v j.cls j.dst; (id, if j.acq then modOp s v.p id (fun o => { o with acq := true }) else s)

/-- The target of a lane's address. -/
def resTgt (x : Nat × LRes) : Option (Nat × Tgt) := match x.2 with | .goes t => some (x.1, t) | _ => none
/-- The wait that a lane's address comes to. -/
def resWait (x : Nat × LRes) : Option Wait := match x.2 with | .page r => some (.page r) | .hold w => some w | _ => none
/-- R481: the page requests that a lane waits on. -/
def resPages (x : Nat × LRes) : List Nat := match x.2 with | .page r => r | _ => []

/-- R225: what the addresses of lanes wait for: their page requests together, each of which replays its lanes; else the first wait. -/
def resHold (res : List (Nat × LRes)) : Option Wait :=
  match (res.map resPages).flatten.eraseDups with
  | [] => res.findSome? resWait
  | rs => some (.page rs)
/-- The fault that a lane's address comes to: its code, and whether it is a write's and of stage 2. -/
def resFault (x : Nat × LRes) : Option (Nat × Nat × Bool × Bool) := match x.2 with | .fault c w st => some (x.1, c, w, st) | _ => none
/-- R346: an address that makes the whole instruction illegal. -/
def resIllop (x : Nat × LRes) : Bool := match x.2 with | .fault c _ _ => c == fILLOP | _ => false
/-- R224, R306: a lane whose access has been made: its data come, its write is done or sent, or its error is deferred. -/
def laneMade : LOut → Bool
  | .value _ _ _ | .wrote _ _ | .sent | .late _ => true
  | .dead | .fault _ | .hold _ | .illop => false
/-- The wait that a lane's access comes to. -/
def outWait (x : Nat × LOut) : Option Wait := match x.2 with | .hold w => some w | _ => none
/-- The fault that a lane's access comes to. -/
def outFault (write : Bool) (x : Nat × LOut) : Option (Nat × Nat × Bool × Bool) :=
  match x.2 with | .fault c => some (x.1, c, write, false) | _ => none

/-- The targets among what the addresses of lanes came to. -/
def jobTargets (res : List (Nat × LRes)) : List (Nat × Tgt) :=
  res.filterMap resTgt

/-- R482: the lanes of a load or of an atomic of a view's party whose values have still to come. -/
def flyLanes (s : State) (v : View) (id : Nat) : W32 :=
  maskOf (fun l => (partyOps s v.p).any (fun o => o.id == id && o.pending.any (fun x => x.1 == l)) ||
    s.mem.reads.any (fun r => r.op == id && r.lane == l) || s.mem.atomics.any (fun a => a.op == id && a.lane == l) ||
    s.mem.held.any (fun h => h.op == id && h.lanes.any (fun r => r.lane == l)))

/-- R224: whether something that a word has issued is still on its way. -/
def jobFlying (s : State) (v : View) (id : Nat) : Bool := (partyOps s v.p).any (fun o => o.id == id && opFlying s o)

/-- R224, R225, R227, R482: what a lane memory word comes to once its lanes have been tried: the made lanes committed; then a wait, a fault
of the lanes, or its end. A fault waits for what the word has on its way, and so does the end of a word that has waited for pages
(notes/assumptions 107). -/
def settleLanes (s0 s : State) (v : View) (j : LaneJob) (id : Nat) (res : List (Nat × LRes)) (outs : List (Nat × LOut)) : Act :=
  let s := commitLanes s v id j.dst outs
  let made := maskOf (fun l => outs.any (fun x => x.1 == l && laneMade x.2))
  let s := lateLanes s v j outs
  let died := maskOf (fun l => outs.any (fun x => x.1 == l && x.2 == .dead))
  let faults := res.filterMap resFault ++ outs.filterMap (outFault j.write)
  let flying := jobFlying s v id
  let hold := ((resHold res).or (outs.findSome? outWait)).or (if flying && (!faults.isEmpty || v.ctl.replays) then some (.flight id) else none)
  let stop := hold.isSome || !faults.isEmpty
  let all := v.perf ||| made
  let s := modOp s v.p id (fun o => { o with stopped := stop, made := if stop then all else o.made })
  let s := if stop then setPerf s v (all &&& ~~~flyLanes s v id) else if v.ctl.openOp.isSome then setPerf s v 0 else s
  let s := if stop then s.modCtl v.p (fun c => { c with openOp := some id }) else s
  let s := if died == 0 then s else killLanes s v died
  if s.cur.isNone then .over (modOp s v.p id (fun o => { o with stopped := false }))
  else
    match hold, pickFault faults j.addr with
    | some w, _ => .wait (restoreChans s s0 v.p.blk) w
    | none, some x => .trap (modOp (restoreChans s s0 v.p.blk) v.p id (fun o => { o with dst := .none })) x
    | none, none =>
      if j.cls == .lc && !flying then .done (completeOp s v.p id) .invalid
      else .done (modOp s v.p id (fun o => { o with dst := if flying then o.dst else .none })) .invalid

/-- R148, R346: an address that names a port at another size than its own. -/
def portMisfit (n : Nat) (x : Nat × LRes) : Bool := match x.2 with | .goes (.port off) => portSize off != n | _ => false

/-- R224, R225, R227: the course of a lane memory word. `s0` is the state before its channel sources were popped. An illegal address in
some lane goes before a misaligned one in another. -/
def laneJob (s0 s : State) (v : View) (j : LaneJob) : Act :=
  let m := v.active
  let bad := maskOf (fun l => inMask m l && (j.addr l).toNat % j.align != 0)
  if bad != 0 then
    let r := (resolveAll j.resolve s (laneList.filter (inMask (m &&& ~~~v.perf)))).2
    if r.any resIllop || r.any (portMisfit j.align) then .trap s0 (exc fILLOP)
    else .trap s0 { exc fALIGN (j.addr (lowLane bad)) with lanes := bad }
  else if v.ctl.openOp.isNone && counterFull s v.p j.cls then .wait s0 (.counter (clsNum j.cls))
  else
    let st := jobStart s v j
    let r := resolveAll j.resolve st.2 (laneList.filter (inMask (m &&& ~~~v.perf)))
    if r.2.any resIllop then .trap s0 (exc fILLOP)
    else
      let q := j.perform r.1 st.1 (jobTargets r.2)
      if q.2.any (fun x => x.2 == .illop) then .trap s0 (exc fILLOP) else settleLanes s0 q.1 v j st.1 r.2 q.2

/-! ## Forwarded accesses of paired blocks (R266, R267) -/

/-- The parties of a block. -/
def partiesOf (b : Block) (blk : Nat) : List Party :=
  { blk := blk, who := .bell } ::
    ((List.range b.groups.length).map (fun g => [({ blk := blk, who := .path g false } : Party), { blk := blk, who := .path g true }])).flatten

/-- R265 to R267: how a word of a paired block is a forwarded access: not at all; of the copy's own scratchpad, of which each copy has one; or
of what the copies share. -/
inductive Fwd where
  | no | own | once
  deriving DecidableEq, Repr

/-- R266: a synchronisation access at a scope: core scope reaches the copy's own scratchpad alone. -/
def syncFwd (scope : Nat) : Fwd := if scope == 0 then .own else .once

/-- R267: a block's state kept as its pair snapshot, data on their way taken as arrived. -/
def snapshot (s : State) (blk : Nat) : State :=
  match s.block? blk with
  | none => s
  | some b =>
    let t := (partiesOf b blk).foldl (fun t p => (partyOps t p).foldl (fun t o =>
      if o.pending.isEmpty then t else completeOp (deliver t p o.dst o.pending) p o.id) t) s
    match t.block? blk with
    | some b' => { s with snaps := assocSet s.snaps blk b' }
    | none => s

/-- R267: the result of a primary's forwarded access given to the same party of the secondary: its destination, POSTFULL, its dead lanes and,
unless the secondary's own scratchpad has taken the access too (`own`), its counter entry; the snapshot of the secondary has them too. -/
def mirror (s : State) (v : View) (dst : Dst) (own : Bool) : State :=
  match v.b.pair, s.view v.p with
  | some pr, some u =>
    let q : Party := { v.p with blk := pr.mate }
    let old := if v.isBell then v.b.bell.ops else v.g.ops
    let fresh := (partyOps s v.p).filter (fun o => v.ctl.openOp == some o.id || !old.any (fun x => x.id == o.id))
    let s := if own then s else modOps s q (fun l => l ++ fresh)
    let s := match dst, v.p.who with
      | .vreg r n, .path g _ => s.modGroup pr.mate g (fun x =>
          (List.range n).foldl (fun x k => x.setV (r + k) u.active (fun l => u.g.vlane (r + k) l)) x)
      | .sreg r, .path g _ => s.modGroup pr.mate g (fun x => x.setS r (u.g.s.toList.getD r 0))
      | .sreg r, .bell => s.modBell pr.mate (fun b => b.setW r (u.b.bell.w.toList.getD r 0))
      | .pred r, .path g _ => s.modGroup pr.mate g (fun x =>
          Group.mark { x.setP r u.active (u.g.pred r) with gstat := x.gstat ||| (u.g.gstat &&& 4#32) } 0)
      | _, _ => s
    let s := s.modCtl q (fun c => { c with fwd := true, wait := .ready })
    match s.view q with
    | some w => snapshot (if u.g.dead &&& ~~~w.g.dead == 0 then s else { killLanes s w u.g.dead with cur := s.cur }) pr.mate
    | none => s
  | _, _ => s

/-- R267: a fault of a primary's forwarded access raised in the secondary too. -/
def mirrorTrap (s : State) (v : View) (x : Exc) : State :=
  match v.b.pair with
  | some pr =>
    match s.view { v.p with blk := pr.mate } with
    | some w => if w.traps then { raise s w x with cur := s.cur } else s
    | none => s
  | none => s

/-- R267: the channels that a secondary's forwarded access pops; it waits while one is empty. -/
def popSources (s : State) (v : View) (srcs : List (BitVec 8)) : Act :=
  match fetchChans srcs v.b.chans [] with
  | .error c => .wait s (.pop c)
  | .ok (_, cs, pops) =>
    .done (if pops.isEmpty then s else (s.modBlock v.p.blk (fun b => { b with chans := cs })).popPoison v.p.blk pops) .invalid

/-- R265, R267: an access of the copy's own scratchpad that the primary has performed, made by the secondary at its own scratchpad too; none
while that makes it wait (notes/assumptions 30). -/
def alsoOwn (s : State) (v : View) (mate : Nat) (act : State → View → Act) : Option State :=
  let q : Party := { v.p with blk := mate }
  match s.view q with
  | none => some s
  | some w =>
    match act { s with cur := some q } w with
    | .wait _ _ => none
    | .done t _ | .over t => some { restoreChans t s mate with cur := s.cur }
    | _ => some s

/-- R266, R267: a word that may be a forwarded access in a paired block: it waits at its compare point; the primary performs it, and the
secondary receives its result. `srcs`: its sources. -/
def forwarded (s : State) (v : View) (how : Fwd) (dst : Dst) (srcs : List (BitVec 8)) (act : State → View → Act) : Act :=
  match v.b.pair with
  | none => act s v
  | some pr =>
    if how == .no then act s v
    else if v.ctl.fwd then popSources s v srcs
    else if !v.ctl.cmpOk then .wait s (.compare 0)
    else if !pr.primary then .wait s .forward
    else
      match act s v with
      | .done t l =>
        if how == .own then
          (match alsoOwn t v pr.mate act with
          | some t => .done (mirror t v dst true) l
          | none => .wait s .again)
        else .done (mirror t v dst false) l
      | .trap s x => .trap (mirrorTrap s v x) x
      | a => a

end Sys2Proof.Machine
end

