-- ==== Sys2Proof/Machine/Memory.lean ====
section
/-! DEFINITION. The memory row (OP 0x4E to 0x5E): scalar and lane loads and stores, accumulator access, prefetch, the tag table
and the memory waits. -/

namespace Sys2Proof.Machine

open Sys2Proof

/-! ## Operands -/

/-- R319, R325: the field that the S field of Format M names. -/
def sField (v : View) (s : BitVec 5) : BitVec 8 := if v.isBell then s.setWidth 8 else 0x80#8 + s.setWidth 8
/-- R325: the base register's value. -/
def baseOf (v : View) (s : BitVec 5) : W64 := v.sreg s.toNat
/-- R401: the offset classes of a lane access. -/
def offsetOk (v : View) (a : BitVec 8) : Bool := laneSrcOk v 1 true false a
/-- R401, R462: a TYPE with a whole number of bytes. -/
def byteTy (v : View) : Bool := decide (8 ≤ tyBits v.ty)
/-- R324: whether a hint is legal; wc only in stores. -/
def hintOk (store : Bool) (h : BitVec 3) : Bool := decide (h.toNat ≤ 3) && (store || h != 2#3)
/-- R325: the virtual address of a lane. -/
def laneVa (v : View) (s : BitVec 5) (fts : List Fetched) (l : Nat) : W64 :=
  baseOf v s + (BitVec.ofNat 32 (rawAt v 1 fts 0 l)).signExtend 64
/-- R325: the scratchpad address of a lane. -/
def laneScr (v : View) (s : BitVec 5) (fts : List Fetched) (l : Nat) : W64 :=
  zx (lo32 (baseOf v s) + BitVec.ofNat 32 (rawAt v 1 fts 0 l))

/-- R41, R235: the sources of a lane memory word fetched; lanes not yet performed that read poison die. -/
def fetchLanes (s : State) (v : View) (ops : List (BitVec 8 × Nat)) : Except Act (State × View × List Fetched) :=
  fetchOps s v ops none (fun v fts => diesOf s v (v.active &&& ~~~v.perf) fts ops)

/-- R66: the code of the TYPE in force. -/
def tyCode (v : View) : Nat := (v.mode.extractLsb' 5 4).toNat

/-! ## Single accesses (R456) -/

/-- R225: what the address of a path's one access comes to: whether it is aligned, its target, and what it does then. `s0` is the state before
its channel sources were popped. -/
def singleOf (s0 : State) (blk : Nat) (aligned : Bool) (va : W64) (r : State × LRes) (k : State → Leaf → Act) : Act :=
  if !aligned then .trap s0 (exc fALIGN va)
  else
    match r with
    | (s, .goes (.mem l _)) => k s l
    | (_, .goes _) => .trap s0 (exc fILLOP)
    | (s, .fault c w st2) => .trap (restoreChans s s0 blk) (xExc c va w st2)
    | (s, .page r) => .wait (restoreChans s s0 blk) (.page r)
    | (s, .hold w) => .wait (restoreChans s s0 blk) w

/-- R225, R456: one access of a path: its alignment, its translation, and what it does then. `s0` is the state before its channel
sources were popped. -/
def single (s0 s : State) (v : View) (va : W64) (align : Nat) (acc : Acc) (k : State → Leaf → Act) : Act :=
  singleOf s0 v.p.blk (va.toNat % align == 0) va (memTgt s v va acc) k

/-- R92: a read of a stream with the miss-status entry that it needs once it has missed in its home slice; without one it changes
nothing and the stream stalls. -/
def readFor (s : State) (v : View) (l : Leaf) (n : Nat) (bypass fill : Bool) : State × Except Wait (Except Nat (List Byte × Bool)) :=
  match readMem s v l n bypass fill with
  | (t, .ok (.ok (bs, true))) =>
    (match missAsk s v false with
    | (_, true) => ((missAsk t v false).1, .ok (.ok (bs, true)))
    | (s, false) => (s, .error .miss))
  | r => r

/-- R90, R173: a lane's read, or an SLD's, queued for the owner of its line, under the miss-status entry that it has claimed. -/
def readLater (s : State) (p : Party) (id lane : Nat) (va : W64) (l : Leaf) (ty : Option Nat) (fill : Bool) (k : Wait) : State :=
  queueRead s { seq := 0, party := p, op := id, lane := lane, va := va, pa := l.pa, typ := l.typ, ty := ty, fill := fill,
                far := match k with | .remote _ => true | _ => false }

/-- R90: an SLD whose line's owner makes it wait: its word has issued, and D awaits the data. -/
def sldLater (t : State) (w : View) (va : W64) (l : Leaf) (h : BitVec 3) (reg : Dst) (k : Wait) : State :=
  let (id, t) := newOp t w .lc reg
  readLater t w.p id 32 va l none (h != 3#3) k

/-- SLD (R456, R457): poisoned data reach no lane and leave a deferred fault. -/
def execSld (e : Bool) (d a : BitVec 8) (sr : BitVec 5) (h : BitVec 3) (s : State) : Host.Outcome State Fault Refusal :=
  wordExec (.opSld e d a sr h) s
    (fun v => { streams := .gb, ok := hintOk false h && sSrcOk v true a && sDstOk v true d, lats := [a] })
    (fun v =>
      match fetchOps s v [(a, 0), (sField v sr, 0)] (pushOf d) (fun _ _ => 0) with
      | .error x => x
      | .ok (t, w, fts) =>
        let va := baseOf w sr + (pathVal w fts 0)
        if counterFull s v.p .lc then .wait s (.counter 0)
        else
          single s t w va 8 .read (fun t l =>
            let reg : Dst := if w.isBell then .sreg d.toNat else if isS d then .sreg (d.toNat % 32) else .none
            match readFor t w l 8 (h == 3#3) (h != 3#3) with
            | (t, .error .miss) => .wait (restoreChans t s v.p.blk) .miss
            | (u, .error x) =>
              if (pushOf d).isSome || w.b.pair.isSome then .wait (restoreChans u s v.p.blk) x
              else if (missAsk t w false).2 then .done (sldLater (missAsk u w false).1 w va l h reg x) .invalid
              else .wait (restoreChans (missAsk t w false).1 s v.p.blk) .miss
            | (t, .ok r) =>
              let (id, t) := newOp t w .lc reg
              match r with
              | .error c =>
                .done (completeOp (addDeferred t w.p { cls := .lc, side := v.side, code := c, addr := va, lanes := 0, dst := reg, write := false }) w.p id) .invalid
              | .ok (bs, far) =>
                let x := leNat bs
                match pushOf d with
                | some c =>
                  match t.block? w.p.blk with
                  | none => .over t
                  | some b =>
                    match pushChan b.chans c (.sc (BitVec.ofNat 64 x)) with
                    | none => .wait s (.push c)
                    | some cs =>
                      let t := if far then t.fillSlice (lineOf l.pa) else t
                      .done (completeOp (t.modBlock w.p.blk (fun b => { b with chans := cs })) w.p id) .invalid
                | none =>
                  let ws : List (Nat × Nat × W32) := [(0, 0, BitVec.ofNat 32 x), (1, 0, BitVec.ofNat 32 (x / 2 ^ 32))]
                  if far then .done (modOp t w.p id (fun o => { o with pending := ws, miss := [(lineOf l.pa, 3#32)] })) .invalid
                  else .done (completeOp (deliver t w.p reg ws) w.p id) .invalid))

/-- SST (R456, R461). Its data are judged for poison behind the faults of its address (R227). -/
def execSst (e : Bool) (d a : BitVec 8) (sr : BitVec 5) (h : BitVec 3) (s : State) : Host.Outcome State Fault Refusal :=
  wordExec (.opSst e d a sr h) s
    (fun v => { streams := .gb, ok := hintOk true h && sSrcOk v true a && sSrcOk v true d, lats := [a, d] })
    (fun v =>
      match fetchFirst s v [(a, 0), (sField v sr, 0)] [(d, 0)] none (fun _ _ => 0) with
      | .error x => x
      | .ok (t, w, fts) =>
        let va := baseOf w sr + (pathVal w fts 0)
        let x := pathVal w fts 2
        if counterFull s v.p .sc then .wait s (.counter 1)
        else
          single s t w va 8 .write (fun t l =>
            if lastPoison s v fts then .trap s (exc fPOISON)
            else
            let (id, t) := newOp t w .sc .none
            match storeMem t w id 0 va l (leBytes 8 x.toNat) h.toNat with
            | (t, .wrote g ln) => .done (modOp t w.p id (fun o => { o with g := g, lines := ln.toList })) .invalid
            | (t, .sent) => .done (modOp t w.p id (fun o => { o with posted := true })) .invalid
            | (t, .late c) => .done (completeOp (addDeferred t w.p { cls := .sc, side := v.side, code := c, addr := va, lanes := 0, dst := .none, write := true }) w.p id) .invalid
            | (_, .fault c) => .trap s (xExc c va true false)
            | (t, .hold x) => .wait (restoreChans (modOps t w.p (fun l => l.filter (fun o => o.id != id))) s v.p.blk) x
            | (_, _) => .trap s (exc fILLOP)))

/-! ## Lane loads (R401 to R405) -/

/-- R401: a lane load's destination. -/
def loadDstOk (v : View) (d : BitVec 8) : Bool := vregsOk v (tyRegs v.ty) d

/-- R92: the miss-status entry of a lane's line: one that the instruction has already serves it; otherwise one is claimed. `s0` is the
state before the lane's read, which stands when none is free. -/
def missLine (s0 s : State) (v : View) (id lane : Nat) (t : Tgt) : State × Bool :=
  match t with
  | .mem l _ =>
    let line := lineOf l.pa
    if (partyOps s v.p).any (fun o => o.id == id && o.miss.any (fun m => m.1 == line)) then
      (modOp s v.p id (fun o => { o with miss := o.miss.map (fun m => if m.1 == line then (m.1, m.2 ||| laneBit lane) else m) }), true)
    else
      match missAsk s0 v false with
      | (_, true) => (modOp (missAsk s v false).1 v.p id (fun o => { o with miss := (line, laneBit lane) :: o.miss }), true)
      | (s, false) => (s, false)
  | _ => (s, true)

/-- R90, R173: a lane whose line's owner makes it wait: its read is queued there; a paired copy waits at its word (notes/assumptions 108).
`s0` is the state before the lane's read. -/
def laneLater (s0 s : State) (v : View) (id lane : Nat) (t : Tgt) (fill : Bool) (k : Wait) : State × LOut :=
  match t, v.b.pair with
  | .mem l va, none =>
    let q (s : State) : State × LOut := (readLater s v.p id lane va l (some (tyCode v)) fill k, .sent)
    if s.mem.reads.any (fun r => r.op == id && lineOf r.pa == lineOf l.pa) then q s
    else
      match missAsk s0 v false with
      | (_, true) => q (missAsk s v false).1
      | (s, false) => (s, .hold .miss)
  | _, _ => (s, .hold k)

/-- R401: what a lane load does in its lanes. -/
def loadJob (w : View) (d : BitVec 8) (ad : Nat → W64) (bypass fill acq : Bool) (resolve : State → W64 → State × LRes) : LaneJob :=
  { cls := .lc, dst := .vreg d.toNat (tyRegs w.ty), align := tyBytes w.ty, addr := ad, write := false, acq := acq,
    resolve := fun s l => resolve s (ad l),
    perform := fun s id ts => ts.foldl (fun (r : State × List (Nat × LOut)) (x : Nat × Tgt) =>
      match loadLane r.1 w x.2 (tyBytes w.ty) (wordsOf w.ty) bypass fill with
      | (s, .value ws true g) =>
        (match missLine r.1 s w id x.1 x.2 with
        | (s, true) => (s, r.2 ++ [(x.1, .value ws true g)])
        | (s, false) => (s, r.2 ++ [(x.1, .hold .miss)]))
      | (s, .hold k) => let q := laneLater r.1 s w id x.1 x.2 fill k; (q.1, r.2 ++ [(x.1, q.2)])
      | (s, o) => (s, r.2 ++ [(x.1, o)])) (s, []) }

/-- R44, R160: the lanes of a scratchpad load, not yet performed, that reserve a slot of the copy ring. -/
def resvLanes (w : View) (ad : Nat → W64) : List Nat :=
  (laneList.filter (inMask (w.active &&& ~~~w.perf))).filter (fun l => (ad l).toNat == 0xFFFFF0)

/-- R401: a lane load. -/
def laneLoad (i : Instr) (ok : Bool) (d a : BitVec 8) (sr : BitVec 5) (scr bypass fill acq : Bool)
    (addr : View → List Fetched → Nat → W64) (resolve : View → State → W64 → State × LRes)
    (fwd : Fwd) (s : State) : Host.Outcome State Fault Refusal :=
  wordExec i s
    (fun v => { streams := .g, feat := laneFeat v, ok := ok && byteTy v && loadDstOk v d && offsetOk v a, lats := [a] })
    (fun v =>
      forwarded s v fwd (.vreg d.toNat (tyRegs v.ty)) [a]
        (fun s v => match fetchLanes s v [(a, 1), (sField v sr, 0)] with
        | .error x => x
        | .ok (t, w, fts) =>
          let ad := addr w fts
          if scr && tyBytes w.ty == portSize 0xFFFFF0 && decide ((resvLanes w ad).length > ringFree w.b) then .wait s .ring
          else
            laneJob s t w (loadJob w d ad bypass fill acq (resolve w))))

/-- LD (R402): the hints nt and normal fill the L1, nl1 neither hits nor fills it. -/
def execLd (e : Bool) (d a : BitVec 8) (sr : BitVec 5) (h : BitVec 3) (s : State) : Host.Outcome State Fault Refusal :=
  laneLoad (.opLd e d a sr h) (hintOk false h) d a sr false (h == 3#3) (h != 3#3) false
    (fun v fts l => laneVa v sr fts l) (fun v s x => memTgt s v x .read) .no s

/-- R346, R403: a core-scope lane names no port but where its word says so. -/
def noPort (r : State × LRes) : State × LRes := match r with | (s, .goes (.port _)) => (s, .fault fILLOP false false) | r => r

/-- R189: a lane of a synchronisation access in a software-managed region raises ATOMUNS. -/
def noSm (r : State × LRes) (write : Bool) : State × LRes :=
  match r with
  | (s, .goes (.mem l va)) => if l.typ == 1 then (s, .fault fATOMUNS write false) else (s, .goes (.mem l va))
  | r => r

/-- LDA (R403): no later access of the path issues before its lanes have completed. -/
def execLda (e : Bool) (d a : BitVec 8) (sr : BitVec 5) (h : BitVec 3) (s : State) : Host.Outcome State Fault Refusal :=
  laneLoad (.opLda e d a sr h) (decide (h.toNat ≤ 5)) d a sr false true false true
    (fun v fts l => laneVa v sr fts l)
    (fun v s x => if h == 0#3 then noPort (lresOf s (scratchTgt64 s v x false) false) else noSm (memTgt s v x .read) false)
    (syncFwd h.toNat) s

/-- LDS (R405). -/
def execLds (e : Bool) (d a : BitVec 8) (sr : BitVec 5) (s : State) : Host.Outcome State Fault Refusal :=
  laneLoad (.opLds e d a sr) true d a sr true true false false
    (fun v fts l => laneScr v sr fts l) (fun v s x => lresOf s (scratchTgt s v x.toNat false) false) .no s

/-! ## Lane stores (R462 to R466) -/

/-- R178: FENCE's condition: counters, fabric time, and at sys the posted stores of the stream. -/
def fenceReady (s : State) (v : View) (scope : Nat) : Bool :=
  let ops := partyOps s v.p
  let gw := if v.isBell then v.b.bell.gwmax else v.g.gwmax
  countOps ops .lc == 0 && countOps ops .sc == 0 && countOps ops .ac == 0 && (scope == 0 || decide (gw < s.ft)) &&
    (scope != 5 || !s.mem.posted.any (fun x => x.party == v.p))

/-- R178, R179, R186: what holds a word back that waits for FENCE's condition at a scope: nothing, the condition itself, or, at sys, the
host drain that it then begins. -/
def fenceWait (s : State) (v : View) (scope : Nat) : Option State :=
  if !fenceReady s v scope then some s
  else if scope == 5 && !drainDone s v.p then some (drainBegin s v.p)
  else none

/-- R186: the state of a stream once its wait for FENCE's condition at a scope has ended. -/
def fenceOver (s : State) (v : View) (scope : Nat) : State := if scope == 5 then drainTake s v.p else s

/-- R462: the bytes that a lane stores. -/
def storeBytes (v : View) (fts : List Fetched) (l : Nat) : List Byte := leBytes (tyBytes v.ty) (rawAt v (tyRegs v.ty) fts 2 l)

/-- R462: what a lane store does in its lanes. -/
def storeJob (w : View) (ad : Nat → W64) (resolve : State → W64 → State × LRes)
    (perform : State → Nat → List (Nat × Tgt) → State × List (Nat × LOut)) : LaneJob :=
  { cls := .sc, dst := .none, align := tyBytes w.ty, addr := ad, write := true, resolve := fun s l => resolve s (ad l),
    perform := perform }

/-- R462: a lane store. -/
def laneStore (i : Instr) (ok : Bool) (d a : BitVec 8) (sr : BitVec 5)
    (addr : View → List Fetched → Nat → W64) (resolve : View → List Fetched → State → W64 → State × LRes)
    (perform : View → State → Nat → List (Nat × Tgt) → (Nat → List Byte) → State × List (Nat × LOut))
    (fence : Option Nat) (fwd : Fwd) (s : State) : Host.Outcome State Fault Refusal :=
  wordExec i s
    (fun v => { streams := .g, feat := laneFeat v, ok := ok && byteTy v && copySrcOk v d && offsetOk v a, lats := [a, d] })
    (fun v =>
      forwarded s v fwd .none [a, d]
        (fun s v => match (if v.ctl.openOp.isNone then fence.bind (fenceWait s v) else none) with
        | some s => .wait s (.fence (fence.getD 0))
        | none =>
          match fetchLanes s v [(a, 1), (sField v sr, 0), (d, tyRegs v.ty)] with
          | .error x => x
          | .ok (t, w, fts) =>
            let ad := addr w fts
            laneJob s (fenceOver t w (fence.getD 0)) w (storeJob w ad (resolve w fts) (fun s id ts => perform w s id ts (storeBytes w fts)))))

/-- R462: plain stores of lanes, ascending. -/
def plainStores (hint : Nat) (v : View) (s : State) (id : Nat) (ts : List (Nat × Tgt)) (data : Nat → List Byte) :
    State × List (Nat × LOut) :=
  ts.foldl (fun (r : State × List (Nat × LOut)) (x : Nat × Tgt) =>
    let (s, o) := storeLane r.1 v id x.1 x.2 (data x.1) hint
    (s, r.2 ++ [(x.1, o)])) (s, [])

/-- ST (R463). -/
def execSt (e : Bool) (d a : BitVec 8) (sr : BitVec 5) (h : BitVec 3) (s : State) : Host.Outcome State Fault Refusal :=
  laneStore (.opSt e d a sr h) (hintOk true h) d a sr (fun v fts l => laneVa v sr fts l)
    (fun v _ s x => memTgt s v x .write) (plainStores h.toNat) none .no s

/-- R160, R465: the synchronisation stores of lanes; at core scope a 4-byte lane at TAIL is the notify store. -/
def syncStores (v : View) (s : State) (id : Nat) (ts : List (Nat × Tgt)) (data : Nat → List Byte) : State × List (Nat × LOut) :=
  let ports := ts.filter (fun x => match x.2 with | .port _ => true | _ => false)
  let rest := ts.filter (fun x => match x.2 with | .port _ => false | _ => true)
  let r := syncAll v id .none (fun _ => []) 0 (fun l => .write (data l)) 32 s rest
  ports.foldl (fun (r : State × List (Nat × LOut)) (x : Nat × Tgt) =>
    match x.2 with
    | .port off =>
      if off == 0xFFFFF8 && (data x.1).length == 4 then
        match notify r.1 v (BitVec.ofNat 32 (leNat (data x.1))) with
        | some s => (s, r.2 ++ [(x.1, .wrote s.ft none)])
        | none => (r.1, r.2 ++ [(x.1, .illop)])
      else (r.1, r.2 ++ [(x.1, .illop)])
    | _ => r) r

/-- STL (R465): it is sent once FENCE's condition at its scope holds. -/
def execStl (e : Bool) (d a : BitVec 8) (sr : BitVec 5) (h : BitVec 3) (s : State) : Host.Outcome State Fault Refusal :=
  laneStore (.opStl e d a sr h) (decide (h.toNat ≤ 5)) d a sr (fun v fts l => laneVa v sr fts l)
    (fun v _ s x => if h == 0#3 then lresOf s (scratchTgt64 s v x true) true else noSm (memTgt s v x .write) true)
    syncStores (some h.toNat) (syncFwd h.toNat) s

/-- R151: the view of a store's block once the window descriptors and writer tags that its own lanes write are in force: in one clock they
come before the accesses, which the new state judges. -/
def portsFirst (v : View) (addr : Nat → W64) (data : Nat → List Byte) : View :=
  { v with b := (laneList.filter (inMask (v.active &&& ~~~v.perf))).foldl (fun b l =>
      let off := (addr l).toNat
      let x := leNat (data l)
      if (data l).length != 8 then b
      else if 0xFFFF00 ≤ off ∧ off < 0xFFFF80 ∧ off % 8 = 0 then
        let i := (off - 0xFFFF00) / 16
        let d := setHalf (b.wdesc.toList.getD i 0) (off / 8 % 2 == 1) x
        if windowOk b i d then setWindow b i d else b
      else if off == 0xFFFF80 then (setWriter b x).getD b
      else b) v.b }

/-- STS (R466). -/
def execSts (e : Bool) (d a : BitVec 8) (sr : BitVec 5) (s : State) : Host.Outcome State Fault Refusal :=
  laneStore (.opSts e d a sr) true d a sr (fun v fts l => laneScr v sr fts l)
    (fun v fts s x => lresOf s (scratchTgt s (portsFirst v (laneScr v sr fts) (storeBytes v fts)) x.toNat true) true)
    (plainStores 0) none .no s

/-! ## Accumulator access (R138, R404, R464) -/

/-- R138: whether a matrix operation still targets a row. -/
def MOp.targets (o : MOp) (row : Nat) : Bool :=
  !o.performed &&
    match o.kind with
    | .wld _ _ _ _ _ _ => false
    | .mstr _ _ _ m _ _ r0 _ => decide (r0 ≤ row) && decide (row < r0 + m)
    | .mdrn _ _ m _ _ _ _ _ _ r0 => decide (r0 + o.prog ≤ row) && decide (row < r0 + m)
    | .mclr r0 n => decide (r0 ≤ row) && decide (row < r0 + n)

/-- R138: whether a group access to a row, issued when operation `stamp` would have been the next, stalls. -/
def accStalls (b : Block) (row stamp : Nat) : Bool := b.mops.any (fun o => decide (o.id < stamp) && o.targets row)

/-- R227, R404: a segment above 3 is ILLOP, before any latch fault, but where an invalid latch names the segment; one that a channel gives is
judged when it has been popped. -/
def segOk (v : View) (z : BitVec 8) : Bool :=
  !latchesOk v [z] || decide ((sval v { f := z, ent := none, at? := none }).toNat ≤ 3)

/-- R404: an LDACC or STACC: its fields, row, segment and window, and what it does. -/
def accWord (i : Instr) (x y z : BitVec 8) (data : Bool) (k : State → View → Nat → Nat → Act) (s : State) :
    Host.Outcome State Fault Refusal :=
  wordExec i s
    (fun v => { streams := .g, ok := vregsOk v 1 x && sSrcOk v false y && sSrcOk v false z && segOk v z &&
                  (v.ty == .f32 || v.ty == .i32 || v.ty == .u32), lats := [y, z] })
    (fun v =>
      match fetchOps s v ([(y, 0), (z, 0)] ++ (if data then [(x, 1)] else [])) none
          (fun v fts => diesOf s v v.active fts ([(y, 0), (z, 0)] ++ (if data then [(x, 1)] else []))) with
      | .error a => a
      | .ok (t, w, fts) =>
        let row := (pathVal w fts 0).toNat
        let seg := (pathVal w fts 1).toNat
        if seg > 3 then .trap s (exc fILLOP)
        else if row < w.path.win.1 ∨ w.path.win.2 ≤ row then .trap s (exc fACCWIN (BitVec.ofNat 64 row))
        else
          let stamp := match v.ctl.acc with | some (r, k) => if r == row then k else s.nextId | none => s.nextId
          let stalled (s : State) : State := s.modCtl v.p (fun c => { c with acc := some (row, stamp) })
          if accStalls w.b row stamp then .wait (stalled s) (.rows row stamp)
          else match k t w row seg with
            | .wait s x => .wait (stalled s) x
            | a => a)

/-- LDACC (R404). -/
def execLdacc (e : Bool) (x y z : BitVec 8) (s : State) : Host.Outcome State Fault Refusal :=
  accWord (.opLdacc e x y z) x y z false
    (fun s v row seg =>
      let m := v.active
      let idx (l : Nat) : Nat := row * 128 + 32 * seg + l
      let bad := maskOf (fun l => inMask m l && s.poisoned (.acc v.p.blk (idx l)))
      let s := (s.modGroup v.p.blk v.gi (fun g => g.setV x.toNat (m &&& ~~~bad) (fun l => accGet v.b v.p.blk row (32 * seg + l)))).clearPoison
        (fun l => match l with | .vlane b g r ln => b == v.p.blk && g == v.gi && r == x.toNat && inMask (wholeWords (m &&& ~~~bad)) ln | _ => false)
      let s := if bad == 0 then s else killLanes s v bad
      if s.cur.isNone then .over s else .done s .invalid) s

/-- STACC (R464). -/
def execStacc (e : Bool) (x y z : BitVec 8) (s : State) : Host.Outcome State Fault Refusal :=
  accWord (.opStacc e x y z) x y z true
    (fun t v row seg =>
      if itemHeld t v.p.blk (.acc v.p.blk (row / 8)) then .wait (noteItem s v.p.blk (.acc v.p.blk (row / 8))) (.snatch row)
      else
        .done (((laneList.filter (inMask v.active)).foldl
          (fun s l => accSet s v.p.blk row (32 * seg + l) (v.g.vlane x.toNat l)) t).clearPoison (fun l => match l with
            | .acc k i => k == v.p.blk && i / 32 == row * 4 + seg && inMask (wholeWords v.active) (i % 32)
            | _ => false)) .invalid) s

/-! ## Prefetch (R436) -/

/-- R92, R436: the fill of a prefetched line: in its home slice and, under a lease, in the core's L1; one that its owner makes wait comes
later, and one that finds no miss-status entry not at all. -/
def prefLine (s : State) (v : View) (va : W64) (l : Leaf) (n : Nat) (h : BitVec 3) : State :=
  match readMem s v l n (h == 3#3) (h != 3#3) with
  | (t, .ok (.ok (_, true))) =>
    if (missAsk s v false).2 then fillAsk (t.fillSlice (lineOf l.pa)) v.b.core (.party v.p) (lineOf l.pa) v.ctl.pc.toNat else s
  | (t, .error k) =>
    if (missAsk s v false).2 && v.b.pair.isNone then
      readLater { t with nextId := t.nextId + 1 } v.p t.nextId 32 va l none (h != 3#3) k
    else s
  | (t, _) => t

/-- R436: one lane of PREF, which does nothing where its address is misaligned, fails its translation, may not be read or finds poison. -/
def prefLane (s : State) (v : View) (va : W64) (h : BitVec 3) : State :=
  let n := tyBytes v.ty
  if va.toNat % n != 0 then s
  else
    match ctxOf s v.b with
    | none => s
    | some c =>
      if inRegion c va.toNat then s
      else
        match xlate s (.data v.b.core) c va .read true with
        | .error (s, _) => s
        | .ok (s, lf) => if offLimits s lf.pa || physPoison s lf.pa n then s else prefLine s v va lf n h

/-- PREF (R436): each lane fills its line where it can, and does nothing otherwise: a poisoned base leaves no lane an address, and neither does
a poisoned offset its lane. -/
def execPref (e : Bool) (a : BitVec 8) (sr : BitVec 5) (h : BitVec 3) (s : State) : Host.Outcome State Fault Refusal :=
  wordExec (.opPref e a sr h) s
    (fun v => { streams := .g, feat := laneFeat v, ok := hintOk false h && byteTy v && offsetOk v a, lats := [a] })
    (fun v =>
      match fetchChans [a] v.b.chans [] with
      | .error c => .wait s (.pop c)
      | .ok (fts, cs, pops) =>
        let bad := if fts.any (poisonScalar s v) || s.poisoned (.sreg v.p.blk v.gi sr.toNat) then 0xFFFFFFFF#32
          else diesOf s v v.active fts [(a, 1)]
        let s := if pops.isEmpty then s else (s.modBlock v.p.blk (fun b => { b with chans := cs })).popPoison v.p.blk pops
        .done ((laneList.filter (inMask (v.active &&& ~~~bad))).foldl (fun s l => prefLane s v (laneVa v sr fts l) h) s) .invalid)

/-! ## The tag table (R152, R153, R469) -/

/-- R153: the set of an address. -/
def tagHash (lsets a : Nat) : Nat := Nat.xor (a / 2 ^ 9 % 2 ^ lsets) (a / 2 ^ (9 + lsets) % 2 ^ lsets)
/-- R152: the entry of a slot, by offset. -/
def tagOff (creg : BitVec 128) (slot : Nat) : Nat := creg.toNat / 2 ^ 64 % 2 ^ 24 + 8 * slot
/-- R152: the bits 56:9 that an entry's TAG holds. -/
def tagBits (x : Nat) : Nat := x / 2 ^ 9 % 2 ^ 48 * 2 ^ 9

/-- R153: the lowest way from `k` on whose entry satisfies a test. -/
def tagWay (s : State) (blk : Nat) (creg : BitVec 128) (t : Nat) (f : Nat → Bool) : Option Nat :=
  (List.range 4).find? (fun w => f (leNat (scratchRead s blk (tagOff creg (4 * t + w)) 8)))

/-- R235, R469: whether one of the entries of a set up to a way is poisoned. -/
def tagPoison (s : State) (blk : Nat) (creg : BitVec 128) (t last : Nat) : Bool :=
  (List.range (last + 1)).any (fun w => scratchPoison s blk (tagOff creg (4 * t + w)) 8)

/-- R469: what a lane of a table instruction comes to. -/
inductive TagOut where
  /-- the slot, all ones for none, and the old entry. -/
  | got (slot old : Nat)
  /-- the lane read a poisoned entry. -/
  | dead
  /-- R150: the entry at an offset is in a line whose tag names another block. -/
  | barred (off : Nat)
  deriving DecidableEq, Repr

/-- R153: an entry of the table written. -/
def tagPut (s : State) (blk off x : Nat) : State := scratchWrite s blk off (leBytes 8 x)

/-- R150, R469, R470: one lane of TAGQ, TAGW (`op` 1) or TAGX (`op` 2). -/
def tagLane (s : State) (b : Block) (blk : Nat) (op a : Nat) : State × TagOut :=
  let creg := b.creg
  let t := tagHash (creg.toNat / 2 ^ 32 % 16) a
  let off (w : Nat) : Nat := tagOff creg (4 * t + w)
  let ent (w : Nat) : Nat := leNat (scratchRead s blk (off w) 8)
  match tagWay s blk creg t (fun x => x.testBit 0 && tagBits x == tagBits a) with
  | some w =>
    if tagPoison s blk creg t w then (s, .dead)
    else if op != 2 then (s, .got (4 * t + w) 0)
    else if ownBarred s b (off w / 128) then (s, .barred (off w))
    else (tagPut s blk (off w) (ent w - 1), .got (4 * t + w) (ent w))
  | none =>
    if tagPoison s blk creg t 3 then (s, .dead)
    else if op != 1 then (s, .got 0xFFFFFFFF 0)
    else
      let next := ent 0 / 4 % 4
      let w := (tagWay s blk creg t (fun x => !x.testBit 0)).getD next
      if ownBarred s b (off w / 128) then (s, .barred (off w))
      else if w == next && ownBarred s b (off 0 / 128) then (s, .barred (off 0))
      else
        let keep := if w == 0 then next * 4 else 0
        let s' := tagPut s blk (off w) (tagBits a + keep + 1)
        let e0 := leNat (scratchRead s' blk (off 0) 8)
        (if w == next then tagPut s' blk (off 0) (e0 - e0 / 4 % 4 * 4 + (w + 1) % 4 * 4) else s', .got (4 * t + w) (ent w))

/-- R469: the address of a lane: an s register gives every lane one address. -/
def tagAddr (v : View) (a : BitVec 8) (l : Nat) : Nat :=
  if isS a then (v.sreg (a.toNat % 32)).toNat
  else (v.g.vlane a.toNat l).toNat + (v.g.vlane (a.toNat + 1) l).toNat * 2 ^ 32

/-- R469: the lanes of a table instruction, ascending. -/
def tagLanes (v : View) (op : Nat) (a : BitVec 8) : State → List Nat → State × List (Nat × TagOut)
  | s, [] => (s, [])
  | s, l :: rest =>
    let (s, r) := tagLane s v.b v.p.blk op (tagAddr v a l)
    let (s, q) := tagLanes v op a s rest
    (s, (l, r) :: q)

/-- R150, R469: the lanes of a table instruction whose writes a tag bars, with the lowest one's offset. -/
def tagBarred (res : List (Nat × TagOut)) : W32 × Nat :=
  let l := res.filterMap (fun x => match x.2 with | .barred o => some (x.1, o) | _ => none)
  (maskOf (fun k => l.any (fun x => x.1 == k)), ((l.head?).map Prod.snd).getD 0)

/-- R469: the result of a lane of a table instruction that has acted. -/
def tagGot (res : List (Nat × TagOut)) (l : Nat) : Option (Nat × Nat) :=
  res.findSome? (fun x => if x.1 == l then (match x.2 with | .got a b => some (a, b) | _ => none) else none)

/-- R224, R469: a table instruction some of whose lanes were barred: PMASK has the lanes that have acted, and the fault is delivered. -/
def tagStop (s : State) (v : View) (acted : W32) (x : Exc) : Act :=
  let id := v.ctl.openOp.getD (s.nextId + 1)
  let s := setPerf s v (v.perf ||| acted)
  .trap ({ s with nextId := max s.nextId id }.modCtl v.p (fun c => { c with openOp := some id })) x

/-- R469, R252: the lines of the table not yet read by the checkpoint engine that a table instruction would write: it waits for them. -/
def tagHeld (s : State) (v : View) (a : BitVec 8) : List Item :=
  ((laneList.filter (inMask v.active)).map (fun l =>
    Item.scratch v.p.blk (tagOff v.b.creg (4 * tagHash (v.b.creg.toNat / 2 ^ 32 % 16) (tagAddr v a l)) / 128))).filter (itemHeld s v.p.blk)

/-- R469: a table instruction of a group, with what it makes of its lanes' results. -/
def tagWord (i : Instr) (op : Nat) (dOk : View → Bool) (push : Option Nat) (a : BitVec 8)
    (k : State → View → W32 → (Nat → Nat × Nat) → Act) (s : State) : Host.Outcome State Fault Refusal :=
  wordExec i s
    (fun v => { streams := .g, ok := dOk v && (isS a || vregsOk v 2 a) && v.b.creg.getLsbD 0 })
    (fun v =>
      match fetchOps s v [(a, 2)] push (fun v fts => diesOf s v v.active fts [(a, 2)]) with
      | .error x => x
      | .ok (t, w, _) =>
        if op != 0 && !(tagHeld t w a).isEmpty then .wait (noteItems s v.p.blk (tagHeld t w a)) (.snatch 0)
        else
          let (t, res) := tagLanes w op a t (laneList.filter (inMask (w.active &&& ~~~w.perf)))
          let bad := maskOf (fun l => res.any (fun x => x.1 == l && x.2 == .dead))
          let f (l : Nat) : Nat × Nat := (tagGot res l).getD (0, 0)
          let m := maskOf (fun l => (tagGot res l).isSome)
          let t := if w.ctl.openOp.isSome && (tagBarred res).1 == 0 then setPerf t w 0 else t
          let t := if bad == 0 then t else killLanes t w bad
          if t.cur.isNone then .over t
          else
            match t.view w.p with
            | none => .over t
            | some u =>
              if (tagBarred res).1 == 0 then k t u m f
              else
                match k t u m f with
                | .done t _ => tagStop t w m
                    { xExc fWINCONF (BitVec.ofNat 64 (tagBarred res).2) true false with lanes := (tagBarred res).1 }
                | x => x)

/-- TAGQ (R470). -/
def execTagq (e : Bool) (d a : BitVec 8) (s : State) : Host.Outcome State Fault Refusal :=
  tagWord (.opTagq e d a) 0 (fun v => laneDstOk v 1 d) (pushOf d) a
    (fun s v m f =>
      match laneFinish s v d 1 m (fun l => (f l).1) with
      | .done s _ => .done s .invalid
      | x => x) s

/-- R471: the four registers of a TAGW or TAGX result. -/
def tagFinish (d : BitVec 8) (s : State) (v : View) (m : W32) (f : Nat → Nat × Nat) : Act :=
  .done ((s.modGroup v.p.blk v.gi (fun g => g.setVs d.toNat 4 m (fun l => (f l).1 + (f l).2 * 2 ^ 64))).clearPoison
    (fun l => match l with
      | .vlane b g r ln => b == v.p.blk && g == v.gi && decide (d.toNat ≤ r) && decide (r < d.toNat + 4) && inMask (wholeWords m) ln
      | _ => false)) .invalid

/-- TAGW (R471). -/
def execTagw (e : Bool) (d a : BitVec 8) (s : State) : Host.Outcome State Fault Refusal :=
  tagWord (.opTagw e d a) 1 (fun v => vregsOk v 4 d) none a (tagFinish d) s
/-- TAGX (R471). -/
def execTagx (e : Bool) (d a : BitVec 8) (s : State) : Host.Outcome State Fault Refusal :=
  tagWord (.opTagx e d a) 2 (fun v => vregsOk v 4 d) none a (tagFinish d) s

/-! ## Waits (R177, R178) -/

/-- R306: the first deferred fault of a party that an instruction delivers, and the state without it. -/
def takeDeferred (s : State) (v : View) (f : Deferred → Bool) : Option (State × Exc) :=
  let l := if v.isBell then v.b.bell.deferred else v.g.deferred
  match l.find? (fun d => (d.side.isNone || d.side == some v.sec) && f d) with
  | none => none
  | some d =>
    let s := if v.isBell then s.modBell v.p.blk (fun b => { b with deferred := b.deferred.erase d })
      else s.modGroup v.p.blk v.gi (fun g => { g with deferred := g.deferred.erase d })
    some (s, { exc d.code d.addr with lanes := if v.isBell then 0 else d.lanes, write := d.write })

/-- FENCE (R393). -/
def execFence (e : Bool) (h : BitVec 3) (s : State) : Host.Outcome State Fault Refusal :=
  wordExec (.opFence e h) s (fun _ => { streams := .gb, ok := decide (h.toNat ≤ 5) })
    (fun v =>
      match takeDeferred s v (fun _ => true) with
      | some (s, x) => .trap s x
      | none =>
        match fenceWait s v h.toNat with
        | some s => .wait s (.fence h.toNat)
        | none => .done (fenceOver s v h.toNat) .invalid)

/-- R476: the class that WAITC names. -/
def clsOf (c : BitVec 2) : Cls := match c.toNat with | 0 => .lc | 1 => .sc | 2 => .ac | _ => .cc

/-- WAITC (R476). -/
def execWaitc (e : Bool) (c : BitVec 2) (n : BitVec 8) (s : State) : Host.Outcome State Fault Refusal :=
  wordExec (.opWaitc e c n) s (fun v => { streams := .g, ok := sSrcOk v false n, lats := [n] })
    (fun v =>
      match fetchOps s v [(n, 0)] none (fun _ _ => 0) with
      | .error x => x
      | .ok (t, w, fts) =>
        let k := (pathVal w fts 0).toNat
        if k > 1023 then .trap s (exc fILLOP)
        else
          match takeDeferred s v (fun d => d.cls == clsOf c) with
          | some (s, x) => .trap s x
          | none => if countOps w.g.ops (clsOf c) ≤ k then .done t .invalid else .wait s (.cls c.toNat k))

/-- WAITG (R477). -/
def execWaitg (e : Bool) (s : State) : Host.Outcome State Fault Refusal :=
  wordExec (.opWaitg e) s (fun _ => { streams := .g })
    (fun v =>
      match takeDeferred s v (fun _ => true) with
      | some (s, x) => .trap s x
      | none =>
        if countOps v.g.ops .sc == 0 && countOps v.g.ops .ac == 0 && decide (v.g.gwmax < s.ft) then .done s .invalid
        else .wait s .waitg)

end Sys2Proof.Machine
end

