-- ==== Sys2Proof/Machine/Atomics.lean ====
section
/-! DEFINITION. The atomic row (OP 0x60 to 0x65): ATOM, RED, CAS, CAS128, ATOM2, REDH and MWAIT, and the completion-counter
words CNTA and CNTW. -/

namespace Sys2Proof.Machine

open Sys2Proof

/-! ## Operands (R326, R345) -/

/-- R326: the TYPEs that an atomic operation accepts. -/
def aopOk (aop : Nat) (t : Ty) : Bool :=
  let int := t == .i32 || t == .u32 || t == .i64 || t == .u64
  if aop ≤ 3 then int || t == .f32 || t == .f64
  else if aop ≤ 6 then int
  else decide (aop ≤ 8) && (t == .u32 || t == .u64)

/-- R330: the feature an atomic operation needs beyond bit 0. -/
def aopFeat (aop : Nat) (v : View) : Option Nat :=
  if v.ty == .f64 then (if aop == 2 || aop == 3 then some 10 else some 1) else none

/-- R325: the 64-bit address of a lane in a vector pair. -/
def pairVal (v : View) (r l : Nat) : Nat := (v.g.vlane r l).toNat + (v.g.vlane (r + 1) l).toNat * 2 ^ 32

/-- The 32-bit words of bytes, lowest first. -/
def rawWords (bs : List Byte) : List W32 :=
  (List.range (bs.length / 4)).map (fun k => BitVec.ofNat 32 (leNat ((bs.drop (4 * k)).take 4)))

/-- R217: a target that is read and written. -/
def memTgtRw (s : State) (v : View) (va : W64) : State × LRes :=
  match memTgt s v va .write with
  | (s, .goes (.mem l a)) => if l.r then (s, .goes (.mem l a)) else memTgt s v va .read
  | r => r

/-- R346: the target of an atomic lane at a scope. -/
def atomTgt (v : View) (scope : Nat) (o : Nat → SyncOp) (addr : Nat → W64) (s : State) (l : Nat) : State × LRes :=
  if scope == 0 then noPort (lresOf s (scratchTgt64 s v (addr l) true) true)
  else
    match memTgtRw s v (addr l) with
    | (s, .goes (.mem lf va)) =>
      match ctxOf s v.b with
      | some c => if atomicOk s c.fn lf scope (o l) then (s, .goes (.mem lf va)) else (s, .fault fATOMUNS true false)
      | none => (s, .fault fATOMUNS true false)
    | r => r

/-- R347, R348: what an atomic word does in its lanes. -/
def atomJob (w : View) (scope : Nat) (a : BitVec 8) (align : Nat) (cls : Cls) (d : Dst) (words : List Byte → List W32) (o : Nat → SyncOp) :
    LaneJob :=
  let ad (l : Nat) : W64 := BitVec.ofNat 64 (pairVal w a.toNat l)
  { cls := cls, dst := d, align := align, addr := ad, write := true, resolve := atomTgt w scope o ad,
    perform := fun s id ts => syncAll w id d words (match d with | .vreg _ n => n | _ => 0) o 32 s ts }

/-- R345 to R350: an atomic word: its feature, field checks, data sources with their registers, alignment, counter class,
destination and each lane's operation. -/
def atomWord (i : Instr) (scope : Nat) (feat : View → Option Nat) (ok : View → Bool) (a : BitVec 8)
    (srcs : View → List (BitVec 8 × Nat)) (align : View → Nat) (cls : Cls) (dst : View → Dst) (words : List Byte → List W32)
    (op : View → List Fetched → Nat → SyncOp) (s : State) : Host.Outcome State Fault Refusal :=
  wordExec i s
    (fun v => { streams := .g, feat := feat v, ok := decide (scope ≤ 5) && vregsOk v 2 a && ok v, lats := (srcs v).map Prod.fst })
    (fun v =>
      forwarded s v (syncFwd scope) (dst v) ((srcs v).map Prod.fst)
        (fun s v => match fetchLanes s v (srcs v ++ [(a, 2)]) with
        | .error x => x
        | .ok (t, w, fts) =>
          laneJob s t w (atomJob w scope a (align w) cls (dst w) words (op w fts))))

/-- R321, R347: the element a lane supplies as data: an integer constant under a floating TYPE is its exact value, in an exchange too. -/
def atomData (v : View) (fts : List Fetched) (l : Nat) : List Byte := leBytes (tyBytes v.ty) (opndAt v v.ty fts 0 l)

/-- ATOM (R345 to R349). -/
def execAtom (e : Bool) (d a : BitVec 8) (o : BitVec 4) (sc : BitVec 3) (s : State) : Host.Outcome State Fault Refusal :=
  atomWord (.opAtom e d a o sc) sc.toNat (aopFeat o.toNat) (fun v => aopOk o.toNat v.ty && vregsOk v (tyRegs v.ty) d) a
    (fun v => [(d, tyRegs v.ty)]) (fun v => tyBytes v.ty) .ac (fun v => .vreg d.toNat (tyRegs v.ty)) rawWords
    (fun v fts l => .rmw o.toNat (tyCode v) (atomData v fts l)) s

/-- RED (R440). -/
def execRed (e : Bool) (d a : BitVec 8) (o : BitVec 4) (sc : BitVec 3) (s : State) : Host.Outcome State Fault Refusal :=
  atomWord (.opRed e d a o sc) sc.toNat (aopFeat o.toNat) (fun v => aopOk o.toNat v.ty && arithSrcOk v true d) a
    (fun v => [(d, tyRegs v.ty)]) (fun v => tyBytes v.ty) .sc (fun _ => .none) (fun _ => [])
    (fun v fts l => .rmw o.toNat (tyCode v) (atomData v fts l)) s

/-- R368: the types of CAS. -/
def casTy (t : Ty) : Bool := t == .i32 || t == .u32 || t == .i64 || t == .u64

/-- CAS (R368, R369). -/
def execCas (e : Bool) (d a : BitVec 8) (sc : BitVec 3) (s : State) : Host.Outcome State Fault Refusal :=
  atomWord (.opCas e d a sc) sc.toNat (fun _ => none) (fun v => casTy v.ty && vregsOk v (2 * tyRegs v.ty) d) a
    (fun v => [(d, 2 * tyRegs v.ty)]) (fun v => tyBytes v.ty) .ac (fun v => .vreg d.toNat (tyRegs v.ty)) rawWords
    (fun v _ l =>
      if tyWide v.ty then .cas (leBytes 8 (pairVal v d.toNat l)) (leBytes 8 (pairVal v (d.toNat + 2) l))
      else .cas (leBytes 4 (v.g.vlane d.toNat l).toNat) (leBytes 4 (v.g.vlane (d.toNat + 1) l).toNat)) s

/-- CAS128 (R370). -/
def execCas128 (e : Bool) (d a : BitVec 8) (sc : BitVec 3) (s : State) : Host.Outcome State Fault Refusal :=
  atomWord (.opCas128 e d a sc) sc.toNat (fun _ => some 6) (fun v => (v.ty == .i64 || v.ty == .u64) && vregsOk v 8 d) a
    (fun _ => [(d, 8)]) (fun _ => 16) .ac (fun _ => .vreg d.toNat 4) rawWords
    (fun v _ l => .cas (leBytes 8 (pairVal v d.toNat l) ++ leBytes 8 (pairVal v (d.toNat + 2) l))
      (leBytes 8 (pairVal v (d.toNat + 4) l) ++ leBytes 8 (pairVal v (d.toNat + 6) l))) s

/-- ATOM2 (R350). -/
def execAtom2 (e : Bool) (d a : BitVec 8) (o : BitVec 4) (sc : BitVec 3) (s : State) : Host.Outcome State Fault Refusal :=
  atomWord (.opAtom2 e d a o sc) sc.toNat (aopFeat o.toNat) (fun v => aopOk o.toNat v.ty && vregsOk v (2 * tyRegs v.ty) d) a
    (fun v => [(d, 2 * tyRegs v.ty)]) (fun v => 2 * tyBytes v.ty) .ac (fun v => .vreg d.toNat (2 * tyRegs v.ty)) rawWords
    (fun v _ l =>
      if tyWide v.ty then .rmw2 o.toNat (tyCode v) (leBytes 8 (pairVal v d.toNat l)) (leBytes 8 (pairVal v (d.toNat + 2) l))
      else .rmw2 o.toNat (tyCode v) (leBytes 4 (v.g.vlane d.toNat l).toNat) (leBytes 4 (v.g.vlane (d.toNat + 1) l).toNat)) s

/-! ## REDH (R441 to R443) -/

/-- R441: the TYPEs that a Herd tag accepts. -/
def tagTy (tag : Nat) (t : Ty) : Bool :=
  match tag with
  | 1 => t == .i32 || t == .u32
  | 2 | 12 | 13 | 14 => t == .i64 || t == .u64
  | 3 | 10 | 11 => t == .f32
  | 4 => t == .f64
  | 5 | 8 | 9 => t == .u32
  | 6 | 7 => t == .i32
  | _ => false

/-- R442: the data of the lanes that fall on one address, combined in ascending lane order. -/
def herdFold (tag n : Nat) : List (List Byte) → List Byte
  | [] => []
  | x :: rest => rest.foldl (fun a b => hopBytes tag (n / herdSize tag) a b) x

/-- R442: what the lanes of one line add to a partial: the identity where no lane falls. -/
def herdUpdate (tag n : Nat) (xs : List (Nat × List Byte)) : List Byte :=
  let keys := xs.foldl (fun l x => if l.contains x.1 then l else l ++ [x.1]) ([] : List Nat)
  keys.foldl (fun line k =>
    let d := herdFold tag n ((xs.filter (fun x => x.1 == k)).map Prod.snd)
    line.take k ++ d ++ line.drop (k + n)) (identLine tag)

/-- R442: the lines that lanes touch updated, in the order of their lowest lanes. `fuel` is at least the number of lanes. -/
def herdAll (v : View) (tag n : Nat) (data : Nat → List Byte) : Nat → State → List (Nat × Tgt) → State × List (Nat × LOut)
  | 0, s, _ => (s, [])
  | _ + 1, s, [] => (s, [])
  | fuel + 1, s, (ln, t) :: rest =>
    match t with
    | .mem l _ =>
      let line := lineOf l.pa
      let same (x : Nat × Tgt) : Option (Nat × Nat) :=
        match x.2 with | .mem k _ => if lineOf k.pa == line then some (x.1, k.pa % 128) else none | _ => none
      let mine := (ln, l.pa % 128) :: rest.filterMap same
      let (s, a) := match lineReady s (v.cause s) l.pa n l.typ (.herd tag) with
        | (s, .wait w) => (s, mine.map (fun x => (x.1, LOut.hold w)))
        | (s, .err c) => (s, mine.map (fun x => (x.1, LOut.late c)))
        | (s, .go) =>
          (herdCombine s line tag v.b.core (herdUpdate tag n (mine.map (fun x => (x.2, data x.1)))),
            mine.map (fun x => (x.1, LOut.wrote s.ft none)))
      let (s, b) := herdAll v tag n data fuel s (rest.filter (fun x => (same x).isNone))
      (s, a ++ b)
    | _ =>
      let (s, b) := herdAll v tag n data fuel s rest
      (s, (ln, .illop) :: b)

/-- R441, R442: what a REDH does in its lanes. -/
def herdJob (w : View) (a : BitVec 8) (tag : Nat) (data : Nat → List Byte) : LaneJob :=
  let ad (l : Nat) : W64 := BitVec.ofNat 64 (pairVal w a.toNat l)
  { cls := .sc, dst := .none, align := tyBytes w.ty, addr := ad, write := true,
    resolve := fun s l =>
      match memTgt s w (ad l) .write with
      | (s, .goes (.mem lf va)) =>
        if lf.typ != 0 || region s lf.pa == .host then (s, .fault fATOMUNS true false) else (s, .goes (.mem lf va))
      | r => r,
    perform := fun s _ ts => herdAll w tag (tyBytes w.ty) data 32 s ts }

/-- REDH (R441 to R443). -/
def execRedh (e : Bool) (d a : BitVec 8) (tg : BitVec 4) (sc : BitVec 3) (s : State) : Host.Outcome State Fault Refusal :=
  wordExec (.opRedh e d a tg sc) s
    (fun v => { streams := .g, feat := some 5,
                ok := decide (1 ≤ sc.toNat) && decide (sc.toNat ≤ 4) && tagTy tg.toNat v.ty && vregsOk v 2 a && arithSrcOk v true d,
                lats := [d] })
    (fun v =>
      forwarded s v .once .none [d]
        (fun s v => match fetchLanes s v [(d, tyRegs v.ty), (a, 2)] with
        | .error x => x
        | .ok (t, w, fts) =>
          laneJob s t w (herdJob w a tg.toNat (fun l => atomData w fts l))))

/-! ## Monitors (R165, R378, R421) -/

/-- R165: the monitors a slice holds. -/
def monitorMax : Nat := 2048

/-- R165: the monitors in use of a slice. -/
def monitorsOf (s : State) (slice : Nat) : Nat :=
  (s.mem.monitors.filter (fun q => (match q.loc with | .mem _ => true | _ => false) && sliceOf s (lineOf q.pa) == slice)).length

/-- R165, R422: a monitor put on its word; a home in another package is told of it (notes/assumptions 73). -/
def putMonitor (s : State) (m : Monitor) : State :=
  let (id, s) := s.newId
  let s := s.modMem (fun x => { x with monitors := x.monitors ++ [{ m with born := id }] })
  match m.loc, s.block? m.party.blk with
  | .mem _, some b =>
    if isRemote s m.pa && m.hit.isNone then s.sendFab (ownerOf s b.ctx) (.pkg (paPkg m.pa)) (.watch m.pa (.watch m.width m.cond m.signed m.v)) else s
  | _, _ => s

/-- R165: a wait on a word: the monitor of the party, when it has found the word; one evaluated now; or one registered. `k`
goes on with the word, `s0` is the state before any channel source was popped. -/
def monitorWait (s0 s : State) (p : Party) (m : Monitor) (word : Nat) (poison : Bool) (va : W64) (k : State → Nat → Act) : Act :=
  let drop (s : State) : State := s.modMem (fun x => { x with monitors := x.monitors.filter (fun q => q.party != p) })
  let seen (s : State) : State := match m.loc with | .mem _ => l1Away s p (lineOf m.pa) | _ => s
  match s.mem.monitors.find? (fun q => q.party == p) with
  | some q =>
    match q.hit with
    | some w => k (seen (drop s)) w.toNat
    | none => if poison then .trap (drop s0) (exc fPOISON va) else .wait s0 (.monitor (!m.counter))
  | none =>
    if poison then .trap s0 (exc fPOISON va)
    else if m.holds word then k (seen s) word
    else
      let slice (q : Monitor) : Nat := sliceOf s (lineOf q.pa)
      if (match m.loc with | .mem _ => decide (monitorsOf s (slice m) ≥ monitorMax) | _ => false) then
        .wait s0 (.monitorFree (!m.counter) (slice m))
      else .wait (putMonitor s0 m) (.monitor (!m.counter))

/-- R326, R421: the conditions of MWAIT. -/
def mwaitCond (c : Nat) : Bool := decide (c ≤ 5) || (decide (10 ≤ c) && decide (c ≤ 13))

/-- R87: the latch of a word whose result is a scalar register: its value in every lane. -/
def latchScalar (v : View) (r : Nat) : Act → Act
  | .done s _ => .done s (match s.view v.p with | some u => latchAll (u.sreg r) | none => .invalid)
  | a => a

/-- MWAIT (R87, R421, R422). The value compared is judged for poison behind the address's own faults (R227). -/
def execMwait (e : Bool) (d a : BitVec 8) (c : BitVec 4) (s : State) : Host.Outcome State Fault Refusal :=
  wordExec (.opMwait e d a c) s
    (fun v => { streams := .gb, ok := mwaitCond c.toNat && casTy v.ty && sRegOk v d && sRegOk v a })
    (fun v =>
      let rD := if v.isBell then d.toNat else d.toNat % 32
      let dst : Dst := .sreg rD
      latchScalar v rD (forwarded s v .once dst []
        (fun s v => match fetchFirst s v [(a, 0)] [(d, 0)] none (fun _ _ => 0) with
        | .error x => x
        | .ok (s, w, fts) =>
          let x (k : Nat) : W64 := pathVal w fts k
          let n := tyBytes w.ty
          let va := x 0
          single s s w va n .read (fun t l =>
            if lastPoison s v fts then .trap s (exc fPOISON)
            else if l.typ != 0 || region t l.pa == .host then .trap s (exc fATOMUNS va)
            else
              match lineReady t (v.cause t) l.pa n l.typ .read with
              | (t, .wait k) => .wait t k
              | (t, .err c) => .trap t (exc c va)
              | (t, .go) =>
                let m : Monitor := { party := w.p, born := 0, loc := .mem (l.pa / 8), va := va, pa := l.pa, width := n, cond := c.toNat,
                                     signed := tySigned w.ty, v := x 1, counter := false, hit := none, far := none }
                monitorWait t t w.p m (leNat (ownRead t l.pa n)) (physPoison t l.pa n) va (fun t y =>
                  let y : W64 := if tySigned w.ty && n == 4 then (BitVec.ofNat 32 y).signExtend 64 else BitVec.ofNat 64 y
                  let ws : List (Nat × Nat × W32) := [(0, 0, lo32 y), (1, 0, lo32 (y >>> 32))]
                  .done (deliver t w.p dst ws) .invalid)))))

/-! ## Completion counters (R376 to R378) -/

/-- R376: a counter reference: its virtual address, or its scratchpad offset. -/
def ctrRef (x : W64) : W64 ⊕ Nat :=
  if x.getLsbD 0 then .inr (x.toNat / 8 % 2 ^ 54 * 8)
  else .inl (((x.extractLsb' 0 57) &&& ~~~7#57).signExtend 64)

/-- R235: the operands of a counter word fetched. -/
def ctrFetch (s : State) (v : View) (x y : BitVec 8) (k : State → View → W64 → Act) : Act :=
  match fetchOps s v [(x, 0), (y, 0)] none (fun _ _ => 0) with
  | .error a => a
  | .ok (t, w, fts) => k t w (pathVal w fts 1)

/-- R376: a CNTA or CNTW: its fields; the counter in the block's own scratchpad or in global memory. -/
def ctrWord (i : Instr) (x y : BitVec 8) (cnta : Bool) (scr : State → State → View → Nat → W64 → Act)
    (mem : State → State → View → Leaf → W64 → W64 → Act) (s : State) : Host.Outcome State Fault Refusal :=
  wordExec i s (fun v => { streams := .gb, ok := sSrcOk v false x && sSrcOk v false y, lats := [x, y] })
    (fun v =>
      match fetchFirst s v [(x, 0)] [(y, 0)] none (fun _ _ => 0) with
      | .error a => a
      | .ok (_, w₀, fts₀) =>
        let r := pathVal w₀ fts₀ 0
        if r.toNat / 2 % 4 != 0 then .trap s (exc fILLOP)
        else
          match ctrRef r with
          | .inr off =>
            if off ≥ v.b.decl.scratch then .trap s (xExc fPERM (BitVec.ofNat 64 off) cnta false)
            else forwarded s v .own .none [x, y] (fun s v => ctrFetch s v x y (fun t w n => scr s t w off n))
          | .inl va =>
            forwarded s v .once .none [x, y] (fun s v =>
              match fetchFirst s v [(x, 0)] [(y, 0)] none (fun _ _ => 0) with
              | .error a => a
              | .ok (t, w, fts) =>
                singleOf s v.p.blk (va.toNat % 8 == 0) va (if cnta then memTgtRw t w va else memTgt t w va .read)
                  (fun t l => if lastPoison s v fts then .trap s (exc fPOISON) else mem s t w l va (pathVal w fts 1))))

/-- CNTA (R377). -/
def execCnta (e : Bool) (x y : BitVec 8) (s : State) : Host.Outcome State Fault Refusal :=
  ctrWord (.opCnta e x y) x y true
    (fun s t v off n =>
      if counterFull s v.p .sc then .wait s (.counter 1)
      else if ownBarred s v.b (off / 128) then
        .trap s (xExc fWINCONF (BitVec.ofNat 64 off) true false)
      else
        let (id, t) := newOp t v .sc .none
        match syncScr t v.p.blk off true (.cnta n) (fun _ => []) with
        | (t, .value _ _ g) => .done (modOp t v.p id (fun o => { o with g := g })) .invalid
        | (_, .hold w) => .wait s w
        | (_, _) => .done (addDeferred (completeOp t v.p id) v.p
            { cls := .sc, side := v.side, code := fPOISON, addr := BitVec.ofNat 64 off, lanes := 0, dst := .none, write := true }) .invalid)
    (fun s t v l va n =>
      if l.typ == 1 then .trap s (xExc fATOMUNS va true false)
      else if counterFull s v.p .sc then .wait s (.counter 1)
      else
        let (id, t1) := newOp t v .sc .none
        let req : LaneReq := { lane := 0, pa := l.pa, va := va, op := .cnta n }
        match syncLine t1 v id .none (fun _ => []) 0 l.pa l.typ [req] with
        | (_, [(_, .hold w)]) => .wait (restoreChans t s v.p.blk) w
        | (t, [(_, .dead)]) => .done (addDeferred (completeOp t v.p id) v.p
            { cls := .sc, side := v.side, code := fPOISON, addr := va, lanes := 0, dst := .none, write := true }) .invalid
        | (t, [(_, .late c)]) => .done (addDeferred (completeOp t v.p id) v.p
            { cls := .sc, side := v.side, code := c, addr := va, lanes := 0, dst := .none, write := true }) .invalid
        | (t, [(_, .value _ _ g)]) => .done (modOp t v.p id (fun o => { o with g := g })) .invalid
        | (t, _) => .done t .invalid) s

/-- CNTW (R378). -/
def execCntw (e : Bool) (x y : BitVec 8) (s : State) : Host.Outcome State Fault Refusal :=
  ctrWord (.opCntw e x y) x y false
    (fun s t v off n =>
      let m : Monitor := { party := v.p, born := 0, loc := .scratch v.p.blk (off / 8), va := 0, pa := off, width := 8, cond := 0, signed := false,
                           v := n, counter := true, hit := none, far := none }
      monitorWait s t v.p m (leNat (scratchRead t v.p.blk off 8)) (scratchPoison t v.p.blk off 8) (BitVec.ofNat 64 off)
        (fun t _ => .done t .invalid))
    (fun s t v l va n =>
      if l.typ == 1 then .trap s (exc fATOMUNS va)
      else
      match lineReady t (v.cause t) l.pa 8 l.typ .read with
      | (t, .wait k) => .wait (restoreChans t s v.p.blk) k
      | (t, .err c) => .trap (restoreChans t s v.p.blk) (exc c va)
      | (t, .go) =>
        let m : Monitor := { party := v.p, born := 0, loc := .mem (l.pa / 8), va := va, pa := l.pa, width := 8, cond := 0, signed := false,
                             v := n, counter := true, hit := none, far := none }
        monitorWait s t v.p m (leNat (ownRead t l.pa 8)) (physPoison t l.pa 8) va (fun t _ => .done t .invalid)) s

end Sys2Proof.Machine
end

