-- ==== Sys2Proof/Machine/Control.lean ====
section
/-! DEFINITION. TRAP, RTE, YIELD and CKPT (OP 0x08 to 0x0B), and a cut request (R245, R372). -/

namespace Sys2Proof.Machine

open Sys2Proof

/-- R472: TRAP with a handler: the word retires, with its run's brand check when it carries E, and the exception is taken. -/
def trapTaken (s : State) (v : View) (w : W32) (x : Exc) : State :=
  let enter (s : State) : State := match s.view v.p with | some u => raise s u x | none => s
  if v.isBell then enter (retireBell s v w (v.ctl.pc + 4))
  else
    let s := retirePath s v w .invalid (v.ctl.pc + 4) 0
    if w.getLsbD 31 then (match endOfRun s v id with | (s, true) => enter s | (s, false) => s) else enter s

/-- TRAP (R472): one with E makes its run's brand check first, whether a handler takes it or it stops the context. -/
def execTrap (e : Bool) (i : BitVec 16) (s : State) : Host.Outcome State Fault Refusal :=
  wordExec (.opTrap e i) s (fun _ => { streams := .gb })
    (fun v =>
      let x : Exc := { exc fTRAPI (i.setWidth 64) with lanes := if v.isBell then 0 else v.live }
      if v.traps then .over (trapTaken s v (encode (.opTrap e i)) { x with next := true })
      else if v.isBell || !e then .trap s x
      else
        match brandCheck s v (crcWord v.path.brand (encode (.opTrap e i))) with
        | (s, true) => .trap s x
        | (s, false) => .over s)

/-- R66, R229: the MODE that an RTE sets, which must be one that may be set. -/
def rteMode (v : View) : W16 := ((if v.isBell then v.b.bell.k else v.g.k).toList.getD 3 0).setWidth 16

/-- R229: the address an RTE continues at, and whether it resumes mid-run there. -/
def rteTo (v : View) : W64 × Bool :=
  let k0 := v.g.k.toList.getD 0 0
  (k0, k0 == v.ctl.trapPc && (v.g.k.toList.getD 1 0).toNat / 2 ^ 24 % 32 != 0)

/-- R491: the counter entry of an access that an RTE has continued past completes. -/
def pastEnd (s : State) (p : Party) (op : Option Nat) : State := match op with | some id => endOp s p id | none => s

/-- RETURNING FROM AN EXCEPTION (R229, R447): the handler run's brand check, and then the interrupted state; a failed engine
operation whose fault has been taken resumes (R132). -/
def rteTaken (s : State) (v : View) (w : W32) : State :=
  if v.isBell then
    let again := if v.b.engFault.isNone then v.b.mops.filter MOp.failed else []
    let s := again.foldl (fun s o => reenter (modMop s v.p.blk o.id (fun o => { o with failed := false })) v.p.blk o.id) s
    { s.modBell v.p.blk (fun b => b.rte s.ft) with cur := none }
  else
    match endOfRun (retirePath s v w .invalid (v.ctl.pc + 4) 0) v id with
    | (s, true) => pastEnd (s.modGroup v.p.blk v.gi (fun g => g.rte v.sec)) v.p (v.g.pastOp v.sec)
    | (s, false) => s

/-- RTE (R229, R447). -/
def execRte (e : Bool) (s : State) : Host.Outcome State Fault Refusal :=
  wordExec (.opRte e) s (fun _ => { streams := .gb, guarded := false })
    (fun v =>
      if !v.ctl.handler || !modeOk v (rteMode v) then .trap s (exc fILLOP)
      else if v.isBell || (rteTo v).2 then .over (rteTaken s v (encode (.opRte e)))
      else
        match isRunStart s v.b (rteTo v).1 with
        | (s, .ok true) => .over (rteTaken s v (encode (.opRte e)))
        | (s, .ok false) => .trap s (exc fILLOP)
        | (s, .error w) => .wait s w)

/-- YIELD (R480). -/
def execYield (e : Bool) (s : State) : Host.Outcome State Fault Refusal :=
  wordExec (.opYield e) s (fun _ => { streams := .gb })
    (fun v => .done (if v.isBell then s.modBell v.p.blk (fun b => { b with yieldUntil := s.ft + 16 })
      else s.modCtl v.p (fun c => { c with yielded := true })) .invalid)

/-! ## Cut requests (R245, R248, R253, R254) -/

/-- R245, R248, R254, R302: the time of a wanted cut chosen, unless it must wait: while the previous increment is uncommitted, a
memory-tier port is down, or the chain is full. -/
def chooseCut (s : State) (ci : Nat) : State :=
  match s.ctxs[ci]? with
  | none => s
  | some c =>
    if c.state != .running || c.cutTime.isSome then s.modCtx ci (fun c => { c with cutWant := c.cutWant || c.cutTime.isNone })
    else if c.chain.any (fun n => !n.committed) || tierLost s c.desc.chain then
      s.modCtx ci (fun c => { c with cutWant := true })
    else if !chainRoom s c (cutSizes s ci c) then
      (postEvent s c.fn 7 0 0 c.pasid 0).modCtx ci (fun c => { c with cutWant := true })
    else s.modCtx ci (fun c => { c with cutTime := some (s.ft + 2000), cutWant := false })

/-- R245, R372: a cut asked for; one already pending is joined. -/
def requestCut (s : State) (ci : Nat) : State :=
  match s.ctxs[ci]? with
  | none => s
  | some c => if c.desc.chain == 0 || c.cutTime.isSome || c.cutWant then s else chooseCut s ci

/-- CKPT (R372). -/
def execCkpt (e : Bool) (s : State) : Host.Outcome State Fault Refusal :=
  wordExec (.opCkpt e) s (fun _ => { streams := .gb }) (fun v => .done (requestCut s v.b.ctx) .invalid)

end Sys2Proof.Machine
end

