-- ==== Sys2Proof/Machine/Branch.lean ====
section
/-! DEFINITION. The branch row (OP 0x70 to 0x77): uniform and divergent branches, calls and returns with their spill, DISP, EXIT
and DONE. -/

namespace Sys2Proof.Machine

open Sys2Proof

/-! ## Conditions and targets -/

/-- R93: a uniform condition: its value, or none where it is not uniform. -/
def uniform (v : View) (p : BitVec 4) : Option Bool :=
  if v.isBell then some (v.b.bell.q.getLsbD p.toNat)
  else if v.live &&& ~~~(v.g.pred p.toNat) == 0 then some true
  else if v.live &&& v.g.pred p.toNat == 0 then some false
  else none

/-- R93: the predicate field of a uniform condition. -/
def condOk (v : View) (p : BitVec 4) : Bool := !v.isBell || decide (p.toNat < 8)

/-- R83: PC + 4 × sext(OFF20). -/
def target20 (v : View) (o : BitVec 20) : W64 := v.ctl.pc + (o.signExtend 64) * 4

/-- R82: a transfer to a target, which must be a run start. -/
def goTo (s : State) (v : View) (a : W64) (k : State → Act) : Act :=
  match isRunStart s v.b a with
  | (s, .ok true) => k s
  | (s, .ok false) => .trap s (exc fILLOP)
  | (s, .error w) => .wait s w

/-- BRA (R363). -/
def execBra (p : BitVec 4) (o : BitVec 20) (s : State) : Host.Outcome State Fault Refusal :=
  wordExec (.opBra p o) s (fun v => { streams := .gb, ok := condOk v p })
    (fun v =>
      match uniform v p with
      | none => .trap s (exc fUNIF)
      | some false => .leave s (v.ctl.pc + 4) 0 id
      | some true => goTo s v (target20 v o) (fun s => .leave s (target20 v o) 0 id))

/-- BRX (R366). -/
def execBrx (a : BitVec 8) (s : State) : Host.Outcome State Fault Refusal :=
  wordExec (.opBrx a) s (fun v => { streams := .gb, ok := sRegOk v a })
    (fun v =>
      match fetchOps s v [(a, 0)] none (fun _ _ => 0) with
      | .error x => x
      | .ok (s, w, fts) =>
        let t := pathVal w fts 0
        if t.toNat % 4 != 0 then .trap s (exc fALIGN t) else goTo s w t (fun s => .leave s t 0 id))

/-! ## Spill (R72, R98) -/

/-- R98: bytes of one spilled entry written to the context's memory. -/
def spillWrite (s : State) (v : View) (va : Nat) (bs : List Byte) : Except Act State :=
  match xlateOne s v (BitVec.ofNat 64 va) .write with
  | .error a => .error a
  | .ok (s, l) =>
    match lineReady s (v.cause s) l.pa bs.length l.typ .write with
    | (s, .wait w) => .error (.wait s w)
    | (s, .err c) => .error (.trap s (xExc c (BitVec.ofNat 64 va) true false))
    | (s, .go) => .ok (ownWrite s l.pa bs l.typ none)

/-- R92: bytes of one line that a stream reads through L2 as engine traffic, with a miss-status entry where they miss, and whether some are
poisoned. -/
def spillLine (s : State) (v : View) (va n : Nat) : Except Act (State × List Byte × Bool) :=
  match xlateOne s v (BitVec.ofNat 64 va) .read with
  | .error a => .error a
  | .ok (s, l) =>
    match lineReady s (v.cause s) l.pa n l.typ .read with
    | (s, .wait w) => .error (.wait s w)
    | (s, .err c) => .error (.trap s (exc c (BitVec.ofNat 64 va)))
    | (s, .go) =>
      if physPoison s l.pa n then .ok (s, ownRead s l.pa n, true)
      else if !farLine s l.pa l.typ then .ok (s, ownRead s l.pa n, false)
      else if filled s v.b.core (.party v.p) (lineOf l.pa) v.ctl.pc.toNat then .ok (s.fillSlice (lineOf l.pa), ownRead s l.pa n, false)
      else
        match missAsk s v true with
        | (s, true) => .error (.wait (fillAsk s v.b.core (.party v.p) (lineOf l.pa) v.ctl.pc.toNat) .miss)
        | (s, false) => .error (.wait s .miss)

/-- R92, R98: bytes of one spilled entry read back. -/
def spillRead (s : State) (v : View) (va n : Nat) : Except Act (State × List Byte) :=
  match spillLine s v va n with
  | .error a => .error a
  | .ok (s, _, true) => .error (.trap s (exc fPOISON (BitVec.ofNat 64 va)))
  | .ok (s, bs, false) => .ok (fillTake s v.b.core (.party v.p), bs)

/-! ## CALL and RET (R99, R367, R444) -/

/-- R98, R99: a return address pushed: the oldest of 8 hardware entries moves to the spill area. -/
def pushRet (s : State) (v : View) (a : W64) : Except Act State :=
  let fix (s : State) : State := if v.isBell then s else s.modGroup v.p.blk v.gi (fun g => g.fixSpill.markRet)
  if v.ctl.ret.length < 8 then .ok (fix (s.modCtl v.p (fun c => { c with ret := a :: c.ret })))
  else if v.ctl.retSpill ≥ retSpillRoom v then .error (.trap s (exc fSTACKOV))
  else
    match spillWrite s v (retSpillAddr s v v.ctl.retSpill) (leBytes 8 (v.ctl.ret.getD 7 0).toNat) with
    | .error x => .error x
    | .ok s => .ok (fix (s.modCtl v.p (fun c => { c with ret := a :: c.ret.take 7, retSpill := c.retSpill + 1 })))

/-- R98, R99: the newest return entry and the state without it. -/
def popRet (s : State) (v : View) : Except Act (State × State × W64) :=
  let fix (s : State) : State := if v.isBell then s else s.modGroup v.p.blk v.gi Group.fixSpill
  match v.ctl.ret with
  | a :: rest => .ok (s, s.modCtl v.p (fun c => { c with ret := rest }), a)
  | [] =>
    if v.ctl.retSpill == 0 then .error (.trap s (exc fSTACKOV))
    else
      match spillRead s v (retSpillAddr s v (v.ctl.retSpill - 1)) 8 with
      | .error x => .error x
      | .ok (s, bs) => .ok (s, fix (s.modCtl v.p (fun c => { c with retSpill := c.retSpill - 1 })), BitVec.ofNat 64 (leNat bs))

/-- CALL (R367). -/
def execCall (p : BitVec 4) (o : BitVec 20) (s : State) : Host.Outcome State Fault Refusal :=
  wordExec (.opCall p o) s (fun v => { streams := .gb, ok := condOk v p })
    (fun v =>
      match uniform v p with
      | none => .trap s (exc fUNIF)
      | some false => .leave s (v.ctl.pc + 4) 0 id
      | some true =>
        goTo s v (target20 v o) (fun s =>
          match pushRet s v (v.ctl.pc + 4) with
          | .error x => x
          | .ok s => .leave s (target20 v o) 0 id))

/-- RET (R444). -/
def execRet (p : BitVec 4) (s : State) : Host.Outcome State Fault Refusal :=
  wordExec (.opRet p) s (fun v => { streams := .gb, ok := condOk v p })
    (fun v =>
      match uniform v p with
      | none => .trap s (exc fUNIF)
      | some false => .leave s (v.ctl.pc + 4) 0 id
      | some true =>
        match popRet s v with
        | .error x => x
        | .ok (s, _, a) =>
          goTo s v a (fun s =>
            match popRet s v with
            | .error x => x
            | .ok (_, t, _) => .leave t a 0 id))

/-! ## BRD (R94, R364) -/

/-- R74: the spilled return entries of path 0 copied to path 1's quarter. -/
def copyRetSpill (s : State) (v : View) : Nat → Except Act State
  | 0 => .ok s
  | n + 1 =>
    match copyRetSpill s v n with
    | .error x => .error x
    | .ok s =>
      match spillRead s v (retSpillAddr s v n) 8 with
      | .error x => .error x
      | .ok (s, bs) => spillWrite s v (retSpillAddr s { v with sec := true } n) bs

/-- R94: the top-level split, once the run has ended: path 0 goes on with N, path 1 starts at the target with T and a copy of
the return stack (R74), of the barrier bits and of the handler flag (notes/assumptions 24). -/
def Group.splitAt (g : Group) (t n : W32) (target join : W64) (age : Nat) : Group :=
  let p := g.path0
  let q := Path.start target t age
  Group.markRet
    { g with
      split := true
      join := join
      path0 := { p with mask := n }
      path1 := { q with ctl := { q.ctl with ret := p.ctl.ret, retSpill := p.ctl.retSpill, mine := p.ctl.mine, pend := p.ctl.pend,
                                            handler := p.ctl.handler, trapPc := p.ctl.trapPc, trapStart := p.ctl.trapStart,
                                            trapKept := p.ctl.trapKept } } }

/-- R94: the nested push: the entry on the stack, and the mask N. -/
def pushDiv (s : State) (v : View) (e : DivEntry) : Except Act State :=
  let put (s : State) (spilled : Bool) : State := s.modGroup v.p.blk v.gi (fun g =>
    let p := g.path v.sec
    ((g.markDiv v.sec).setPath v.sec { p with
      div := e :: p.div.take 7
      divSpill := if spilled then p.divSpill + 1 else p.divSpill
      divJoins := if spilled then (p.div.getD 7 e).join :: p.divJoins else p.divJoins }).fixSpill)
  if v.path.div.length < 8 then .ok (put s false)
  else if 32 * v.path.divSpill + 32 > v.b.decl.spill / 4 then .error (.trap s (exc fSTACKOV))
  else
    match spillWrite s v (divSpillAddr s v v.path.divSpill) (divBytes (v.path.div.getD 7 e)) with
    | .error x => .error x
    | .ok s => .ok (put s true)

/-- BRD (R94, R364). -/
def execBrd (p : BitVec 4) (t j : BitVec 10) (s : State) : Host.Outcome State Fault Refusal :=
  wordExec (.opBrd p t j) s (fun _ => { streams := .g, ok := t != 0 && j != 0 })
    (fun v =>
      let m := v.path.mask
      let tk := v.live &&& v.g.pred p.toNat
      let n := m &&& ~~~tk
      let fold := (tk &&& n) ||| ((tk ||| n) ^^^ m)
      let target := v.ctl.pc + (t.signExtend 64) * 4
      let join := v.ctl.pc + (j.setWidth 64) * 4
      let mask (x : W32) (g : Group) : Group := let q := g.path v.sec; g.setPath v.sec { q with mask := x }
      goTo s v target (fun s => goTo s v join (fun s =>
        if n == 0 then .leave s target 0 (mask tk)
        else if tk == 0 then .leave s (v.ctl.pc + 4) 0 (mask n)
        else if !v.g.split then
          match copyRetSpill s v v.ctl.retSpill with
          | .error x => x
          | .ok s => .leave s (v.ctl.pc + 4) fold (fun g => (g.splitAt tk n target join s.ft).fixSpill)
        else
          match pushDiv s v { start := target, join := join, waitMask := tk, parent := m } with
          | .error x => x
          | .ok s => .leave s (v.ctl.pc + 4) fold (mask n))))

/-! ## DISP (R100, R389) -/

/-- R389: the translations of some pieces of memory. -/
def xlateAll (s : State) (v : View) (l : List (Nat × Nat)) : Except Act State :=
  l.foldl (fun (r : Except Act State) p =>
    match r with
    | .error a => .error a
    | .ok s => (xlateOne s v (BitVec.ofNat 64 p.1) .read).map Prod.fst) (.ok s)

/-- R389: bytes of the dispatch table read through L2: all are translated first, and poison among them is judged when all are there. -/
def dispRead (s : State) (v : View) (va n : Nat) : Except Act (State × List Byte) :=
  match xlateAll s v (linePieces va n) with
  | .error a => .error a
  | .ok s =>
    match (linePieces va n).foldl (fun (r : Except Act (State × List Byte × Option Nat)) (p : Nat × Nat) =>
      match r with
      | .error a => .error a
      | .ok (s, acc, bad) =>
        match spillLine s v p.1 p.2 with
        | .error a => .error a
        | .ok (s, bs, b) => .ok (s, acc ++ bs, bad.or (if b then some p.1 else none))) (.ok (s, [], none)) with
    | .error a => .error a
    | .ok (s, _, some a) => .error (.trap s (exc fPOISON (BitVec.ofNat 64 a)))
    | .ok (s, bs, none) => .ok (s, bs)

/-- R100: how a bucket's bounds judge the shape: none where lo > hi in some pair, else whether it matches, with hi − h of each. -/
def bucketFits (b : Bell) (m : Nat) (bs : List Byte) : Option (Bool × List Nat) :=
  let row (j : Nat) : Nat × Nat × Nat :=
    (leNat ((bs.drop (16 * j)).take 8), leNat ((bs.drop (16 * j + 8)).take 8), (b.h.toList.getD j 0).toNat)
  let rows := (List.range m).map row
  if rows.any (fun r => decide (r.2.1 < r.1)) then none
  else some (rows.all (fun r => decide (r.1 ≤ r.2.2) && decide (r.2.2 ≤ r.2.1)), rows.map (fun r => r.2.1 - r.2.2))

/-- R100, R389: the lowest bucket of a table that fits: its number, its paddings and its entry; none where none fits, or where a bucket, that
one or another, has lo > hi (notes/assumptions 88). -/
def dispFind (b : Bell) (m n : Nat) (bs : List Byte) : Option (Nat × List Nat × W64) :=
  let bucket (k : Nat) : List Byte := (bs.drop (k * (16 * m + 8))).take (16 * m + 8)
  if (List.range n).any (fun k => (bucketFits b m (bucket k)).isNone) then none
  else (List.range n).findSome? (fun k =>
    match bucketFits b m (bucket k) with
    | some (true, pads) => some (k, pads, BitVec.ofNat 64 (leNat (((bucket k).drop (16 * m)).take 8)))
    | _ => none)

/-- DISP (R100, R389). -/
def execDisp (a : BitVec 8) (s : State) : Host.Outcome State Fault Refusal :=
  wordExec (.opDisp a) s (fun v => { streams := .b, ok := sRegOk v a })
    (fun v =>
      match fetchOps s v [(a, 0)] none (fun _ _ => 0) with
      | .error x => x
      | .ok (s, w, fts) =>
        let va := pathVal w fts 0
        if va.toNat % 8 != 0 then .trap s (exc fALIGN va)
        else
          match dispRead s w va.toNat 8 with
          | .error x => x
          | .ok (s, hd) =>
            let n := leNat (hd.take 4)
            let m := leNat (hd.drop 4)
            if n < 1 ∨ 64 < n ∨ m < 1 ∨ 8 < m then .trap s (exc fILLOP)
            else
              match dispRead s w (va.toNat + 8) (n * (16 * m + 8)) with
              | .error x => x
              | .ok (s, bs) =>
                match dispFind w.b.bell m n bs with
                | none => .trap s (exc fILLOP)
                | some (b, pads, entry) => goTo (fillTake s w.b.core (.party w.p)) w entry (fun s =>
                  .leave (s.modBell w.p.blk (fun q => (List.range 8).foldl
                    (fun q j => q.setW (56 + j) (BitVec.ofNat 64 (pads.getD j 0))) (q.setW 55 (BitVec.ofNat 64 b)))) entry 0 id))

/-! ## EXIT and DONE (R52, R53, R97, R390, R391) -/

/-- R132, R391, R400: the deferred engine fault that the bellwether takes at a sync point: the state without it and the fault,
whose failed batch stays at its restart point. -/
def takeEngine (s : State) (v : View) : Option (State × Exc) :=
  match v.b.engFault with
  | none => none
  | some f =>
    some (s.modBlock v.p.blk (fun b => { b with engFault := none }),
      { exc f.code f.addr with engine := true, write := f.write, stage2 := f.stage2, slot := f.slot })

/-- EXIT (R391). -/
def execExit (s : State) : Host.Outcome State Fault Refusal :=
  wordExec .opExit s (fun _ => { streams := .gb, guarded := false })
    (fun v =>
      if v.isBell then
        match takeEngine s v with
        | some (s, x) => .trap s x
        | none => .leave (s.modBell v.p.blk (fun b => { b with ctl := { b.ctl with ended := true, ret := [], retSpill := 0 } })) (v.ctl.pc + 4) 0 id
      else if v.g.split || !v.path.div.isEmpty || v.path.divSpill != 0 then .trap s (exc fDIVEXIT)
      else .leave s (v.ctl.pc + 4) 0 Group.retire)

/-- DONE (R97, R390). -/
def execDone (s : State) : Host.Outcome State Fault Refusal :=
  wordExec .opDone s (fun _ => { streams := .g })
    (fun v =>
      .leave s (v.ctl.pc + 4) 0 (fun g => g.pathDone v.sec v.path.topJoin s.ft))

end Sys2Proof.Machine
end

