-- ==== Sys2Proof/Machine/Sync.lean ====
section
/-! DEFINITION. Die locks, named barriers, the grid barrier, barrier objects and POST (OP 0x66 to 0x6D). -/

namespace Sys2Proof.Machine

open Sys2Proof

/-! ## Die locks (R154 to R157, R406, R473) -/

/-- R154: the 64 bytes of a lock descriptor as ranges of base and lines. -/
def lockRanges (bs : List Byte) : List (Nat × Nat) :=
  (List.range 4).map (fun i => (leNat ((bs.drop (16 * i)).take 8), leNat ((bs.drop (16 * i + 8)).take 4)))

/-- R154: whether a lock descriptor is well formed; bytes 60 to 63 are the hardware's. -/
def lockDescOk (bs : List Byte) : Bool :=
  let r := lockRanges bs
  let sum := (r.map Prod.snd).foldl (· + ·) 0
  r.all (fun x => x.1 % 128 == 0 && decide (x.2 ≤ 512)) && decide (1 ≤ sum) && decide (sum ≤ 512) &&
    (List.range 3).all (fun i => leNat ((bs.drop (16 * i + 12)).take 4) == 0)

/-- R154: the virtual address of a lock's descriptor. -/
def lockVa (c : Ctx) (n : Nat) : W64 := c.desc.lkbase + BitVec.ofNat 64 (64 * n)

/-- R154: the physical lock that a lock number of a context reaches: its die and its number. -/
def lockPlace (s : State) (v : View) (c : Ctx) (n : Nat) : Except Act (State × Nat × Nat) :=
  match xlateOne s v (lockVa c n) .read false with
  | .error a => .error a
  | .ok (s, l) =>
    match lineReady s (v.cause s) l.pa 8 l.typ .read with
    | (s, .wait w) => .error (.wait s w)
    | (s, .err k) => .error (.trap s (exc k (lockVa c n)))
    | (s, .go) =>
      if physPoison s l.pa 8 then .error (.trap s (exc fPOISON (lockVa c n)))
      else
        match xlateOne s v (BitVec.ofNat 64 (leNat (ownRead s l.pa 8))) .read with
        | .error a => .error a
        | .ok (s, q) =>
          let d := homeDie s q.pa
          .ok (s, d, c.desc.lkphys.toList.getD d 0 + n)

/-- R155: whether a block holds or awaits a lock number. -/
def lockAwaits (s : State) (blk n : Nat) : Option Who :=
  s.mem.locks.findSome? (fun l => (l.queue.find? (fun q => q.party.blk == blk && q.num == n)).map (fun q => q.party.who))

/-- R154: a request joins a lock's queue in arrival order. -/
def lockEnqueue (s : State) (die num : Nat) (q : LockReq) : State :=
  let ls := s.mem.locks
  let ls := if ls.any (fun l => l.die == die && l.num == num) then ls
    else ls ++ [{ die := die, num := num, holder := none, queue := [] }]
  s.modMem (fun m => { m with
    locks := ls.map (fun l => if l.die == die && l.num == num then { l with queue := l.queue ++ [q] } else l) })

/-- LOCK (R155, R406): the request; the grant is the event LOCK_GRANT. -/
def execLock (e : Bool) (n o : BitVec 8) (s : State) : Host.Outcome State Fault Refusal :=
  wordExec (.opLock e n o) s (fun v => { streams := .gb, feat := some 9, ok := sSrcOk v false n && sSrcOk v false o, lats := [n, o] })
    (fun v =>
      forwarded s v .once .none [n, o]
        (fun s v => match fetchOps s v [(n, 0), (o, 0)] none (fun _ _ => 0) with
        | .error x => x
        | .ok (t, w, fts) =>
          let val (k : Nat) : Nat := (pathVal w fts k).toNat
          let num := val 0
          let off := val 1
          match ctxOf s v.b with
          | none => .trap s (exc fPERM)
          | some c =>
              match v.b.locks.find? (fun h => h.num == num) with
              | some h =>
                if h.asker == some v.p.who then
                  .done (t.modBlock v.p.blk (fun b => { b with
                    locks := b.locks.map (fun h => if h.num == num then { h with asker := none } else h) })) .invalid
                else .trap s (exc fILLOP)
              | none =>
                match lockAwaits s v.p.blk num with
                | some q => if q == v.p.who then .wait s (.lock num) else .trap s (exc fILLOP)
                | none =>
                  if off % 128 != 0 then .trap s (exc fALIGN (BitVec.ofNat 64 off))
                  else if num ≥ c.desc.lklim then .trap s (exc fPERM (BitVec.ofNat 64 num))
                  else if off ≥ v.b.decl.scratch then .trap s (exc fPERM (BitVec.ofNat 64 off))
                  else
                    match lockPlace s v c num with
                    | .error x => x
                    | .ok (s, die, k) => .wait (lockEnqueue s die k { party := v.p, num := num, off := off, word := encode (.opLock e n o) }) (.lock num)))

/-- R156: the addresses of a held lock's pushed lines, in order. -/
def HeldLock.lines (h : HeldLock) : List W64 :=
  (h.ranges.map (fun r => (List.range r.2).map (fun k => r.1 + BitVec.ofNat 64 (128 * k)))).flatten

/-- A lock of a block changed. -/
def modLock (s : State) (blk n : Nat) (f : HeldLock → HeldLock) : State :=
  s.modBlock blk (fun b => { b with locks := b.locks.map (fun h => if h.num == n then f h else h) })

/-- R248, R473: the context whose closing cut waits for the write-back of a lock, so that its writes are from before that cut. -/
def backPre (s : State) (blk n : Nat) : Option Nat :=
  let ci := partyCtx s { blk := blk, who := .bell }
  if (match s.ctxs[ci]? with | some c => c.chain.any (fun k => !k.closed && k.unlks.contains (blk, n)) | none => false) then some ci else none

/-- R156, R234: one marked line read from the block's scratchpad and written to its home slice, poison mark by poison mark. -/
def lineBack (s : State) (blk off : Nat) (l : Leaf) (pre : Option Nat) : State :=
  let s := noteLines (ownWrite s l.pa (scratchRead s blk off 128) l.typ pre) blk [l.pa]
  (List.range 16).foldl (fun s k => if scratchPoison s blk (off + 8 * k) 8 then s.addPoison (.mem (l.pa / 8 + k)) else s) s

/-- R265: one marked line put into the copy's shadow lines instead; none when they are full. -/
def shadowBack (s : State) (p : Pair) (blk off : Nat) (l : Leaf) : Option Pair :=
  ((shadowPut p l.pa (scratchRead s blk off 128)).map (·.typed l.pa l.typ)).bind (fun p =>
    (List.range 16).foldl (fun p k => if scratchPoison s blk (off + 8 * k) 8 then p.bind (fun p => shadowPoison p (l.pa + 8 * k) 8) else p) (some p))

/-- R156, R265, R473: the marked lines of a lock that have still to be read written back, those of a copy as shadow lines; what has been
written stays written when a line has to wait. `fuel`: the lines at most. -/
def lockBack (v : View) (n : Nat) : Nat → State → Except Act State
  | 0, s => .ok s
  | fuel + 1, s =>
    match (s.block? v.p.blk).bind (fun b => b.locks.find? (fun h => h.num == n)) with
    | none => .ok s
    | some h =>
      match h.marked with
      | [] => .ok s
      | i :: rest =>
        let off := h.off + 128 * i
        let va := h.lines.getD i 0
        let read (s : State) (g : Nat) : State := modLock s v.p.blk n (fun h => { h with marked := rest, rel := some (max g (h.rel.getD 0)) })
        match xlateOne s v va .write with
        | .error a => .error a
        | .ok (s, l) =>
          match (s.block? v.p.blk).bind Block.pair with
          | some p =>
            (match shadowBack s p v.p.blk off l with
            | none => .error (.trap s (xExc fPERM va true false))
            | some p => lockBack v n fuel (read (s.modBlock v.p.blk (fun b => { b with pair := some p })) s.ft))
          | none =>
            let pre := backPre s v.p.blk n
            match lineFor s (v.cause s) pre l.pa 128 l.typ .write with
            | (s, .wait w) => .error (.wait s w)
            | (s, .err c) => .error (.trap s (xExc c va true false))
            | (s, .go) => lockBack v n fuel (read (lineBack s v.p.blk off l pre) (gPkg s l.pa))

/-- R154: the lines of a lock at most. -/
def lockLinesMax : Nat := 512

/-- R156, R473: the write-back of a lock begun, for the UNLK of a party or for a block's end. -/
def beginBack (s : State) (blk n : Nat) (giver : Option Who) (word : W32) : State :=
  modLock s blk n (fun h => { h with rel := some s.ft, giver := giver, word := if giver.isSome then word else h.word })

/-- R473: a write-back that met a fault is none under way. -/
def dropBack (s : State) (blk n : Nat) : State := modLock s blk n (fun h => { h with rel := none, giver := none })

/-- R473: the write-back of a lock, begun when it was not, and carried on. -/
def runBack (s : State) (v : View) (h : HeldLock) (giver : Option Who) (word : W32) : Except Act State :=
  let s := if h.rel.isSome then s else beginBack s v.p.blk h.num giver word
  match lockBack v h.num lockLinesMax s with
  | .error (.trap s x) => .error (.trap (dropBack s v.p.blk h.num) x)
  | r => r

/-- R156: whether a lock's write-back has been made. -/
def HeldLock.written (h : HeldLock) : Bool := h.rel.isSome && h.marked.isEmpty

/-- R156, R267: a lock passed on by its holder, by both copies of a paired block. -/
def lockFree (s : State) (blk : Nat) (c : Ctx) (n : Nat) : State :=
  let free (s : State) (k : Nat) : State := s.modBlock k (fun b => { b with locks := b.locks.filter (fun h => h.num != n) })
  let s := match (s.block? blk).bind Block.pair with | some p => free (free s blk) p.mate | none => free s blk
  let s := s.modCtx (partyCtx s { blk := blk, who := .bell }) (fun c => { c with
    chain := c.chain.map (fun k => { k with unlks := k.unlks.filter (· != (blk, n)) }) })
  let mine (l : Lock) : Bool := l.holder == some blk && l.num == c.desc.lkphys.toList.getD l.die 0 + n
  s.modMem (fun m => { m with locks := m.locks.map (fun l => if mine l then { l with holder := none } else l) })

/-- R154, R156, R473: what UNLK names, before a channel gives up an operand: the lock that the block holds, or the fault. -/
def unlkLock (v : View) (c : Ctx) (num : Nat) : Except Exc HeldLock :=
  if num ≥ c.desc.lklim then .error (exc fPERM (BitVec.ofNat 64 num))
  else
    match v.b.locks.find? (fun h => h.num == num && h.asker.isNone) with
    | none => .error (exc fILLOP)
    | some h => .ok h

/-- R265, R266: a copy's write-backs put into its shadow lines, before it waits at the compare point of its UNLK; none when they have been, or
the word's operands have still to come. -/
def unlkShadow (s : State) (v : View) (n : BitVec 8) (word : W32) : Option Act :=
  if v.b.pair.isNone || v.ctl.cmpOk || v.ctl.fwd then none
  else
    match fetchOps s v [(n, 0)] none (fun _ _ => 0), ctxOf s v.b with
    | .ok (_, w, fts), some c =>
      (match unlkLock v c (pathVal w fts 0).toNat with
      | .error _ => none
      | .ok h =>
        if h.written then none
        else if h.rel.isNone && !fenceReady s v 3 then some (.wait s (.fence 3))
        else
          match runBack s v h (some v.p.who) word with
          | .error a => some a
          | .ok s => some (.wait s .again))
    | _, _ => none

/-- UNLK (R156, R265, R473): the marked lines are written back, their time passes at pkg scope, and the lock passes on. -/
def execUnlk (e : Bool) (n : BitVec 8) (s : State) : Host.Outcome State Fault Refusal :=
  wordExec (.opUnlk e n) s (fun v => { streams := .gb, feat := some 9, ok := sSrcOk v false n, lats := [n] })
    (fun v =>
      (unlkShadow s v n (encode (.opUnlk e n))).getD (forwarded s v .once .none [n]
        (fun s v => match fetchOps s v [(n, 0)] none (fun _ _ => 0) with
        | .error x => x
        | .ok (t, w, fts) =>
          let num := (pathVal w fts 0).toNat
          match ctxOf s v.b with
          | none => .trap s (exc fPERM)
          | some c =>
            match unlkLock v c num with
            | .error x => .trap s x
            | .ok h =>
              if h.written then
                (if h.rel.getD 0 < s.ft then .done (lockFree t v.p.blk c num) .invalid else .wait s (.unlk num))
              else if h.rel.isNone && !fenceReady s v 3 then .wait s (.fence 3)
              else
                match runBack s v h (some v.p.who) (encode (.opUnlk e n)) with
                | .error x => x
                | .ok s => .wait s (.unlk num))))

/-! ## Named barriers (R166, R351 to R354) -/

/-- R166: the value of `mine` or of a pending flag of a control part. -/
def bitOf (x : BitVec 16) (b : Nat) : Bool := x.getLsbD b
/-- One bit of a 16-bit register set. -/
def putBit (x : BitVec 16) (b : Nat) (y : Bool) : BitVec 16 := if y then x ||| (1#16 <<< b) else x &&& ~~~(1#16 <<< b)

/-- R166: whether an arrival would complete the barrier's phase. -/
def NBar.completes (n : NBar) (count : Nat) : Bool := match n.arrive count with | some x => x.phase != n.phase | none => false

/-- R238, R352: an arrival with its count; none is its ILLOP. A group that arrives is counted in the phase, so that its death does not count
again there. -/
def barArrive (s : State) (v : View) (b n : Nat) : Option State :=
  match v.b.bars[b]? with
  | none => none
  | some nb =>
    match nb.arrive n with
    | none => none
    | some x =>
      let x := if v.isBell then x else { x with
        users := x.users ||| laneBit v.gi
        counted := if x.phase == nb.phase then x.counted ||| laneBit v.gi else x.counted }
      let s := s.modBlock v.p.blk (fun q => { q with bars := q.bars.set b x })
      some (s.modCtl v.p (fun c => { c with mine := putBit c.mine b nb.phase, pend := putBit c.pend b true }))

/-- R351: the fields of a barrier word. -/
def barNeed (v : View) (fs : List (BitVec 8)) : Need := { streams := .gb, ok := fs.all (sSrcOk v false), lats := fs }

/-- R351: the limits of a barrier's index and count. -/
def barLimits (v : View) (b n : Nat) : Bool := decide (b < v.b.bars.length) && decide (1 ≤ n) && decide (n ≤ 4095)

/-- R351, R352, R266: the arrival of a BARA or BARS, whose completion of a phase is a compare point of a paired block. -/
def barWord (s : State) (v : View) (i n : BitVec 8) (k : State → Nat → Act) : Act :=
  match fetchOps s v [(i, 0), (n, 0)] none (fun _ _ => 0) with
  | .error x => x
  | .ok (t, w, fts) =>
    let val (k : Nat) : Nat := (pathVal w fts k).toNat
    if !barLimits v (val 0) (val 1) then .trap s (exc fILLOP)
    else if v.b.pair.isSome && !v.ctl.cmpOk &&
        (match v.b.bars[val 0]? with | some nb => nb.completes (val 1) | none => false) then .wait s (.compare (val 0 + 1))
    else
      match barArrive t w (val 0) (val 1) with
      | none => .trap s (exc fILLOP)
      | some t => k t (val 0)

/-- BARA (R352). -/
def execBara (e : Bool) (i n : BitVec 8) (s : State) : Host.Outcome State Fault Refusal :=
  wordExec (.opBara e i n) s (fun v => barNeed v [i, n]) (fun v => barWord s v i n (fun t _ => .done t .invalid))

/-- R354: whether a barrier's phase differs from what a party recorded. -/
def barPassed (s : State) (p : Party) (b : Nat) : Bool :=
  match s.block? p.blk, s.ctl? p with
  | some q, some c => (match q.bars[b]? with | some nb => nb.phase != bitOf c.mine b | none => true)
  | _, _ => true

/-- R353, R354: the wait part: it clears the flag once the phase differs. -/
def barWait (s t : State) (p : Party) (b : Nat) : Act :=
  if barPassed t p b then .done (t.modCtl p (fun c => { c with pend := putBit c.pend b false })) .invalid else .wait s (.bar b)

/-- BARS (R353). -/
def execBars (e : Bool) (i n : BitVec 8) (s : State) : Host.Outcome State Fault Refusal :=
  wordExec (.opBars e i n) s (fun v => barNeed v [i, n])
    (fun v =>
      match v.ctl.arrived with
      | some b => barWait s s v.p b
      | none => barWord s v i n (fun t b => let t := t.modCtl v.p (fun c => { c with arrived := some b }); barWait t t v.p b))

/-- BARW (R354). -/
def execBarw (e : Bool) (i : BitVec 8) (s : State) : Host.Outcome State Fault Refusal :=
  wordExec (.opBarw e i) s (fun v => barNeed v [i])
    (fun v =>
      match fetchOps s v [(i, 0)] none (fun _ _ => 0) with
      | .error x => x
      | .ok (t, w, fts) =>
        let b := (pathVal w fts 0).toNat
        match v.b.bars[b]? with
        | none => .trap s (exc fILLOP)
        | some nb =>
          let note (s : State) : State := if bitOf v.ctl.pend b then s
            else s.modCtl v.p (fun c => { c with mine := putBit c.mine b nb.phase, pend := putBit c.pend b true })
          barWait (note s) (note t) v.p b)

/-! ## The grid barrier (R49, R400) -/

/-- HBAR (R49, R400): the arrival is made once; in a paired block the primary makes it for both copies, which wait for the same phase. -/
def execHbar (e : Bool) (h : BitVec 3) (s : State) : Host.Outcome State Fault Refusal :=
  wordExec (.opHbar e h) s (fun _ => { streams := .b, ok := decide (h.toNat ≤ 4) })
    (fun v =>
      match takeEngine s v with
      | some (s, x) => .trap s x
      | none =>
        let ph := ((s.grids[v.b.grid]?).map Grid.phase).getD 0
        match v.b.bell.hbar with
        | some k =>
          if k == ph then .wait s (.hbar k) else .done (s.modBell v.p.blk (fun b => { b with hbar := none })) .invalid
        | none =>
          if v.b.pair.isSome && !v.ctl.cmpOk then .wait s (.compare 0)
          else
            let note (s : State) (k : Nat) : State := s.modBell k (fun b => { b with hbar := b.hbar.or (some ph) })
            let arrive (s : State) : State := s.modGrid v.b.grid (fun g => { g with arrived := v.p.blk :: g.arrived })
            match v.b.pair with
            | none => .wait (arrive (note s v.p.blk)) (.hbar ph)
            | some pr => .wait (if pr.primary then arrive (note (note s v.p.blk) pr.mate) else note s v.p.blk) (.hbar ph))

/-! ## Barrier objects (R167, R355 to R362) -/

/-- R167: a barrier-object entry (log 25 gives its layout: GEN in bits 11:0, ARRIVED in 31:12, EXPECTED in 51:32, PHASE in 63:52). -/
structure BarObj where
  gen : Nat
  arrived : Nat
  expected : Nat
  phase : Nat
  deriving DecidableEq, Repr

/-- R167: an entry from its 8 bytes. -/
def objOf (x : Nat) : BarObj :=
  { gen := x % 2 ^ 12, arrived := x / 2 ^ 12 % 2 ^ 20, expected := x / 2 ^ 32 % 2 ^ 20, phase := x / 2 ^ 52 % 2 ^ 12 }
/-- R167: the 8 bytes of an entry. -/
def objNat (o : BarObj) : Nat := o.gen + o.arrived * 2 ^ 12 + o.expected * 2 ^ 32 + o.phase * 2 ^ 52

/-- R167: the number of entries of the table. -/
def objMax : Nat := 65536

/-- R167, R173: whether a party's barrier-object operation may be performed on a line now: its place is the first there, or nothing
waits there, and nothing shares the line. -/
def objFirst (s : State) (p : Party) (pa : Nat) : Bool :=
  syncReady s pa &&
    (match s.mem.held.find? (fun h => h.line == lineOf pa) with
    | some h => h.obj && h.party == p && lineFirst s (lineOf pa) h.seq
    | none => !queuedOn s (lineOf pa))

/-- R167, R173: a party's barrier-object operation held at its line: it takes its place once. -/
def objHold (s : State) (p : Party) (line : Nat) : State :=
  if s.mem.held.any (fun h => h.obj && h.party == p && h.line == line) then s
  else holdWrite s { party := p, op := s.nextId, line := line, lanes := [], dst := .none, words := 0, acks := [], seq := 0, obj := true, far := none }

/-- The places of a party's barrier-object operations given up. -/
def objTaken (s : State) (p : Party) : State :=
  if s.mem.held.any (fun h => h.obj && h.party == p) then
    s.modMem (fun m => { m with held := m.held.filter (fun h => !(h.obj && h.party == p)) })
  else s

/-- R167, R355: a barrier-object entry read at its line's home, ready to be written. -/
def objRead (s : State) (v : View) (i : Nat) : Except Act (State × Leaf × BarObj) :=
  match ctxOf s v.b with
  | none => .error (.trap s (exc fXLATE))
  | some c =>
    let va := c.desc.botable + BitVec.ofNat 64 (8 * i)
    match xlateOne s v va .write false with
    | .error a => .error a
    | .ok (s, l) =>
      match lineReady s (v.cause s) l.pa 8 l.typ .sync with
      | (s, .wait w) => .error (.wait s w)
      | (s, .err c) => .error (.trap s (exc c va))
      | (s, .go) =>
        if l.typ == 1 then .error (.trap s (exc fATOMUNS va))
        else if !objFirst s v.p l.pa then .error (.wait (objHold s v.p (lineOf l.pa)) (.held (lineOf l.pa)))
        else
        let s := objTaken s v.p
        if physPoison s l.pa 8 then .error (.trap s (exc fPOISON va))
        else .ok (s, l, objOf (leNat (ownRead s l.pa 8)))

/-- R167, R362: a barrier-object entry read by a wait on it, a synchronisation read. -/
def objLook (s : State) (v : View) (i : Nat) : Except Act (State × Leaf × BarObj) :=
  match ctxOf s v.b with
  | none => .error (.trap s (exc fXLATE))
  | some c =>
    let va := c.desc.botable + BitVec.ofNat 64 (8 * i)
    match xlateOne s v va .read false with
    | .error a => .error a
    | .ok (s, l) =>
      match lineReady s (v.cause s) l.pa 8 l.typ .read with
      | (s, .wait w) => .error (.wait s w)
      | (s, .err c) => .error (.trap s (exc c va))
      | (s, .go) =>
        if l.typ == 1 then .error (.trap s (exc fATOMUNS va))
        else if physPoison s l.pa 8 then .error (.trap s (exc fPOISON va))
        else .ok (s, l, objOf (leNat (ownRead s l.pa 8)))

/-- R167, R173: an entry written as a synchronisation write. -/
def objWrite (s : State) (v : View) (l : Leaf) (o : BarObj) : State :=
  raiseGw (ownWrite s l.pa (leBytes 8 (objNat o)) l.typ none) v.p s.ft

/-- R167: an entry named by a handle, as `get` reads it: none of it for a stale one. -/
def objHandle (get : State → View → Nat → Except Act (State × Leaf × BarObj)) (s : State) (v : View) (h : W64) (k : State → Leaf → BarObj → Act) : Act :=
  let i := h.toNat % 2 ^ 20
  let gen := h.toNat / 2 ^ 20 % 2 ^ 12
  if i ≥ objMax then .trap s (exc fILLOP)
  else
    match get s v i with
    | .error a => a
    | .ok (s, l, o) => if gen == 0 || o.gen != gen || o.expected == 0 then .trap s (exc fBARSTALE h) else k s l o

/-- R355: the result of a member. -/
def objResult (s : State) (v : View) (d : BitVec 8) (x : Nat) : Act :=
  let r := if v.isBell then d.toNat else d.toNat % 32
  .done (deliver s v.p (.sreg r) [(0, 0, BitVec.ofNat 32 x), (1, 0, 0)]) .invalid

/-- R355: the destination as a register. -/
def objDst (v : View) (d : BitVec 8) : Dst := .sreg (if v.isBell then d.toNat else d.toNat % 32)

/-- R176: a barrier-object operation that has ended: its entry of AC is raised and completes. -/
def objCount (v : View) (a : Act) : Act :=
  match a with
  | .done s l => let (id, s) := newOp s v .ac .none; .done (completeOp s v.p id) l
  | a => a

/-- R176, R355: a member: its sources, its destination, whether it raises AC, and what it does with their values. -/
def objWord (i : Instr) (srcs : List (BitVec 8)) (d : Option (BitVec 8)) (ac : Bool) (k : State → State → View → List W64 → Act)
    (s : State) : Host.Outcome State Fault Refusal :=
  wordExec i s
    (fun v => { streams := .gb, ok := srcs.all (sSrcOk v false) && (match d with | some d => sRegOk v d | none => true), lats := srcs })
    (fun v =>
      forwarded s v .once (match d with | some d => objDst v d | none => .none) srcs
        (fun s v => match fetchOps s v (srcs.map (fun f => (f, 0))) none (fun _ _ => 0) with
        | .error x => x
        | .ok (t, w, fts) =>
          if ac && counterFull s v.p .ac then .wait s (.counter 2)
          else
            match k s t w (fts.map (sval w)) with
            | .wait t x => .wait (restoreChans t s v.p.blk) x
            | .trap t x => .trap (restoreChans t s v.p.blk) x
            | a => if ac then objCount v a else a))

/-- R360: the lowest free entry from index `i` on. -/
def objFree (v : View) : Nat → Nat → State → Except Act (State × Option (Nat × Leaf × BarObj))
  | 0, _, s => .ok (s, none)
  | fuel + 1, i, s =>
    match objRead s v i with
    | .error a => .error a
    | .ok (s, l, o) => if o.expected == 0 then .ok (s, some (i, l, o)) else objFree v fuel (i + 1) s

/-- BNEW (R360): a GEN of 0 that no BDEL has advanced becomes 1, since GEN is never 0 (R167). -/
def execBnew (e : Bool) (x y : BitVec 8) (s : State) : Host.Outcome State Fault Refusal :=
  objWord (.opBnew e x y) [y] (some x) true
    (fun _ s v xs =>
      let n := (xs.getD 0 0).toNat
      if n == 0 || decide (n > 1048575) then .trap s (exc fILLOP)
      else
        match objFree v objMax 0 s with
        | .error a => a
        | .ok (s, none) => objResult s v x 0
        | .ok (s, some (i, l, o)) =>
          let gen := if o.gen == 0 then 1 else o.gen
          objResult (objWrite s v l { gen := gen, arrived := 0, expected := n, phase := 0 }) v x (i + gen * 2 ^ 20)) s

/-- BDEL (R356). -/
def execBdel (e : Bool) (y : BitVec 8) (s : State) : Host.Outcome State Fault Refusal :=
  objWord (.opBdel e y) [y] none true
    (fun _ s v xs => objHandle objRead s v (xs.getD 0 0) (fun s l o =>
      .done (objWrite s v l { o with gen := if o.gen == 4095 then 1 else o.gen + 1, expected := 0, arrived := 0 }) .invalid)) s

/-- BOA (R361). -/
def execBoa (e : Bool) (x y : BitVec 8) (s : State) : Host.Outcome State Fault Refusal :=
  objWord (.opBoa e x y) [y] (some x) true
    (fun _ s v xs => objHandle objRead s v (xs.getD 0 0) (fun s l o =>
      let full := o.arrived + 1 == o.expected
      objResult (objWrite s v l { o with arrived := if full then 0 else o.arrived + 1,
                                         phase := if full then (o.phase + 1) % 4096 else o.phase }) v x o.phase)) s

/-- BOW (R362). -/
def execBow (e : Bool) (x y : BitVec 8) (s : State) : Host.Outcome State Fault Refusal :=
  objWord (.opBow e x y) [x, y] none false
    (fun _ s v xs =>
      let tok := (xs.getD 1 0).toNat % 4096
      objHandle objLook s v (xs.getD 0 0) (fun s _ o =>
        if o.phase == tok then .wait s (.bow (xs.getD 0 0).toNat tok) else .done s .invalid)) s

/-! ## POST (R50, R285, R286, R434, R435) -/

/-- R285: the hash of a key address. -/
def keyHash (k : Nat) : Nat :=
  let f (lo : Nat) : Nat := k / 2 ^ lo % 512
  Nat.xor (Nat.xor (Nat.xor (Nat.xor (f 7) (f 16)) (f 25)) (f 34)) (f 43)

/-- R285: the die whose gatherer takes a key. -/
def gatherDie (cores : BitVec 128) (k : Nat) : Nat :=
  let ds := placeDies cores
  ds.getD (keyHash k % max 1 ds.length) 0

/-- R286: a context's share of a gatherer's buffer in bytes. -/
def gatherShare (cores : BitVec 128) (die : Nat) : Nat :=
  4194304 * ((List.range 32).filter (fun k => cores.getLsbD (32 * die + k))).length / 32

/-- R286: the bytes of a context's records in the buffer of a die's gatherer, and in the spill heap. -/
def gatherUsed (s : State) (ci die : Nat) : Nat × Nat :=
  let bytes (l : List (Nat × List Byte)) : Nat := (l.map (fun r => r.2.length)).foldl (· + ·) 0
  (((s.fe.gathers.filter (fun g => g.ctx == ci && g.die == die)).map (fun g => bytes g.recs)).foldl (· + ·) 0,
    ((s.fe.gathers.filter (fun g => g.ctx == ci)).map (fun g => bytes g.spilled)).foldl (· + ·) 0)

/-- R50: whole blocks formed from a gatherer's records, oldest first; `force`: also the rest (a timeout). -/
def formBlocks (s : State) (ci node die : Nat) (force : Bool) : Nat → State
  | 0 => s
  | fuel + 1 =>
    match s.fe.nodes.find? (fun n => n.ctx == ci && n.index == node),
          s.fe.gathers.find? (fun g => g.ctx == ci && g.node == node && g.die == die) with
    | some n, some g =>
      let k := 32 * n.decl.groups
      if g.recs.length ≥ k && decide (k > 0) || (force && !g.recs.isEmpty) then
        let s := s.modFe (fun f => { f with gathers := f.gathers.map (fun x =>
          if x.ctx == ci && x.node == node && x.die == die then { x with recs := x.recs.drop k } else x) })
        formBlocks (s.modGrid n.grid (fun q => { q with formed := q.formed ++ [(g.recs.take k).map Prod.snd] })) ci node die force fuel
      else s
    | _, _ => s

/-- R286: a record sent to a gatherer: whether it was taken. -/
def gatherPut (s : State) (c : Ctx) (ci node die : Nat) (r : List Byte) : State × Bool :=
  let s := if s.fe.gathers.any (fun g => g.ctx == ci && g.node == node && g.die == die) then s
    else s.modFe (fun f => { f with gathers := f.gathers ++ [{ ctx := ci, node := node, die := die, recs := [], spilled := [] }] })
  let g := (s.fe.gathers.find? (fun g => g.ctx == ci && g.node == node && g.die == die)).getD
    { ctx := ci, node := node, die := die, recs := [], spilled := [] }
  let used := gatherUsed s ci die
  let put (h : Gather → Gather) : State := s.modFe (fun f => { f with gathers := f.gathers.map (fun x =>
    if x.ctx == ci && x.node == node && x.die == die then h x else x) })
  if g.spilled.isEmpty && decide (used.1 + r.length ≤ gatherShare c.desc.cores die) then
    (formBlocks (put (fun x => { x with recs := x.recs ++ [(s.ft, r)] })) ci node die false 1, true)
  else if used.2 + r.length ≤ c.desc.spillheap.2 then (put (fun x => { x with spilled := x.spilled ++ [(s.ft, r)] }), true)
  else (s, false)

/-- R435: the lanes of a POST, ascending: the lanes accepted, and those whose record is poisoned. -/
def postLanes (v : View) (c : Ctx) (node size roff : Nat) (reg : Bool) (key : Nat → Nat) :
    List Nat → State → State × W32 × W32 × Bool
  | [], s => (s, 0, 0, false)
  | l :: rest, s =>
    if scratchPoison s v.p.blk (roff + l * size) size then
      let (s, a, d, f) := postLanes v c node size roff reg key rest s
      (s, a, d ||| laneBit l, f)
    else
      let r := scratchRead s v.p.blk (roff + l * size) size
      let (s, ok) := if reg then gatherPut s c v.b.ctx node (gatherDie c.desc.cores (key l)) r else (s, false)
      let (s, a, d, f) := postLanes v c node size roff reg key rest s
      (s, if ok then a ||| laneBit l else a, d, f || (reg && !ok))

/-- POST (R434, R435). -/
def execPost (e : Bool) (x y z : BitVec 8) (s : State) : Host.Outcome State Fault Refusal :=
  wordExec (.opPost e x y z) s
    (fun v => { streams := .g, feat := some 8, ok := isPred x && (isS y || vregsOk v 2 y) && sSrcOk v false z, lats := [z] })
    (fun v =>
      forwarded s v .once (.pred (x.toNat % 16)) [z, y]
        (fun s v => match fetchLanes s v [(z, 0), (y, 2)] with
        | .error a => a
        | .ok (t, w, fts) =>
          let desc := (pathVal w fts 0).toNat
          let node := desc % 4096
          let roff := desc / 2 ^ 16 % 2 ^ 24
          match ctxOf s v.b with
          | none => .trap s (exc fXLATE)
          | some c =>
            let nd := s.fe.nodes.find? (fun n => n.ctx == v.b.ctx && n.index == node)
            let size := match nd with | some n => n.decl.recSize | none => 4
            let past := maskOf (fun l => inMask w.active l && decide (roff + l * size + size > v.b.decl.scratch))
            if desc / 2 ^ 40 != 0 || desc / 2 ^ 12 % 16 != 0 then .trap s (exc fILLOP)
            else if roff % 4 != 0 then .trap s (exc fALIGN (BitVec.ofNat 64 roff))
            else if past != 0 then .trap s { exc fPERM (BitVec.ofNat 64 (roff + lowLane past * size)) with lanes := past }
            else if !fenceReady s v 3 then .wait s (.fence 3)
            else
              let (t, acc, died, full) := postLanes w c node size roff nd.isSome (tagAddr w y) (laneList.filter (inMask w.active)) t
              let m := w.active &&& ~~~died
              let t := t.modGroup v.p.blk v.gi (fun g =>
                let g := g.setP (x.toNat % 16) m acc
                if full then Group.mark { g with gstat := g.gstat ||| 4#32 } 0 else g)
              let t := if died == 0 then t else killLanes t w died
              if t.cur.isNone then .over t else .done t .invalid))

end Sys2Proof.Machine
end

