-- ==== Sys2Proof/Machine/Matrix.lean ====
section
/-! DEFINITION. The matrix engine (06_matrix, R117 to R120, R410 to R415, R418, R423, R424, R478): the commands of OP 0x78 to
0x7E, and the engine's own steps. -/

namespace Sys2Proof.Machine

open Sys2Proof

/-! ## Commands -/

/-- R126: a descriptor base. -/
def descBase (n : BitVec 8) : Bool := decide (n.toNat ≤ 60) && n.toNat % 4 == 0
/-- R126: a source field of a matrix command. -/
def matSrcOk (f : BitVec 8) : Bool := decide (f.toNat < 64) || isIC f
/-- R418, R478: the feature bit of a matrix format. -/
def matFeat (fmt : Nat) : Option Nat :=
  match fmt with
  | 10 | 12 | 13 => some 2
  | 14 | 15 => some 3
  | 1 | 2 => some 4
  | _ => none
/-- R124: a weight format. -/
def weightFmt (fmt : Nat) : Bool := (matFeat fmt).isSome
/-- R124: a format with block scales. -/
def blockFmt (fmt : Nat) : Bool := fmt == 14 || fmt == 15
/-- R124: the products per processing element of a pairing; none when it is not allowed. -/
def pairing (wf af : Nat) : Option Nat :=
  if (wf == 12 || wf == 13) && (af == 12 || af == 13) then some 2
  else if blockFmt wf && (blockFmt af || af == 12 || af == 13) then some 4
  else if wf == af && (wf == 1 || wf == 2) then some 1
  else if wf == af && wf == 10 then some 2
  else none
/-- R124: the bytes of an activation row. -/
def rowBytes (wf af : Nat) : Nat := if blockFmt wf && !blockFmt af then 768 else 384
/-- R125: the scale bytes of a column or row of 24 blocks. -/
def scaleBytes (fmt : Nat) : Nat := if fmt == 14 then 24 else if fmt == 15 then 48 else 0
/-- The bit field of a descriptor word. -/
def bitsOf (x : W64) (lo n : Nat) : Nat := x.toNat / 2 ^ lo % 2 ^ n

/-- R126, R410: the course of a matrix command: a deferred engine fault first, then its sources, then its own effect. -/
def matWord (i : Instr) (feat : View → Option Nat) (ok : Bool) (srcs : List (BitVec 8))
    (k : State → View → List W64 → Act) (s : State) : Host.Outcome State Fault Refusal :=
  wordExec i s (fun v => { streams := .b, feat := feat v, ok := ok })
    (fun v =>
      match takeEngine s v with
      | some (s, x) => .trap s x
      | none =>
        match fetchOps s v (srcs.map (fun f => (f, 0))) none (fun _ _ => 0) with
        | .error x => x
        | .ok (t, w, fts) => k t w (fts.map (sval w)))

/-- The four registers of a descriptor. -/
def descRegs (n : BitVec 8) : List (BitVec 8) := [n, n + 1, n + 2, n + 3]

/-- R76, R143: the lowest free RPROG slot. -/
def freeSlot (b : Block) : Option Nat := (List.range 4).find? (fun k => !b.mops.any (fun o => o.slot == some k))

/-- R43, R76, R243: an operation issued: it takes its place among the open ones and, when `slot`, an RPROG slot set to 0. -/
def matIssue (s : State) (v : View) (kind : MKind) (slot : Bool) (post : Block → Block) : Act :=
  if v.b.mops.length ≥ 32 then .wait s .ops
  else if slot && (freeSlot v.b).isNone then .wait s .slots
  else
    let k := if slot then freeSlot v.b else none
    let (id, s) := s.newId
    let o : MOp := { id := id, seq := id, kind := kind, prog := 0, slot := k, batch := none, failed := false, entered := false, performed := false, g := 0,
                     lines := [], req := none, outcomes := [] }
    .done (s.modBlock v.p.blk (fun b =>
      let b := post { b with mops := b.mops ++ [o] }
      match k with
      | some j => { b with bell := { b.bell with rprog := if h : j < 4 then b.bell.rprog.set j 0 else b.bell.rprog } }
      | none => b)) .invalid

/-- The first of a list of ALIGN conditions that fails: the value whose remainder must be 0, and the divisor. The list has the order of
the descriptor's table (notes/assumptions 89). -/
def alignFault (l : List (W64 × Nat)) : Option Exc :=
  (l.find? (fun x => x.1.toNat % x.2 != 0)).map (fun x => exc fALIGN x.1)

/-- WLD (R127, R128, R478). -/
def execWld (e : Bool) (n : BitVec 8) (bk : BitVec 1) (s : State) : Host.Outcome State Fault Refusal :=
  matWord (.opWld e n bk) (fun v => matFeat (bitsOf (v.sreg (n.toNat + 2)) 0 4)) (descBase n) (descRegs n)
    (fun s v ws =>
      let d (k : Nat) : W64 := ws.getD k 0
      let fmt := bitsOf (d 2) 0 4
      let cs := bitsOf (d 1) 0 32
      let ss := bitsOf (d 1) 32 32
      if bitsOf (d 2) 4 60 != 0 || !weightFmt fmt || decide (cs < 384) then .trap s (exc fILLOP)
      else
        match alignFault ([(d 0, 128), (BitVec.ofNat 64 cs, 128)] ++
            (if blockFmt fmt then [(BitVec.ofNat 64 ss, 16), (d 3, 16)] else [])) with
        | some x => .trap s x
        | none =>
          matIssue s v (.wld (bk == 1#1) (d 0) cs ss fmt (d 3)) false
            (fun b => { b with pendFmt := b.pendFmt.set (bk.toNat % 2) (some fmt) (Nat.mod_lt _ (by decide)) })) s

/-- MSTR (R129, R418). -/
def execMstr (e : Bool) (n : BitVec 8) (bk : BitVec 1) (s : State) : Host.Outcome State Fault Refusal :=
  matWord (.opMstr e n bk) (fun v => matFeat (bitsOf (v.sreg (n.toNat + 2)) 0 4)) (descBase n) (descRegs n)
    (fun s v ws =>
      let d (k : Nat) : W64 := ws.getD k 0
      let m := bitsOf (d 1) 32 16
      let fmt := bitsOf (d 2) 0 4
      let row0 := bitsOf (d 3) 0 15
      let paired := match v.b.pendFmt.toList.getD bk.toNat none with | some wf => (pairing wf fmt).isSome | none => false
      if bitsOf (d 1) 48 16 != 0 || bitsOf (d 3) 15 1 != 0 || bitsOf (d 3) 17 47 != 0 || m == 0 || decide (m > 16384) || !paired then
        .trap s (exc fILLOP)
      else if row0 + m > v.b.decl.acc then .trap s (exc fACCWIN (BitVec.ofNat 64 row0))
      else
        match alignFault [(d 0, 128), (BitVec.ofNat 64 (bitsOf (d 1) 0 32), 128)] with
        | some x => .trap s x
        | none =>
          matIssue s v (.mstr (bk == 1#1) (d 0) (bitsOf (d 1) 0 32) m fmt (BitVec.ofNat 64 (bitsOf (d 2) 4 60 * 16)) row0 (bitsOf (d 3) 16 1 == 1))
            true id) s

/-- R139: the bytes of a drained element. -/
def drainSize (fmt : Nat) : Nat := if fmt == 0 || fmt == 4 then 4 else if fmt == 1 || fmt == 2 then 2 else 1

/-- MDRN (R139, R412). -/
def execMdrn (e : Bool) (n : BitVec 8) (s : State) : Host.Outcome State Fault Refusal :=
  matWord (.opMdrn e n) (fun v => if bitsOf (v.sreg (n.toNat + 2)) 8 2 == 2 then some 5 else none) (descBase n) (descRegs n)
    (fun s v ws =>
      let d (k : Nat) : W64 := ws.getD k 0
      let stride := bitsOf (d 1) 0 32
      let m := bitsOf (d 1) 32 16
      let fmt := bitsOf (d 2) 0 4
      let opn := bitsOf (d 2) 8 2
      let scr := bitsOf (d 2) 10 1 == 1
      let scope := bitsOf (d 2) 11 3
      let row0 := bitsOf (d 3) 0 15
      let rowLen := 128 * drainSize fmt
      if bitsOf (d 1) 48 16 != 0 || bitsOf (d 2) 7 1 != 0 || bitsOf (d 2) 14 50 != 0 || bitsOf (d 3) 15 49 != 0 || m == 0 ||
          decide (m > 16384) || !(fmt == 0 || fmt == 1 || fmt == 2 || fmt == 4 || fmt == 12 || fmt == 13) || opn == 3 ||
          decide (scope ≥ 6) || (opn != 0 && fmt != 0) || (opn == 2 && scr) || decide (stride < rowLen) ||
          (scr && bitsOf (d 0) 24 40 != 0) || (opn == 2 && v.b.pair.isSome) then .trap s (exc fILLOP)
      else if row0 + m > v.b.decl.acc then .trap s (exc fACCWIN (BitVec.ofNat 64 row0))
      else
        match alignFault ([(d 0, 128), (BitVec.ofNat 64 stride, 128)] ++ (if opn == 1 then [(d 0, 4096)] else [])) with
        | some x => .trap s x
        | none =>
          if opn == 1 && stride != 512 then .trap s (exc fALIGN (BitVec.ofNat 64 stride))
          else if opn == 1 && m % 8 != 0 then .trap s (exc fALIGN (BitVec.ofNat 64 m))
          else if scr && decide ((d 0).toNat + (m - 1) * stride + rowLen > v.b.decl.scratch) then .trap s { exc fPERM (d 0) with write := true }
          else matIssue s v (.mdrn (d 0) stride m fmt (bitsOf (d 2) 4 2) (bitsOf (d 2) 6 1 == 1) opn scr scope row0) true id) s

/-- MCLR (R136, R411). -/
def execMclr (e : Bool) (r c : BitVec 8) (s : State) : Host.Outcome State Fault Refusal :=
  matWord (.opMclr e r c) (fun _ => none) (matSrcOk r && matSrcOk c) [r, c]
    (fun s v ws =>
      let row := ws.getD 0 0
      let count := ws.getD 1 0
      if count == 0 then .trap s (exc fILLOP)
      else if row.toNat + count.toNat > v.b.decl.acc then .trap s (exc fACCWIN row)
      else matIssue s v (.mclr row.toNat count.toNat) false id) s

/-- MWIN (R137, R424). -/
def execMwin (e : Bool) (g b l : BitVec 8) (s : State) : Host.Outcome State Fault Refusal :=
  matWord (.opMwin e g b l) (fun _ => none) (matSrcOk g && matSrcOk b && matSrcOk l) [g, b, l]
    (fun s v ws =>
      let grp := (ws.getD 0 0).toNat
      let base := (ws.getD 1 0).toNat
      let lim := (ws.getD 2 0).toNat
      if decide (grp ≥ v.b.groups.length) || decide (base > lim) then .trap s (exc fILLOP)
      else if lim > v.b.decl.acc then .trap s (exc fACCWIN (ws.getD 2 0))
      else .done (s.modGroup v.p.blk grp (fun x => Group.mark { x with abase := base, alim := lim } 0)) .invalid) s

/-- R75, R133: the batch number after one. -/
def nextBatch (n : W32) : W32 := if n == 0xFFFFFFFF#32 then 1 else n + 1

/-- MFENCE (R133, R415). -/
def execMfence (e : Bool) (d : BitVec 8) (s : State) : Host.Outcome State Fault Refusal :=
  matWord (.opMfence e d) (fun _ => none) (decide (d.toNat < 64)) []
    (fun s v _ =>
      let n := v.b.bell.mbatch
      let s := s.clearPoison (fun l => l == .wreg v.p.blk d.toNat)
      .done (s.modBlock v.p.blk (fun b => { b with
        bell := { b.bell with mbatch := nextBatch n }.setW d.toNat (zx n)
        mops := b.mops.map (fun o => if o.batch.isNone then { o with batch := some n } else o) })) .invalid) s

/-- The distance from one batch number forward to another in the cycle 1 to 0xFFFF_FFFF. -/
def batchDist (a b : W32) : Nat := (b.toNat + (2 ^ 32 - 1) - a.toNat) % (2 ^ 32 - 1)

/-- R134: whether a closed batch has retired. -/
def batchDone (b : Block) (n : W32) : Bool := decide (batchDist n b.bell.mbatch > batchDist b.retired b.bell.mbatch)

/-- MWAITB (R134, R423). -/
def execMwaitb (e : Bool) (n : BitVec 8) (s : State) : Host.Outcome State Fault Refusal :=
  matWord (.opMwaitb e n) (fun _ => none) (matSrcOk n) [n]
    (fun s v ws =>
      let x := ws.getD 0 0
      let k := lo32 x
      if bitsOf x 32 32 != 0 || k == 0 || decide (batchDist v.b.bell.mbatch k < 2 ^ 31) then .trap s (exc fILLOP)
      else if batchDone v.b k then .done s .invalid
      else .wait s (.batch k.toNat)) s

/-! ## What the engine may start (R123, R128, R131, R135) -/

/-- The operations of a block issued before one. -/
def earlierOps (b : Block) (id : Nat) : List MOp := b.mops.takeWhile (fun o => o.id != id)

/-- R132, R243: an open operation of a running block that has not failed, and has started already or is behind no failed one. -/
def engLive (s : State) (blk id : Nat) : Option (Block × MOp) :=
  match s.block? blk with
  | none => none
  | some b =>
    match s.ctxs[b.ctx]?, b.mops.find? (fun o => o.id == id) with
    | some c, some o =>
      if b.stat == .resident && c.state == .running && !o.performed && !o.failed && (o.entered || !(earlierOps b id).any MOp.failed) then some (b, o)
      else none
    | _, _ => none

/-- R80, R260: an operation the engine may go on with: one that waits on no page request either, of a block whose banks are reloaded. -/
def engOp (s : State) (blk id : Nat) : Option (Block × MOp) := (engLive s blk id).filter (fun x => x.2.req.isNone && x.1.reload.isEmpty)

/-- R138: whether an LDACC or STACC that stalled before an operation issued has still to access a row. -/
def accAhead (b : Block) (id row : Nat) : Bool :=
  b.groups.any (fun g => !g.retired && [g.path0, g.path1].any (fun p => !p.ctl.ended &&
    (match p.ctl.acc with | some (r, k) => r == row && decide (k ≤ id) | none => false)))

/-- R135, R138: rows of an operation with which every earlier operation of its block, and every group access issued before it, has
finished. -/
def rowsFree (b : Block) (id row n : Nat) : Bool :=
  (List.range n).all (fun k => !(earlierOps b id).any (fun o => o.busyRow (row + k)) && !accAhead b id (row + k))

/-- R132, R135: whether an operation has to wait for one that waits on a page request. -/
def behindPage (b : Block) (id : Nat) : Bool :=
  b.mops.any (fun x => x.req.isSome && (followers b.mops x.id).any (fun o => o.id == id))

/-- R135: the streams of a core that may enter its array, or are in it: block, operation, place. -/
def coreStreams (s : State) (core : Nat) : List (Nat × MOp) :=
  ((s.blocks.zipIdx).map (fun (x : Block × Nat) =>
    if x.1.core == core && x.1.stat == .resident then
      (x.1.mops.filter (fun o => o.isMstr && (engOp s x.2 o.id).isSome && (o.entered || !behindPage x.1 o.id))).map (fun o => (x.2, o))
    else [])).flatten

/-- R123, R135: the stream in the array, or the one to enter it: the one whose place is first. -/
def headStream (s : State) (core : Nat) : Option (Nat × MOp) :=
  let l := coreStreams s core
  (if l.any (fun x => x.2.entered) then l.filter (fun x => x.2.entered) else l).foldl (fun (h : Option (Nat × MOp)) x =>
    match h with
    | none => some x
    | some y => if x.2.seq < y.2.seq then some x else some y) none

/-- R128: a WLD whose tile the bank may take: its block has no earlier use of the bank, and no other block's stream is running
through it. -/
def wldReady (s : State) (blk : Nat) (b : Block) (o : MOp) (bank : Bool) : Bool :=
  !(earlierOps b o.id).any (fun x => x.busyBank bank) &&
    match headStream s b.core with
    | some (k, x) => !(k != blk && x.busyBank bank && x.entered)
    | none => true

/-- R123, R135: a stream that may act on its next row when its bank holds its block's tile. -/
def mstrReady (s : State) (blk : Nat) (b : Block) (o : MOp) (bank : Bool) (row : Nat) : Bool :=
  (headStream s b.core).map (fun x => (x.1, x.2.id)) == some (blk, o.id) &&
    !(earlierOps b o.id).any (fun x => x.isWld && x.busyBank bank) && rowsFree b o.id row 1

/-! ## Engine traffic (R92, R132, R144) -/

/-- What stops an access of the engine: a page request, a fault, or a line or miss-status entry that it must wait for. -/
inductive EngStop where
  | page (req : Nat)
  | fault (code : Nat) (va : W64) (write : Bool) (stage2 : Bool := false)
  | hold
  deriving DecidableEq, Repr

/-- R132, R215 to R222, R309: a translation of traffic of an engine; `ap`: the aperture is allowed, as for a copy. -/
def engXlate (s : State) (b : Block) (outs : List PageOutcome) (va : W64) (acc : Acc) (ap : Bool := false) : Except (State × EngStop) (State × Leaf) :=
  match s.ctxs[b.ctx]? with
  | none => .error (s, .hold)
  | some c =>
    let wr := acc == .write
    if inRegion c va.toNat then .error (s, .hold)
    else
      match xlate s (.engine b.core) c va acc true with
      | .error (s, .hold _) => .error (s, .hold)
      | .ok (s, l) =>
        if (region s l.pa == .aperture && !ap) || region s l.pa == .devregs then .error (s, .fault fPERM va wr) else .ok (s, l)
      | .error (s, .fault code st2) => .error (s, .fault code va wr st2)
      | .error (s, .need st2 page w absent) =>
        match needCode outs st2 page w absent with
        | some code => .error (s, .fault code va w st2)
        | none =>
          match pageRequest s c.fn c.pasid st2 page w with
          | (s, some id) => .error (s, .page id)
          | (s, none) => .error (s, .fault fXLATE va w st2)

/-- R92: a line that engine traffic reads: one that has missed in its home slice takes a miss-status entry while its data come, and a
rejected request is made again. `who`: the requester, with the unit of its work. -/
def engMiss (s : State) (core : Nat) (who : Option (MissWho × Nat)) (pa typ : Nat) : Except (State × EngStop) State :=
  if !farLine s pa typ then .ok s
  else
    match who with
    | none => .ok (s.fillSlice (lineOf pa))
    | some (w, unit) =>
      if filled s core w (lineOf pa) unit then .ok (s.fillSlice (lineOf pa))
      else
        match missClaim s core w true 0 with
        | (s, true) => .error (fillAsk s core w (lineOf pa) unit, .hold)
        | (s, false) => .error (s, .hold)

/-- R306: what awaits an answer of the fabric that an engine's read needs. -/
def engWho : Option (MissWho × Nat) → FabWho
  | some (.mop blk id, _) => .mop blk id
  | some (.copy blk idx, _) => .copy blk idx
  | some (.party p, _) => .party p
  | none => .other

/-- R92, R144: bytes that the engine reads through L2, and whether some are poisoned. -/
def engRead (s : State) (b : Block) (who : Option (MissWho × Nat)) (outs : List PageOutcome) (va : W64) (n : Nat) :
    Except (State × EngStop) (State × List Byte × Bool) :=
  (linePieces va.toNat n).foldl (fun (r : Except (State × EngStop) (State × List Byte × Bool)) (p : Nat × Nat) =>
    match r with
    | .error x => .error x
    | .ok (s, bs, bad) =>
      match engXlate s b outs (BitVec.ofNat 64 p.1) .read with
      | .error x => .error x
      | .ok (s, l) =>
        match lineReady s (causeOf s b.ctx (engWho who)) l.pa p.2 l.typ .read with
        | (s, .wait _) => .error (s, .hold)
        | (s, .err c) => .error (s, .fault c (BitVec.ofNat 64 p.1) false)
        | (s, .go) =>
          match engMiss s b.core who l.pa l.typ with
          | .error x => .error x
          | .ok s => .ok (s, bs ++ shadowOver b.pair l.pa (ownRead s l.pa p.2), bad || physPoison s l.pa p.2 || shadowBad b.pair l.pa p.2))
    (.ok (s, [], false))

/-- R132: an operation failed: it stays at its restart point, and the bellwether has a deferred fault. -/
def engFail (s : State) (blk id code : Nat) (va : W64) (write : Bool) (stage2 : Bool := false) : State :=
  s.modBlock blk (fun b =>
    match b.mops.find? (fun o => o.id == id) with
    | none => b
    | some o => { b with
        mops := b.mops.map (fun o => if o.id == id then { o with failed := true, entered := false, outcomes := [] } else o)
        engFault := match b.engFault with
          | some f => some f
          | none => some { op := id, code := code, addr := va, write := write, stage2 := stage2, slot := o.slot.getD 0 } })

/-- R131, R132: an operation stopped at its restart point. -/
def engStop (s : State) (blk id : Nat) (x : EngStop) : State :=
  match x with
  | .page r => modMop s blk id (fun o => { o with req := some r, entered := false })
  | .fault code va write st2 => engFail s blk id code va write st2
  | .hold => s

/-- R133, R143: an operation complete: it is open no longer, and its RPROG slot is free. -/
def dropMop (s : State) (blk id : Nat) : State :=
  s.modBlock blk (fun b => { b with mops := b.mops.filter (fun o => o.id != id) })

/-- R76: the progress of an operation, in its slot too. -/
def setProg (s : State) (blk : Nat) (o : MOp) (n : Nat) : State :=
  let s := modMop s blk o.id (fun o => { o with prog := n })
  match o.slot with
  | some j => s.modBell blk (fun b => { b with rprog := if h : j < 4 then b.rprog.set j (BitVec.ofNat 32 n) else b.rprog })
  | none => s

/-! ## Tiles (R123, R125, R128) -/

/-- R125: the columns of a tile or their scales read; `fuel` columns from `c` on. -/
def readCols (b : Block) (who : MissWho × Nat) (outs : List PageOutcome) (base : W64) (stride n : Nat) :
    Nat → Nat → State → Except (State × EngStop) (State × List (List Byte) × Bool)
  | 0, _, s => .ok (s, [], false)
  | fuel + 1, c, s =>
    match engRead s b (some who) outs (base + BitVec.ofNat 64 (c * stride)) n with
    | .error x => .error x
    | .ok (s, bs, bad) =>
      match readCols b who outs base stride n fuel (c + 1) s with
      | .error x => .error x
      | .ok (s, l, bad') => .ok (s, bs :: l, bad || bad')

/-- R125, R128: a tile with its scales, as a bank holds it. -/
def readTile (s : State) (blk op unit : Nat) (b : Block) (outs : List PageOutcome) (d : BankDesc) : Except (State × EngStop) (State × Bank) :=
  match readCols b (.mop blk op, unit) outs d.addr d.cstride 384 128 0 s with
  | .error x => .error x
  | .ok (s, cols, bad) =>
    if blockFmt d.fmt then
      match readCols b (.mop blk op, unit) outs d.sptr d.sstride (scaleBytes d.fmt) 128 0 s with
      | .error x => .error x
      | .ok (s, scs, bad') => .ok (s, { blk := blk, fmt := d.fmt, cols := cols, scales := scs, poison := bad || bad' })
    else .ok (s, { blk := blk, fmt := d.fmt, cols := cols, scales := [], poison := bad })

/-- A core's bank replaced. -/
def setBank (s : State) (core : Nat) (bank : Bool) (k : Bank) : State :=
  s.modCore core (fun c => { c with banks := c.banks.set (if bank then 1 else 0) (some k) (by split <;> decide) })
/-- A core's bank. -/
def bankOf (s : State) (core : Nat) (bank : Bool) : Option Bank :=
  match s.cores[core]? with
  | some c => c.banks.toList.getD (if bank then 1 else 0) none
  | none => none

/-- TILE_LOADED (R128): a WLD's tile read; the bank takes it, and the descriptor is kept for replay. -/
def execTileLoaded (blk op : Nat) (s : State) : Host.Outcome State Fault Refusal :=
  .next (match engOp s blk op with
  | none => s
  | some (b, o) =>
    match o.kind with
    | .wld bank addr cs ss fmt sptr =>
      if !wldReady s blk b o bank then s
      else
        let d : BankDesc := { addr := addr, cstride := cs, sstride := ss, fmt := fmt, sptr := sptr }
        match readTile s blk op o.prog b o.outcomes d with
        | .error (s, x) => engStop s blk op x
        | .ok (s, k) =>
          let s := (setBank s b.core bank k).modBlock blk (fun b => { b with
            bankDesc := b.bankDesc.set (if bank then 1 else 0) (some d) (by split <;> decide) })
          dropMop s blk op
    | _ => s)

/-- R80, R260: a bank of a block that has come back reloaded; one that cannot be read is left to the stream that needs it (R123;
notes/assumptions 110). -/
def bankBack (s : State) (blk op : Nat) (b : Block) (x : BankLoad) : State :=
  let drop (s : State) : State := s.modBlock blk (fun b => { b with reload := b.reload.drop 1 })
  match b.bankDesc.toList.getD (if x.bank then 1 else 0) none with
  | none => drop s
  | some d =>
    match readTile s blk op 0 b x.outcomes d with
    | .error (s, .hold) => s
    | .error (s, .page r) => s.modBlock blk (fun b => { b with reload := { x with req := some r } :: b.reload.drop 1 })
    | .error (s, .fault _ _ _ _) => drop s
    | .ok (s, k) => drop (setBank s b.core x.bank k)

/-- BANK_RELOAD (R80, R123): a block that has come back reloads its banks; after that, the stream that is to enter the array finds another
block's tile in its bank, and its block's last descriptor is replayed. -/
def execBankReload (blk op : Nat) (s : State) : Host.Outcome State Fault Refusal :=
  .next (match (s.block? blk).bind (fun b => b.reload.head?.map (fun x => (b, x))) with
  | some (b, x) => if blockRuns s b && x.req.isNone then bankBack s blk op b x else s
  | none =>
  match engOp s blk op with
  | none => s
  | some (b, o) =>
    match o.kind with
    | .mstr bank _ _ _ _ _ row0 _ =>
      if !mstrReady s blk b o bank (row0 + o.prog) || (bankOf s b.core bank).map Bank.blk == some blk then s
      else
        match b.bankDesc.toList.getD (if bank then 1 else 0) none with
        | none => s
        | some d =>
          match readTile s blk op o.prog b o.outcomes d with
          | .error (s, x) => engStop s blk op x
          | .ok (s, k) => modMop (setBank s b.core bank k) blk op (fun o => { o with entered := true })
    | _ => s)

/-! ## Rows (R117 to R119, R130, R131) -/

/-- R105, R108, R125: the elements of a column or row as exact values. -/
def decodeElts (fmt : Nat) (bs scales : List Byte) : List FV :=
  if blockFmt fmt then
    ((bs.zipIdx).map (fun (x : Byte × Nat) =>
      let j := x.2 / 16
      let h := if fmt == 14 then (scales.getD j 0).toNat else leNat ((scales.drop (2 * j)).take 2)
      let dec (c : Nat) : FV := match blkVal c h (fmt == 15) with | .inl _ => .nan | .inr v => v
      [dec (x.1.toNat % 16), dec (x.1.toNat / 16)])).flatten
  else if fmt == 12 || fmt == 13 then bs.map (fun b => valF (if fmt == 12 then fmt8a else fmt8b) b.toNat)
  else
    let f := if fmt == 1 then fmt16 else fmtB
    (List.range (bs.length / 2)).map (fun k => valF f (leNat ((bs.drop (2 * k)).take 2)))

/-- R117: the exact sum of products; -0 only when every product is -0. -/
def peSum (l : List FV) : FV := l.foldl (addV 0) (.fin true 0 0)

/-- R117: `rne32` of an exact value. -/
def rne32 (x : FV) : Nat := packF fmt32 rmRne x

/-- R117, R130: `part` after `n` processing elements of `g` products each. -/
def partSum (g : Nat) : Nat → List FV → Nat → Nat
  | 0, _, p => p
  | n + 1, l, p => partSum g n (l.drop g) (rne32 (addV 0 (valF fmt32 p) (peSum (l.take g))))

/-- R117, R118: an accumulator element after a row: `old + part`. -/
def rowElt (g : Nat) (as ws : List FV) (old : Nat) : Nat :=
  rne32 (addV 0 (valF fmt32 old) (valF fmt32 (partSum g 192 (List.zipWith mulV as ws) 0)))

/-- R119: an element after an INT8 row. -/
def rowEltI (as ws : List Byte) (old : Nat) : Nat :=
  ((List.zipWith (fun (a w : Byte) => a.toInt * w.toInt) as ws).foldl (· + ·) (old : Int) % 2 ^ 32).toNat

/-- R130: the 128 elements of a row. -/
def rowElts (b : Block) (blk row : Nat) (k : Bank) (fmt : Nat) (fresh : Bool) (as scales : List Byte) : List Nat :=
  let old (c : Nat) : Nat := if fresh then 0 else (accGet b blk row c).toNat
  if fmt == 10 then (k.cols.zipIdx).map (fun (x : List Byte × Nat) => rowEltI as x.1 (old x.2))
  else
    let g := (pairing k.fmt fmt).getD 1
    let av := decodeElts fmt as scales
    (k.cols.zipIdx).map (fun (x : List Byte × Nat) => rowElt g av (decodeElts k.fmt x.1 (k.scales.getD x.2 [])) (old x.2))

/-- R130, R234: a row written; poisoned input poisons all of it, and a poisoned element that is added to stays poisoned. -/
def putRow (s : State) (blk row : Nat) (xs : List Nat) (bad fresh : Bool) : State :=
  let s := (xs.zipIdx).foldl (fun s (x : Nat × Nat) => accSet s blk row x.2 (BitVec.ofNat 32 x.1)) s
  if bad then (List.range 128).foldl (fun s k => s.addPoison (.acc blk (row * 128 + k))) s
  else if fresh then accClear s blk row else s

/-- STREAM_ROW (R130, R131): the next row of the stream in the array; the stream retires after its last. -/
def execStreamRow (blk op : Nat) (s : State) : Host.Outcome State Fault Refusal :=
  .next (match engOp s blk op with
  | none => s
  | some (b, o) =>
    match o.kind with
    | .mstr bank addr stride m fmt sptr row0 fresh =>
      let row := row0 + o.prog
      if !mstrReady s blk b o bank row then s
      else if itemHeld s blk (.acc blk (row / 8)) then noteItem s blk (.acc blk (row / 8))
      else
        match bankOf s b.core bank with
        | none => s
        | some k =>
          if k.blk != blk then s
          else
            match engRead s b (some (.mop blk op, o.prog)) o.outcomes (addr + BitVec.ofNat 64 (o.prog * stride)) (rowBytes k.fmt fmt) with
            | .error (s, x) => engStop s blk op x
            | .ok (s, as, bad) =>
              match (if blockFmt fmt then engRead s b (some (.mop blk op, o.prog)) o.outcomes (sptr + BitVec.ofNat 64 (o.prog * scaleBytes fmt)) (scaleBytes fmt)
                  else .ok (s, [], false)) with
              | .error (s, x) => engStop s blk op x
              | .ok (s, scs, bad') =>
                let s := putRow s blk row (rowElts b blk row k fmt fresh as scs) (bad || bad' || k.poison) fresh
                let s := modMop s blk op (fun o => { o with outcomes := [], entered := true })
                let s := setProg s blk o (o.prog + 1)
                if o.prog + 1 ≥ m then dropMop s blk op else s
    | _ => s)

/-! ## Drains (R140 to R143, R413) -/

/-- R140: an accumulator element as the bytes that an overwrite stores. -/
def drainBytes (fmt rnd : Nat) (sat : Bool) (x : W32) : List Byte :=
  let rm : Rm := { rnd := rnd, sat := sat, ftz := false, nanp := false }
  if fmt == 4 then leBytes 4 x.toNat
  else if fmt == 0 then leBytes 4 (packF fmt32 rm (valF fmt32 x.toNat))
  else leBytes (drainSize fmt) (cvtE .f32 (tyOf fmt) rm x.toNat)

/-- A row of a drain: its bytes, and which of its elements are poisoned. -/
def drainRow (s : State) (b : Block) (blk row fmt rnd : Nat) (sat : Bool) : List Byte × List Bool :=
  (((List.range 128).map (fun c => drainBytes fmt rnd sat (accGet b blk row c))).flatten,
    (List.range 128).map (fun c => s.poisoned (.acc blk (row * 128 + c))))

/-- The 128-byte pieces of a row's bytes: offset in the row, bytes. -/
def rowPieces (bs : List Byte) : List (Nat × List Byte) :=
  (List.range (bs.length / 128)).map (fun k => (128 * k, (bs.drop (128 * k)).take 128))

/-- R141, R413: the targets of a tile's global lines, in ascending order; all are translated before any is written. -/
def drainLeaves (b : Block) (outs : List PageOutcome) : List W64 → State → Except (State × EngStop) (State × List Leaf)
  | [], s => .ok (s, [])
  | va :: rest, s =>
    match engXlate s b outs va .write with
    | .error x => .error x
    | .ok (s, l) =>
      match drainLeaves b outs rest s with
      | .error x => .error x
      | .ok (s, ls) => .ok (s, l :: ls)

/-- R172: the GWCT at a scope of a plain write performed now. -/
def gAt (s : State) (pa scope : Nat) : Nat := if scope ≤ 3 then gPkg s pa else gFull s pa

/-- R186, R187: a plain write of the engine or the Mule at its owner; to a non-coherent page it goes out at once. -/
def engWrite (s : State) (ci : Nat) (l : Leaf) (bs : List Byte) : State :=
  if l.typ == 2 then sendHost (hostPut s l.pa bs) ci l.pa bs false
  else ownWrite s l.pa bs l.typ none

/-- R234: the words of elements that are poisoned marked where they were written. -/
def poisonElts (s : State) (pa size : Nat) (bad : List Bool) : State :=
  (bad.zipIdx).foldl (fun s (x : Bool × Nat) => if x.1 then physPoisonWrite s (pa + size * x.2) size else s) s

/-- The elements of a line, of the elements of a row. -/
def lineElts (bad : List Bool) (off size : Nat) : List Bool := (bad.drop (off / size)).take (128 / size)

/-- Whether a use of each of a tile's lines is possible now. -/
def linesReady (c : Cause) (u : Use) : List Leaf → State → State × LineAns
  | [], s => (s, .go)
  | l :: rest, s =>
    match lineReady s c l.pa 128 l.typ u with
    | (s, .go) => linesReady c u rest s
    | r => r

/-- R141, R173: a hold of an add-on-store on a line of a tile some of whose leases or shares have not ended. -/
def drainHold (s : State) (blk op : Nat) (pa : Nat) : State :=
  let line := lineOf pa
  if s.mem.held.any (fun h => h.line == line && h.op == op && h.lanes.isEmpty) then s
  else holdWrite s { party := { blk := blk, who := .bell }, op := op, line := line, lanes := [], dst := .none, words := 0, acks := [], seq := 0, obj := false, far := none }

/-- R141, R173, R200: whether an update of the engine may be performed on a line now: nothing that arrived there before it waits, and
nothing shares the line. -/
def drainFirst (s : State) (op pa : Nat) : Bool :=
  (match s.mem.held.find? (fun h => h.line == lineOf pa && h.op == op && h.lanes.isEmpty) with
    | some h => lineFirst s (lineOf pa) h.seq
    | none => !heldOn s (lineOf pa) && !queuedOn s (lineOf pa)) && syncReady s pa

/-- R265: a paired copy's tile held as shadow lines or addends; none when they are too many. -/
def drainShadow (pr : Pair) (opn rnd : Nat) (sat : Bool) (size : Nat) : List (Nat × List Byte × List Bool) → Option Pair
  | [] => some pr
  | (pa, bs, bad) :: rest =>
    let put : Option Pair :=
      if opn == 1 then
        (List.range 32).foldl (fun (r : Option Pair) k =>
          r.bind (fun p => shadowAdd p (pa + 4 * k) (BitVec.ofNat 32 (leNat ((bs.drop (4 * k)).take 4))) rnd sat)) (some pr)
      else shadowPut pr pa bs
    match put with
    | none => none
    | some p =>
      match (bad.zipIdx).foldl (fun (r : Option Pair) (x : Bool × Nat) =>
          if x.1 then r.bind (fun p => shadowPoison p (pa + size * x.2) size) else r) (some p) with
      | none => none
      | some p => drainShadow p opn rnd sat size rest

/-- R141: one line of an add-on-store tile: each element is rnd(f32, old + acc) at its home. -/
def addLine (old bs : List Byte) (rnd : Nat) (sat : Bool) : List Byte :=
  ((List.range 32).map (fun k => leBytes 4 (addOnStore (leNat ((old.drop (4 * k)).take 4)) (leNat ((bs.drop (4 * k)).take 4)) rnd sat))).flatten

/-- R143: a tile complete: RPROG advances; a drain whose last tile is complete waits for its times. -/
def tileDone (s : State) (blk : Nat) (o : MOp) (n m g : Nat) : State :=
  let s := modMop s blk o.id (fun o => { o with outcomes := [], g := max o.g g, performed := decide (o.prog + n ≥ m) })
  setProg s blk o (o.prog + n)

/-- R140, R141, R413: a tile written to the block's scratchpad. -/
def drainScratch (s : State) (blk : Nat) (b : Block) (o : MOp) (n m opn rnd : Nat) (sat : Bool) (size : Nat)
    (lines : List (W64 × List Byte × List Bool)) : State :=
  match lines.find? (fun x => ownBarred s b (x.1.toNat / 128)) with
  | some x => engFail s blk o.id fWINCONF x.1 true
  | none =>
    if lines.any (fun x => itemHeld s blk (.scratch blk (x.1.toNat / 128))) then
      noteItems s blk (lines.map (fun x => .scratch blk (x.1.toNat / 128)))
    else
      let s := lines.foldl (fun s (x : W64 × List Byte × List Bool) =>
        let off := x.1.toNat
        let bs := if opn == 1 then addLine (scratchRead s blk off 128) x.2.1 rnd sat else x.2.1
        let was := (List.range (128 / size)).map (fun k => opn == 1 && scratchPoison s blk (off + size * k) size)
        let s := scratchWrite s blk off bs
        (((x.2.2.zip was).map (fun y => y.1 || y.2)).zipIdx).foldl (fun s (y : Bool × Nat) =>
          if y.1 then scratchPoisonWrite s blk (off + size * y.2) size else s) s) s
      tileDone s blk o n m s.ft

/-- R142, R189, R299, R443: a tile update that the owner of a line cannot perform: an add-on-store in a software-managed region or, of
a non-coherent mapping, at a host completer (notes/assumptions 90), and a Herd update there or in the host window. -/
def drainUnsupported (s : State) (opn : Nat) (l : Leaf) : Bool :=
  (opn != 0 && l.typ != 0) || (opn == 2 && region s l.pa == .host)

/-- R140 to R142, R172, R413: a tile written to global memory, its lines translated (notes/assumptions 90 for a non-coherent mapping). -/
def drainGlobal (s : State) (blk : Nat) (b : Block) (o : MOp) (n m opn rnd : Nat) (sat : Bool) (size scope : Nat)
    (lines : List (W64 × List Byte × List Bool)) (leaves : List Leaf) : State :=
  match b.pair with
  | some pr =>
    match drainShadow pr opn rnd sat size ((leaves.zip lines).map (fun x => (x.1.pa, x.2.2))) with
    | none => engFail s blk o.id fPERM (match lines with | x :: _ => x.1 | [] => 0) true
    | some p => tileDone (s.modBlock blk (fun b => { b with pair := some (leaves.foldl (fun p l => p.typed l.pa l.typ) p) })) blk o n m s.ft
  | none =>
    match (leaves.zip lines).find? (fun x => drainUnsupported s opn x.1) with
    | some x => engFail s blk o.id fATOMUNS x.2.1 true
    | none =>
      match linesReady (causeOf s b.ctx (.mop blk o.id)) (match opn with | 0 => .write | 1 => .sync | _ => .herd 3) leaves s with
      | (s, .wait _) => s
      | (s, .err c) => engFail s blk o.id c (match lines with | x :: _ => x.1 | [] => 0) true
      | (s, .go) =>
        if opn == 1 && !leaves.all (fun l => drainFirst s o.id l.pa) then
          leaves.foldl (fun s l => drainHold s blk o.id l.pa) s
        else
          let r := (leaves.zip lines).foldl (fun (r : State × Nat) (x : Leaf × W64 × List Byte × List Bool) =>
            let s := r.1
            let pa := x.1.pa
            match opn with
            | 0 => (poisonElts (engWrite s b.ctx x.1 x.2.2.1) pa size x.2.2.2, max r.2 (gAt s pa scope))
            | 1 =>
              let was := (List.range 32).map (fun k => physPoison s (pa + 4 * k) 4)
              (poisonElts (engWrite s b.ctx x.1 (addLine (ownRead s pa 128) x.2.2.1 rnd sat)) pa 4
                ((x.2.2.2.zip was).map (fun y => y.1 || y.2)), max r.2 s.ft)
            | _ =>
              let s := herdCombine s (lineOf pa) 3 b.core x.2.2.1
              (if x.2.2.2.any id then s.addPoison (.herd (lineOf pa) b.core) else s, max r.2 s.ft)) (s, 0)
          let s := r.1.modMem (fun m => { m with held := m.held.filter (fun h => !(h.op == o.id && h.lanes.isEmpty)) })
          let s := modMop (noteLines s blk (leaves.map Leaf.pa)) blk o.id (fun o => { o with lines := leaves.map (fun l => lineOf l.pa) ++ o.lines })
          tileDone s blk o n m r.2

/-- DRAIN_TILE (R141, R413, R414): the next tile of 8 rows written, whole or not at all. -/
def execDrainTile (blk op : Nat) (s : State) : Host.Outcome State Fault Refusal :=
  .next (match engOp s blk op with
  | none => s
  | some (b, o) =>
    match o.kind with
    | .mdrn addr stride m fmt rnd sat opn scr scope row0 =>
      let n := min 8 (m - o.prog)
      if !rowsFree b op (row0 + o.prog) n then s
      else
        let size := drainSize fmt
        let f := if opn == 0 then fmt else 4
        let lines : List (W64 × List Byte × List Bool) := ((List.range n).map (fun k =>
          let r := drainRow s b blk (row0 + o.prog + k) f rnd sat
          (rowPieces r.1).map (fun p => (addr + BitVec.ofNat 64 ((o.prog + k) * stride + p.1), p.2, lineElts r.2 p.1 size)))).flatten
        if scr then drainScratch s blk b o n m opn rnd sat size lines
        else
          match drainLeaves b o.outcomes (lines.map Prod.fst) s with
          | .error (s, x) => engStop s blk op x
          | .ok (s, leaves) => drainGlobal s blk b o n m opn rnd sat size scope lines leaves
    | _ => s)

/-! ## Batches (R133, R134) -/

/-- R136, R411: an MCLR whose rows are free clears them. -/
def clearRows (s : State) (blk : Nat) (row n : Nat) : State :=
  (List.range n).foldl (fun s k => accClear ((List.range 128).foldl (fun s c => accSet s blk (row + k) c 0) s) blk (row + k)) s

/-- R248: the row groups of rows. -/
def rowItems (blk row n : Nat) : List Item :=
  ((List.range (row / 8 + n / 8 + 2)).filter (fun k => decide (row / 8 ≤ k) && decide (8 * k < row + n))).map (fun k => .acc blk k)

/-- R136, R135: whether an MCLR's rows are free. -/
def mclrFree (s : State) (blk : Nat) (b : Block) (o : MOp) : Bool :=
  match o.kind with
  | .mclr row n => (engOp s blk o.id).isSome && rowsFree b o.id row n
  | _ => false

/-- R136, R135, R252: whether an MCLR may be performed now. -/
def mclrReady (s : State) (blk : Nat) (b : Block) (o : MOp) : Bool :=
  match o.kind with
  | .mclr row n => mclrFree s blk b o && !(rowItems blk row n).any (itemHeld s blk)
  | _ => false

/-- R143, R172, R199: a drain that has performed its last tile and whose times have passed, at a scope beyond the package those of the
fabric too. -/
def mopPassed (s : State) (o : MOp) : Bool :=
  o.performed && decide (o.g < s.ft) &&
    (match o.kind with | .mdrn _ _ _ _ _ _ _ _ scope _ => decide (scope ≤ 3) || linesPassed s o.lines | _ => true)

/-- R134: the batches of a block that may retire from the oldest on. `fuel` bounds how many. -/
def retireBatches (b : Block) : Nat → Block
  | 0 => b
  | fuel + 1 =>
    if b.retired == b.bell.mbatch || b.mops.any (fun o => o.batch == some b.retired) then b
    else retireBatches { b with retired := nextBatch b.retired } fuel

/-- BATCH_RETIRE (R134, R136, R143): MCLRs whose rows are free are performed, drains whose times have passed complete, and batches
whose operations are complete retire, in order. -/
def execBatchRetire (blk : Nat) (s : State) : Host.Outcome State Fault Refusal :=
  .next (match s.block? blk with
  | none => s
  | some b0 =>
    let s := (b0.mops.map MOp.id).foldl (fun s id =>
      match s.block? blk with
      | none => s
      | some b =>
        match b.mops.find? (fun o => o.id == id) with
        | none => s
        | some o =>
          if mclrReady s blk b o then
            (match o.kind with | .mclr row n => dropMop (clearRows s blk row n) blk id | _ => s)
          else if mopPassed s o then dropMop s blk id
          else
            match o.kind with
            | .mclr row n => if mclrFree s blk b o then noteItems s blk (rowItems blk row n) else s
            | _ => s) s
    s.modBlock blk (fun b => retireBatches b 64))

/-- ENGINE_FAULT (R132, R414): a refused request on engine traffic: the operation fails, and the bellwether has a deferred fault. -/
def execEngineFault (blk op code : Nat) (addr : W64) (write : Bool) (s : State) : Host.Outcome State Fault Refusal :=
  .next (match engLive s blk op with
  | none => s
  | some x =>
    let st2 := match x.2.req with | some r => s.mem.pageReqs.any (fun q => q.id == r && q.stage2) | none => false
    engFail (modMop s blk op (fun o => { o with req := none })) blk op code addr write st2)

end Sys2Proof.Machine
end

