-- ==== Sys2Proof/Machine/Copy.lean ====
section
/-! DEFINITION. Copies (R158 to R164, R376, R380 to R383): CPY, CPY2D, CPYW of OP 0x7F, and the Mule's own steps. -/

namespace Sys2Proof.Machine

open Sys2Proof

/-! ## Ring entries (R158, R159) -/

/-- R158: a ring entry as its four words. -/
structure CopyEntry where
  w0 : Nat
  w1 : Nat
  w2 : Nat
  w3 : Nat
  deriving DecidableEq, Repr

/-- R158: space of an end of a copy: 0 global, 1 own scratchpad, 2 peer scratchpad. -/
def endSpace (w : Nat) : Nat := w / 16 % 8
/-- R158: peer index of an end. -/
def endPeer (w : Nat) : Nat := w % 16
/-- R158, R215: the address of an end: bits 56:7, a global one sign-extended from bit 56. -/
def endAddr (w : Nat) : Nat :=
  let a := w % 2 ^ 57 / 128 * 128
  if endSpace w == 0 && w.testBit 56 then a + (2 ^ 64 - 2 ^ 57) else a
/-- R158: STR. -/
def CopyEntry.str (e : CopyEntry) : Nat := e.w3 / 2 ^ 24 % 2 ^ 16
/-- R158: rows of the copy. -/
def CopyEntry.rows (e : CopyEntry) : Nat := e.w3 / 2 ^ 12 % 2 ^ 12 + 1
/-- R158: lines of a row. -/
def CopyEntry.lines (e : CopyEntry) : Nat := e.w3 % 2 ^ 12 + 1
/-- R159: lines of the copy. -/
def CopyEntry.total (e : CopyEntry) : Nat := e.rows * e.lines
/-- R158: whether the destination is the strided side. -/
def CopyEntry.side (e : CopyEntry) : Bool := e.w2.testBit 1
/-- R158: INC. -/
def CopyEntry.inc (e : CopyEntry) : Nat := e.w2 / 2 ^ 57 % 128

/-- R159: the offset of line `p` on a side. -/
def CopyEntry.lineOff (e : CopyEntry) (strided : Bool) (p : Nat) : Nat :=
  if strided then 128 * (p / e.lines * e.str + p % e.lines) else 128 * p

/-- R159: the bytes that a side spans. -/
def CopyEntry.span (e : CopyEntry) (strided : Bool) : Nat := e.lineOff strided (e.total - 1) + 128

/-- R158, R159, R265: whether an entry of a block breaks a condition that completes it with STATUS ILLOP. -/
def CopyEntry.bad (e : CopyEntry) (b : Block) : Bool :=
  let ends := [e.w0, e.w1]
  let s := endAddr e.w0
  let d := endAddr e.w1
  ends.any (fun w => decide (endSpace w > 2) || (endSpace w != 2 && endPeer w != 0) || (endSpace w != 0 && w % 2 ^ 57 / 2 ^ 24 != 0)) ||
    e.w1 / 2 ^ 57 % 4 != 0 || e.w2.testBit 2 || (endSpace e.w0 == 2 && endSpace e.w1 == 2) ||
    (e.w1.testBit 63 && endSpace e.w1 == 0) || (e.w1.testBit 63 && decide (e.w1 / 2 ^ 59 % 16 ≥ b.bars.length)) ||
    (decide (e.str < e.lines) && decide (e.rows > 1)) || (b.pair.isSome && e.inc != 0 && !e.w2.testBit 0) ||
    (endSpace e.w0 == endSpace e.w1 && decide (s < d + e.span e.side) && decide (d < s + e.span (!e.side)))

/-- R158, R161: the entry that a slot of a block's ring holds. -/
def ringEntry (b : Block) (idx : Nat) : CopyEntry :=
  let w (k : Nat) : Nat := leNat (cellsRead b.scratch (32 * (idx % 64) + 8 * k) 8)
  { w0 := w 0, w1 := w 1, w2 := w 2, w3 := w 3 }

/-- The bytes of an entry. -/
def CopyEntry.bytes (e : CopyEntry) : List Byte := leBytes 8 e.w0 ++ leBytes 8 e.w1 ++ leBytes 8 e.w2 ++ leBytes 8 e.w3

/-! ## CPY, CPY2D, CPYW -/

/-- R376: a register base. -/
def cpyBase (v : View) (x : BitVec 8) : Bool := x.toNat % 4 == 0 && if v.isBell then decide (x.toNat < 64) else isS x

/-- R44, R380: one entry built, checked, written and published; `build` gives it from the sources, none for ILLOP. -/
def cpyWord (i : Instr) (x : BitVec 8) (n : Nat) (y : List (BitVec 8)) (build : List Nat → Option CopyEntry) (s : State) :
    Host.Outcome State Fault Refusal :=
  let srcs := (List.range n).map (fun k => x + BitVec.ofNat 8 k) ++ y
  wordExec i s (fun v => { streams := .ba, ok := cpyBase v x && y.all (sSrcOk v false), lats := y })
    (fun v =>
      match fetchOps s v (srcs.map (fun f => (f, 0))) none (fun _ _ => 0) with
      | .error a => a
      | .ok (t, w, fts) =>
        match build (fts.map (fun ft => (sval w ft).toNat)) with
        | none => .trap s (exc fILLOP)
        | some e =>
          if e.bad w.b then .trap s (exc fILLOP)
          else if w.b.tail != w.b.resv || decide (ringFree w.b = 0) then .wait s .ring
          else if counterFull s v.p .cc then .wait s (.counter 3)
          else
            let off := 32 * (w.b.resv.toNat % 64)
            if ownBarred t w.b (off / 128) then .trap s (xExc fWINCONF (BitVec.ofNat 64 off) true false)
            else if itemHeld t w.p.blk (.scratch w.p.blk (off / 128)) then
              .wait (noteItem s w.p.blk (.scratch w.p.blk (off / 128))) (.snatch off)
            else
              let t := scratchWrite t w.p.blk off e.bytes
              .done (publish (t.modBlock w.p.blk (fun b => { b with resv := b.resv + 1 })) w 1) .invalid)

/-- R381: the shape word of a line count. -/
def cpyShape (l : Nat) : Option Nat :=
  if 1 ≤ l ∧ l ≤ 4096 then some (l * 2 ^ 24 + (l - 1))
  else if l % 4096 = 0 ∧ 8192 ≤ l ∧ l ≤ 16777216 then some (4096 * 2 ^ 24 + (l / 4096 - 1) * 2 ^ 12 + 4095)
  else none

/-- CPY (R380, R381). -/
def execCpy (e : Bool) (x y : BitVec 8) (s : State) : Host.Outcome State Fault Refusal :=
  cpyWord (.opCpy e x y) x 3 [y]
    (fun ws => (cpyShape (ws.getD 3 0)).map (fun w3 => { w0 := ws.getD 0 0 % 2 ^ 57, w1 := ws.getD 1 0, w2 := ws.getD 2 0, w3 := w3 })) s

/-- CPY2D (R380, R382). -/
def execCpy2d (e : Bool) (x y : BitVec 8) (s : State) : Host.Outcome State Fault Refusal :=
  cpyWord (.opCpy2d e x y) x 3 [y]
    (fun ws => if ws.getD 3 0 / 2 ^ 40 != 0 then none
      else some { w0 := ws.getD 0 0 % 2 ^ 57, w1 := ws.getD 1 0, w2 := ws.getD 2 0, w3 := ws.getD 3 0 }) s

/-- CPYW (R380, R383). -/
def execCpyw (e : Bool) (x : BitVec 8) (s : State) : Host.Outcome State Fault Refusal :=
  cpyWord (.opCpyw e x) x 4 []
    (fun ws => if ws.getD 0 0 / 2 ^ 57 != 0 || ws.getD 3 0 / 2 ^ 40 != 0 then none
      else some { w0 := ws.getD 0 0, w1 := ws.getD 1 0, w2 := ws.getD 2 0, w3 := ws.getD 3 0 }) s

/-! ## The Mule (R162, R163) -/

/-- R162, R243: an entry of a running block that the Mule works on: one of the four oldest, not done, waiting on no request. -/
def muleEntry (s : State) (blk idx : Nat) : Option (Block × CopyWork) :=
  match s.block? blk with
  | none => none
  | some b =>
    match s.ctxs[b.ctx]?, (b.copies.take 4).find? (fun c => c.idx == idx) with
    | some c, some w => if b.stat == .resident && c.state == .running && !w.done && w.req.isNone then some (b, w) else none
    | _, _ => none

/-- One entry of a block's ring changed. -/
def modCopy (s : State) (blk idx : Nat) (f : CopyWork → CopyWork) : State :=
  s.modBlock blk (fun b => { b with copies := b.copies.map (fun c => if c.idx == idx then f c else c) })

/-- R163: an entry ended with a status. -/
def copyEnd (s : State) (blk idx status : Nat) : State :=
  modCopy s blk idx (fun c => { c with done := true, status := status, outcomes := [] })

/-- R162, R163: an entry stopped at PROG, which is written back to the ring, unless it stands there; `req`: the page request that it waits
on. -/
def copyPause (s : State) (blk idx : Nat) (req : Option Nat) : State :=
  match (s.block? blk).bind (fun b => (b.copies.find? (fun c => c.idx == idx)).map (fun c => (b, c))) with
  | none => s
  | some (b, c) =>
    let item : Item := .scratch blk (32 * (idx % 64) / 128)
    if ringProg b idx == c.prog then modCopy s blk idx (fun c => { c with req := req })
    else if itemHeld s blk item then noteItem s blk item
    else modCopy (putProg s blk c) blk idx (fun c => { c with req := req })

/-- R162, R163: an entry stopped, or ended by an error. -/
def copyStop (s : State) (blk idx : Nat) (x : EngStop) : State :=
  match x with
  | .page r => copyPause s blk idx (some r)
  | .fault code _ _ _ => copyEnd s blk idx code
  | .hold => copyPause s blk idx none

/-- The place of a line at one end: memory, or a scratchpad. -/
def copyTgt (s : State) (v : View) (outs : List PageOutcome) (w off : Nat) (write : Bool) : Except (State × EngStop) (State × Tgt) :=
  let a := endAddr w + off
  if endSpace w == 0 then
    match engXlate s v.b outs (BitVec.ofNat 64 a) (if write then .write else .read) true with
    | .error x => .error x
    | .ok (s, l) => .ok (s, .mem l (BitVec.ofNat 64 a))
  else if a ≥ 2 ^ 24 then .error (s, .fault fPERM (BitVec.ofNat 64 a) write)
  else
    match scratchTgt s v (if endSpace w == 2 then 2 ^ 28 + endPeer w * 2 ^ 24 + a else a) write with
    | .ok (.scr k o own) => .ok (s, .scr k o own)
    | .ok _ => .error (s, .fault fILLOP (BitVec.ofNat 64 a) write)
    | .error c => .error (s, .fault c (BitVec.ofNat 64 a) write)

/-- The 16 dwords of a line, of which a condition holds. -/
def lineWords (f : Nat → Bool) : List Nat := (List.range 16).filter f

/-- R92, R144, R234, R309: the 128 bytes of a source line, and which of its dwords are poisoned. -/
def copyRead (s : State) (v : View) (idx unit : Nat) (t : Tgt) : Except (State × EngStop) (State × List Byte × List Nat) :=
  match t with
  | .mem l va =>
    if region s l.pa == .aperture then
      if Config.apertureMapped l.pa then
        if Config.apertureFails s.fresh then .error ({ s with fresh := s.fresh + 1 }, .fault fPOISON va false)
        else .ok ({ s with fresh := s.fresh + 128 }, (List.range 128).map (fun k => Config.openByte (s.fresh + k)), [])
      else .error (s, .fault fXLATE va false)
    else
      match lineReady s (causeOf s v.b.ctx (.copy v.p.blk idx)) l.pa 128 l.typ .read with
      | (s, .wait _) => .error (s, .hold)
      | (s, .err c) => .error (s, .fault c va false)
      | (s, .go) =>
        match engMiss s v.b.core (some (.copy v.p.blk idx, unit)) l.pa l.typ with
        | .error x => .error x
        | .ok s => .ok (s, shadowOver v.b.pair l.pa (ownRead s l.pa 128),
            lineWords (fun k => physPoison s (l.pa + 8 * k) 8 || shadowBad v.b.pair (l.pa + 8 * k) 8))
  | .scr k off _ => .ok (s, scratchRead s k off 128, lineWords (fun j => scratchPoison s k (off + 8 * j) 8))
  | .port _ => .error (s, .hold)

/-- R162, R234, R265, R309: a destination line written, its poisoned dwords marked; the time after which readers at the scope of its space see it, or at which the
remote pod's transport acknowledges it. -/
def copyWrite (s : State) (v : View) (idx : Nat) (t : Tgt) (bs : List Byte) (bad : List Nat) : Except (State × EngStop) (State × Nat) :=
  match t with
  | .mem l va =>
    if region s l.pa == .aperture then
      if Config.apertureMapped l.pa then
        if Config.apertureFails s.fresh then .error ({ s with fresh := s.fresh + 1 }, .fault fPOISON va true)
        else .ok ({ s.send (.aperture (paLocal l.pa) bs) with fresh := s.fresh + 1 }, s.ft + Config.apertureAck s.fresh)
      else .error (s, .fault fXLATE va true)
    else
      match v.b.pair with
      | some pr =>
        match ((shadowPut pr l.pa bs).map (·.typed l.pa l.typ)).bind (fun p =>
            bad.foldl (fun (r : Option Pair) k => r.bind (fun p => shadowPoison p (l.pa + 8 * k) 8)) (some p)) with
        | none => .error (s, .fault fPERM va true)
        | some p => .ok (s.modBlock v.p.blk (fun b => { b with pair := some p }), s.ft)
      | none =>
        match lineReady s (causeOf s v.b.ctx (.copy v.p.blk idx)) l.pa 128 l.typ .write with
        | (s, .wait _) => .error (s, .hold)
        | (s, .err c) => .error (s, .fault c va true)
        | (s, .go) =>
          let g := gPkg s l.pa
          let s := noteLines (engWrite s v.b.ctx l bs) v.p.blk [l.pa]
          .ok (bad.foldl (fun s k => physPoisonWrite s (l.pa + 8 * k) 8) s, g)
  | .scr k off own =>
    if itemHeld s k (.scratch k (off / 128)) then .error (noteItem s k (.scratch k (off / 128)), .hold)
    else
      let s := scratchWrite s k off bs own
      .ok (bad.foldl (fun s j => scratchPoisonWrite s k (off + 8 * j) 8) s, s.ft)
  | .port _ => .error (s, .hold)

/-- COPY_LINE (R159, R162, R163): the line at PROG of an entry moved. -/
def execCopyLine (blk idx : Nat) (s : State) : Host.Outcome State Fault Refusal :=
  .next (match muleEntry s blk idx, s.view { blk := blk, who := .bell } with
  | some (b, c), some v =>
    let e := ringEntry b idx
    if scratchPoison s blk (32 * (idx % 64)) 32 then copyEnd s blk idx fPOISON
    else if e.bad b then copyEnd s blk idx fILLOP
    else if c.prog ≥ e.total then copyEnd s blk idx 0
    else
      match copyTgt s v c.outcomes e.w0 (e.lineOff (!e.side) c.prog) false with
      | .error (s, x) => copyStop s blk idx x
      | .ok (s, src) =>
        match copyTgt s v c.outcomes e.w1 (e.lineOff e.side c.prog) true with
        | .error (s, x) => copyStop s blk idx x
        | .ok (s, dst) =>
          match copyRead s v idx c.prog src with
          | .error (s, x) => copyStop s blk idx x
          | .ok (s, bs, bad) =>
            match copyWrite s v idx dst bs bad with
            | .error (s, x) => copyStop s blk idx x
            | .ok (s, g) =>
              let s := modCopy s blk idx (fun c => { c with
                prog := c.prog + 1, g := max c.g g, outcomes := [], done := decide (c.prog + 1 ≥ e.total) })
              if bad.isEmpty then s else copyEnd s blk idx fPOISON
  | _, _ => s)

/-! ## Completion (R162 to R164) -/

/-- What a completion's counter add comes to: made or without effect, or not possible yet. -/
inductive AddRes where
  | made (s : State) (status : Nat)
  | later (s : State)

/-- R150, R162, R163, R164, R188, R189: the counter add of a completion. -/
def copyAdd (s : State) (blk : Nat) (b : Block) (c : CopyWork) (e : CopyEntry) : AddRes :=
  if e.inc == 0 then .made s c.status
  else
    let n : W64 := BitVec.ofNat 64 (e.inc + if c.status == 0 then 0 else 2 ^ 63)
    if e.w2.testBit 0 then
      let off := e.w2 / 8 % 2 ^ 54 * 8
      if off ≥ b.decl.scratch then .made s fPERM
      else if itemHeld s blk (.scratch blk (off / 128)) then .later (noteItem s blk (.scratch blk (off / 128)))
      else if ownBarred s b (off / 128) then .made s fWINCONF
      else if scratchPoison s blk off 8 then .made s fPOISON
      else .made (scratchWrite s blk off (leBytes 8 (counterAdd (leNat (scratchRead s blk off 8)) n.toNat))) c.status
    else
      let va : W64 := (BitVec.ofNat 57 (e.w2 % 2 ^ 57 / 8 * 8)).signExtend 64
      match engXlate s b c.outcomes va .write with
      | .error (s, .page r) => .later (copyPause s blk c.idx (some r))
      | .error (s, .fault code _ _ _) => .made s code
      | .error (s, .hold) => .later s
      | .ok (s, l) =>
        if l.typ == 1 then .made s fATOMUNS
        else if l.typ == 2 then
          match syncLane s l.pa (.cnta n) none 2 with
          | (s, some _) => .made s c.status
          | (s, none) => .made s fPOISON
        else
        match lineReady s (causeOf s b.ctx (.copy blk c.idx)) l.pa 8 l.typ .sync with
        | (s, .wait _) => .later s
        | (s, .err code) => .made s code
        | (s, .go) =>
          if !drainFirst s c.op l.pa then .later (drainHold s blk c.op l.pa)
          else
            let s := s.modMem (fun m => { m with held := m.held.filter (fun h => !(h.op == c.op && h.lanes.isEmpty)) })
            match syncLane s l.pa (.cnta n) none with
            | (s, some _) => .made s c.status
            | (s, none) => .made s fPOISON

/-- R70, R163: CPYERR set in the group that issued a copy. -/
def copyErr (s : State) (blk : Nat) (c : CopyWork) : State :=
  match c.issuer with
  | some g => s.modGroup blk g (fun x => Group.mark { x with gstat := x.gstat ||| 8#32 } 0)
  | none => s

/-- R162: the barrier arrival of a completion: at a barrier of the destination block. -/
def copyArrival (s : State) (blk : Nat) (b : Block) (e : CopyEntry) : State :=
  if !e.w1.testBit 63 || endSpace e.w1 == 0 then s
  else
    let k := e.w1 / 2 ^ 59 % 16
    match (if endSpace e.w1 == 1 then some blk else peerBlk s b (endPeer e.w1)) with
    | none => s
    | some q => s.modBlock q (fun x => { x with
        bars := modNth x.bars k NBar.copyArrive, pair := x.pair.map (fun p => { p with passed := p.passed.erase (k + 1) }) })

/-- R162, R266: whether a completion may make its barrier arrival: one that completes a phase of a paired block waits at the compare
point. -/
def arrivalMeets (s : State) (blk : Nat) (b : Block) (e : CopyEntry) : State × Bool :=
  if !e.w1.testBit 63 || endSpace e.w1 == 0 then (s, true)
  else
    let k := e.w1 / 2 ^ 59 % 16
    match (if endSpace e.w1 == 1 then some blk else peerBlk s b (endPeer e.w1)) with
    | none => (s, true)
    | some q =>
      match s.block? q with
      | none => (s, true)
      | some x =>
        match x.pair, x.bars[k]? with
        | some p, some n =>
          if n.copyArrive.phase == n.phase then (s, true)
          else if p.passed.contains (k + 1) then (s, true)
          else (s.modBlock q (fun b => b.await [k + 1]), false)
        | _, _ => (s, true)

/-- COPY_COMPLETION (R162): the oldest entry of a ring, done and with its times passed, takes effect: counter, barrier, HEAD and
the issuer's CC. -/
def execCopyCompletion (blk : Nat) (s : State) : Host.Outcome State Fault Refusal :=
  .next (match s.block? blk with
  | none => s
  | some b =>
    match b.copies with
    | [] => s
    | c :: _ =>
      if !c.done || decide (s.ft ≤ c.g) || c.req.isSome || b.stat != .resident then s
      else
        let e := ringEntry b c.idx
        let item : Item := .scratch blk (32 * (c.idx % 64) / 128)
        if itemHeld s blk item then noteItem s blk item
        else
        match arrivalMeets s blk b e with
        | (s, false) => s
        | (t, true) =>
        match copyAdd t blk b c e with
        | .later t => t
        | .made s status =>
          let s := if status == 0 then s
            else copyErr (scratchWrite s blk (32 * (c.idx % 64)) (leBytes 8 (e.w0 % 2 ^ 57 + status % 128 * 2 ^ 57)) false) blk c
          let s := copyArrival s blk b e
          let who : Who := match c.issuer with | some g => .path g false | none => .bell
          let s := completeOp s { blk := blk, who := who } c.op
          s.modBlock blk (fun b => { b with head := b.head + 1, copies := b.copies.drop 1 }))

end Sys2Proof.Machine
end

