-- ==== Sys2Proof/Machine/Reads.lean ====
section
/-! DEFINITION. What a word reads and writes (R86), the word at a stream's PC (R81, R215), and the paths whose next run would begin with a word
that awaits data (R84). -/

namespace Sys2Proof.Machine

open Sys2Proof

/-! ## The registers a word reads and writes (R86) -/

/-- A source or destination field with the vector registers it names from there on; 0 for a path-wide one. -/
abbrev Span := BitVec 8 × Nat

/-- R126: the four registers of a descriptor, as path-wide sources. -/
def spans (n : BitVec 8) (k : Nat) : List Span := (List.range k).map (fun j => (n + BitVec.ofNat 8 j, 0))

/-- R86, R317 to R326: what a word reads and what it writes, MODE.TYPE taking `t` registers to an element. -/
def operands (v : View) (i : Instr) : List Span × List Span :=
  let t := tyRegs v.ty
  let sf (r : BitVec 5) : Span := (sField v r, 0)
  match i with
  | .opAdd _ d a b | .opSub _ d a b | .opMul _ d a b | .opMin _ d a b | .opMax _ d a b | .opAnd _ d a b | .opOr _ d a b
  | .opXor _ d a b | .opSel _ d a b | .opMulh _ d a b => ([(a, t), (b, t)], [(d, t)])
  | .opShl _ d a b | .opShr _ d a b | .opSar _ d a b | .opShfl _ d a b | .opShfx _ d a b | .opShup _ d a b | .opShdn _ d a b =>
    ([(a, t), (b, 1)], [(d, t)])
  | .opMad _ x y z => ([(x, t), (y, t), (z, t)], [(x, t)])
  | .opBfe _ x y z => ([(y, t), (z, 1)], [(x, t)])
  | .opBfi _ x y z => ([(x, t), (y, t), (z, 1)], [(x, t)])
  | .opCmp _ _ _ a b => ([(a, t), (b, t)], [])
  | .opMov _ d a | .opAbs _ d a | .opNeg _ d a | .opNot _ d a | .opRcp _ d a | .opRsq _ d a | .opSqrt _ d a | .opExp2 _ d a
  | .opLog2 _ d a | .opSin _ d a | .opCos _ d a | .opRint _ d a | .opClz _ d a | .opPopc _ d a | .opBrev _ d a | .opClass _ d a
  | .opGsum _ d a | .opGmin _ d a | .opGmax _ d a | .opGscan _ d a => ([(a, t)], [(d, t)])
  | .opCvt _ d a y => ([(a, t)], [(d, tyRegs (tyOf y.toNat))])
  | .opCvtb _ d a => ([(a, 1)], [(d, 1)])
  | .opCvtbGiven _ d a => ([(a, 1), (d, 1)], [(d, 1)])
  | .opUnpb _ d a => ([(a, 1)], [(d, 1)])
  | .opVany _ d _ | .opVall _ d _ | .opVuni _ d _ | .opVbal _ d _ | .opPcnt _ d _ => ([], [(d, 1)])
  | .opPset _ _ a | .opPsetFirst _ _ a | .opSetmx _ a | .opCwr _ a _ | .opBrx a | .opDisp a => ([(a, 0)], [])
  | .opPsetNz _ _ a => ([(a, 1)], [])
  | .opSadd _ d a b | .opSsub _ d a b | .opSmul _ d a b | .opSand _ d a b | .opSor _ d a b | .opSxor _ d a b | .opSshl _ d a b
  | .opSshr _ d a b | .opSmin _ d a b | .opSmax _ d a b => ([(a, 0), (b, 0)], [(d, 0)])
  | .opSmov _ d a => ([(a, 0)], [(d, 0)])
  | .opScmp _ _ _ a b => ([(a, 0), (b, 0)], [])
  | .opSli _ d _ | .opGetm _ d | .opCrd _ d _ | .opChq _ d _ | .opMfence _ d => ([], [(d, 0)])
  | .opSysv _ d _ => ([], [(d, 0), (d, t)])
  | .opSlh _ d _ => ([(d, 0)], [(d, 0)])
  | .opSld _ d a r _ => ([(a, 0), sf r], [(d, 0)])
  | .opSst _ d a r _ => ([(a, 0), sf r, (d, 0)], [])
  | .opLd _ d a r _ | .opLda _ d a r _ | .opLds _ d a r => ([(a, 1), sf r], [(d, t)])
  | .opSt _ d a r _ | .opStl _ d a r _ | .opSts _ d a r => ([(a, 1), sf r, (d, t)], [])
  | .opLdacc _ x y z => ([(y, 0), (z, 0)], [(x, 1)])
  | .opStacc _ x y z => ([(x, 1), (y, 0), (z, 0)], [])
  | .opPref _ a r _ => ([(a, 1), sf r], [])
  | .opTagq _ d a => ([(a, 2)], [(d, 1)])
  | .opTagw _ d a | .opTagx _ d a => ([(a, 2)], [(d, 4)])
  | .opAtom _ d a _ _ => ([(d, t), (a, 2)], [(d, t)])
  | .opRed _ d a _ _ | .opRedh _ d a _ _ => ([(d, t), (a, 2)], [])
  | .opCas _ d a _ => ([(d, 2 * t), (a, 2)], [(d, t)])
  | .opCas128 _ d a _ => ([(d, 8), (a, 2)], [(d, 4)])
  | .opAtom2 _ d a _ _ => ([(d, 2 * t), (a, 2)], [(d, 2 * t)])
  | .opMwait _ d a _ => ([(d, 0), (a, 0)], [(d, 0)])
  | .opLock _ x y | .opBara _ x y | .opBars _ x y | .opBow _ x y | .opMclr _ x y | .opCnta _ x y | .opCntw _ x y => ([(x, 0), (y, 0)], [])
  | .opUnlk _ n | .opBarw _ n | .opBdel _ n | .opMwaitb _ n | .opWaitc _ _ n => ([(n, 0)], [])
  | .opBnew _ x y | .opBoa _ x y => ([(y, 0)], [(x, 0)])
  | .opPost _ _ y z => ([(z, 0), (y, 2)], [])
  | .opWld _ n _ | .opMstr _ n _ | .opMdrn _ n => (spans n 4, [])
  | .opMwin _ g b l => ([(g, 0), (b, 0), (l, 0)], [])
  | .opCpy _ x y | .opCpy2d _ x y => ((y, 0) :: spans x 3, [])
  | .opCpyw _ x => (spans x 4, [])
  | _ => ([], [])

/-- R86: whether a field names a register that awaits data. -/
def touches (v : View) (f : Span) : Dst → Bool
  | .vreg r n => !v.isBell && decide (f.1.toNat < 0x80) && decide (f.1.toNat < r + n) && decide (r < f.1.toNat + f.2)
  | .sreg r => if v.isBell then f.1.toNat == r else isS f.1 && f.1.toNat % 32 == r
  | _ => false

/-- R403: a word that makes an access of memory: none of its path issues before an LDA has completed. -/
def accesses (i : Instr) : Bool :=
  match i with
  | .opSld .. | .opSst .. | .opLd .. | .opLda .. | .opLds .. | .opSt .. | .opStl .. | .opSts .. | .opPref .. | .opAtom .. | .opRed ..
  | .opRedh .. | .opCas .. | .opCas128 .. | .opAtom2 .. | .opMwait .. | .opLock .. | .opUnlk .. | .opBnew .. | .opBdel .. | .opBoa ..
  | .opBow .. | .opCnta .. | .opCntw .. | .opPost .. | .opCpy .. | .opCpy2d .. | .opCpyw .. | .opTagq .. | .opTagw .. | .opTagx .. => true
  | _ => false

/-- R86, R90, R403: an outstanding load of the party whose data the word needs, or whose destination it would write first; or an LDA before an
access. A word that the bellwether's guard suppresses needs nothing. -/
def awaited (v : View) (i : Instr) : Option OutOp :=
  let ops := if v.isBell then v.b.bell.ops else v.g.ops
  let o := operands v i
  if v.suppressed then none
  else ops.find? (fun x => !x.done && v.ctl.openOp != some x.id && (x.side.isNone || x.side == some v.sec) &&
    ((x.dst != .none && (o.1 ++ o.2).any (fun f => touches v f x.dst)) || (x.acq && accesses i)))

/-- R90: whether an operation's data come from beyond a home slice. -/
def missed (s : State) (o : OutOp) : Bool := !o.pending.isEmpty || s.mem.reads.any (fun r => r.op == o.id && r.far)

/-! ## Fetch (R81, R215, R494) -/

/-- R215, R221, R234: the word at a party's PC; otherwise the state in which its fetch has ended: a fault, or a wait. -/
def fetchWord (s : State) (v : View) : Except State (State × W32) :=
  let pc := v.ctl.pc
  if pc.toNat % 4 != 0 then .error (raise s v (exc fALIGN pc))
  else
    match xlateOne s v pc .fetch with
    | .error (.trap s x) => .error (raise s v x)
    | .error (.wait s w) => .error (park s v.p w)
    | .error _ => .error { s with cur := none }
    | .ok (s, l) =>
      match lineReady s (v.cause s) l.pa 4 l.typ .read with
      | (s, .wait w) => .error (park s v.p w)
      | (s, .err c) => .error (raise s v (exc c pc))
      | (s, .go) =>
        if physPoison s l.pa 4 then .error (raise s v (exc fPOISON pc)) else .ok (s, BitVec.ofNat 32 (leNat (ownRead s l.pa 4)))

/-! ## The next run of a path (R84, R95) -/

/-- R95: where the next run of a path at a PC starts, by its divergence entries in the core; none where a spilled entry decides it. -/
def nextStart (spilled : Option W64) (pc : W64) : List DivEntry → Option W64
  | [] => if spilled == some pc then none else some pc
  | e :: rest => if e.join != pc then some pc else if e.start != 0xFFFFFFFFFFFFFFFF#64 then some e.start else nextStart spilled pc rest

/-- The paths of a party's group, or its bellwether alone. -/
def groupParties (p : Party) : List Party :=
  match p.who with
  | .bell => [p]
  | .path g _ => [{ p with who := .path g false }, { p with who := .path g true }]

/-- R84: the load which has missed and keeps a path from being ready: the first word of its next run reads a register that awaits it. -/
def startsAwaiting (s : State) (p : Party) : Option Nat :=
  match s.view p with
  | none => none
  | some v =>
    if v.isBell || v.ctl.inRun || v.ctl.ended || v.ctl.wait != .ready || v.g.ops.all (fun o => o.dst == .none || !missed s o) then none
    else
      match nextStart v.path.divJoins.head? v.ctl.pc v.path.div with
      | none => none
      | some a =>
        match fetchWord s { v with ctl := { v.ctl with pc := a } } with
        | .ok (_, w) => (awaited v (decode w)).bind (fun o => if o.dst != .none && missed s o then some o.id else none)
        | .error _ => none

end Sys2Proof.Machine
end

