-- ==== Sys2Proof/Machine/Issue.lean ====
section
/-! DEFINITION. Issue and its events: slot arbitration with the checks of a run start (R84, R85, R95 to R98), the bellwether
pipeline (R20), arrivals and completions (R90, R173, R176), satisfied waits (R91) and lock grants (R155). -/

namespace Sys2Proof.Machine

open Sys2Proof

/-! ## Parties -/

/-- What an event makes of a party that does not hold the issue, the holder of the issue kept. -/
def keepCur (s : State) (s' : State) : State :=
  match s.cur with
  | none => { s' with cur := none }
  | some p =>
    match s'.view p with
    | none => { s' with cur := none }
    | some v =>
      { s' with cur := if !blockRuns s' v.b || v.ctl.ended || v.g.retired || (!v.isBell && v.path.mask == 0) then none else some p }

/-- A fault raised in a party by an event. -/
def raiseFrom (s : State) (p : Party) (x : Exc) : State :=
  match s.view p with
  | some v => keepCur s (raise s v x)
  | none => s

/-- Lanes that die by data that arrive. -/
def killFrom (s : State) (p : Party) (lanes : W32) : State :=
  match s.view p with
  | some v => if v.isBell || lanes == 0 then s else keepCur s (killLanes s v lanes)
  | none => s

/-- A party made ready (R84, R91); one that kept its slot while it stalled has its age still. -/
def wake (s : State) (p : Party) : State := s.modCtl p (fun c => { c with wait := .ready, age := if c.keep then c.age else s.ft })

/-! ## Run starts (R64, R71, R95, R96, R98, R101) -/

/-- What an operation of a run start comes to besides its success: a fault at the join word, or a wait. -/
def startStop (s : State) (v : View) : Act → State
  | .trap t x => raise t v x
  | .wait t w => park t v.p w
  | _ => { s with cur := none }

/-- R95, R98: the newest divergence entry of a path with its place: a spilled entry's address, none for a hardware entry. A
spilled entry is read only at its join; elsewhere its join alone is known. -/
def topEntry (s : State) (v : View) : Except Act (State × Option (DivEntry × Option Nat)) :=
  match v.path.div with
  | e :: _ => .ok (s, some (e, none))
  | [] =>
    match v.path.divJoins with
    | [] => .ok (s, none)
    | j :: _ =>
      let a := divSpillAddr s v (v.path.divSpill - 1)
      if j != v.ctl.pc then .ok (s, some ({ start := 0, join := j, waitMask := 0, parent := 0 }, some a))
      else
        match spillRead s v a 32 with
        | .error x => .error x
        | .ok (s, bs) => .ok (s, some ({ divOfBytes bs with join := j }, some a))

/-- R95: the mark of an entry whose waiting arm has run. -/
def divDone : W64 := 0xFFFFFFFFFFFFFFFF#64

/-- R95: the switch to the waiting arm of the top entry. -/
def divSwitch (s : State) (v : View) (e : DivEntry) (spilled : Option Nat) : Except Act State :=
  let e' := { e with start := divDone, waitMask := v.path.mask }
  let go (s : State) (top : Path → Path) : State := s.modGroup v.p.blk v.gi (fun g =>
    let p := top (g.path v.sec)
    Group.markDiv (g.setPath v.sec { p with mask := e.waitMask &&& ~~~g.fin, ctl := { p.ctl with pc := e.start } }) v.sec)
  match spilled with
  | none => .ok (go s (fun p => { p with div := e' :: p.div.drop 1 }))
  | some a =>
    match spillWrite s v a (divBytes e') with
    | .error x => .error x
    | .ok s => .ok (go s id)

/-- R95: the pop of the top entry; the fold of R95 into BRAND is returned. -/
def divPop (s : State) (v : View) (e : DivEntry) (spilled : Option Nat) : State × W32 :=
  let m := e.parent &&& ~~~v.g.fin
  (s.modGroup v.p.blk v.gi (fun g =>
    let p := g.path v.sec
    (g.setPath v.sec { p with
      mask := m
      div := if spilled.isNone then p.div.drop 1 else p.div
      divSpill := if spilled.isSome then p.divSpill - 1 else p.divSpill
      divJoins := if spilled.isSome then p.divJoins.drop 1 else p.divJoins }).fixSpill), m ^^^ (e.waitMask ||| v.path.mask))

/-- R64, R71, R81, R101: a run begun: its window, position and BRAND; the latches invalid (kept frozen in a handler). -/
def beginRun (s : State) (v : View) (fold : W32) : State :=
  { s.modGroup v.p.blk v.gi (fun g =>
      let p := g.path v.sec
      g.setPath v.sec { p with
        win := (g.abase, g.alim)
        brand := 0xFFFFFFFF#32 ^^^ fold
        latches := if p.ctl.handler then p.latches else Vector.replicate 4 Latch.empty
        ctl := { p.ctl with runPos := 0, inRun := true, runStart := p.ctl.pc } }) with cur := some v.p }

/-- R95, R237: the checks of a run start, repeated until none applies; `fuel` bounds the entries met. -/
def startRun (p : Party) : Nat → W32 → State → State
  | 0, _, s => { s with cur := none }
  | fuel + 1, fold, s =>
    match s.view p with
    | none => { s with cur := none }
    | some v =>
      match topEntry s v with
      | .error a => startStop s v a
      | .ok (s, top) =>
        match top with
        | some (e, sp) =>
          if e.join == v.ctl.pc then
            if e.start != divDone then
              match divSwitch s v e sp with
              | .error a => startStop s v a
              | .ok s => startRun p fuel fold s
            else
              let r := divPop s v e sp
              startRun p fuel (fold ^^^ r.2) r.1
          else if v.path.mask &&& ~~~v.g.dead == 0 then
            startRun p fuel fold (s.modGroup p.blk v.gi (fun g => g.pathDone v.sec (some e.join) s.ft))
          else if v.g.split && v.ctl.pc == v.g.join then raise s v (exc fILLOP)
          else beginRun s v fold
        | none =>
          if v.path.mask &&& ~~~v.g.dead == 0 then
            { s.modGroup p.blk v.gi (fun g => g.pathDone v.sec none s.ft) with cur := none }
          else if v.g.split && v.ctl.pc == v.g.join then
            { s.modGroup p.blk v.gi (fun g =>
                let q := g.path v.sec
                (g.setPath v.sec { q with ctl := { q.ctl with wait := .join } }).settle s.ft) with cur := none }
          else beginRun s v fold

/-- How many checks a run start may need. -/
def startFuel (v : View) : Nat := 2 * (v.path.div.length + v.path.divSpill) + 4

/-! ## Arbitration (R20, R84, R85, R56) -/

/-- The paths of a group that have not ended: path 0, and path 1 while it is split. -/
def livePaths (g : Group) : List Bool := [false, true].filter (fun sec => !(g.path sec).ctl.ended && (!sec || g.split))

/-- R84: the paths of a slot of a core, with their control parts. -/
def slotPaths (s : State) (core slot : Nat) : List (Ctl × Party) :=
  ((s.blocks.zipIdx).map (fun (x : Block × Nat) =>
    if x.1.core == core && blockRuns s x.1 then
      ((x.1.groups.zipIdx).map (fun (y : Group × Nat) =>
        if y.2 % 8 == slot && !y.1.retired then
          (livePaths y.1).map (fun sec => ((y.1.path sec).ctl, ({ blk := x.2, who := .path y.2 sec } : Party)))
        else [])).flatten
    else [])).flatten

/-- R65, R84, R86, R482: the paths that may win a slot of a core: those that are ready and do not await a missed load with the first word of
their next run, or, while a run that has stalled keeps the slot,
its path alone; the replay of an access that pages have held up goes before them, for it needs no slot. -/
def slotReady (s : State) (core slot : Nat) : List (Nat × Party) :=
  let l := slotPaths s core slot
  let kept := l.filter (fun x => x.1.keep)
  let again := l.filter (fun x => x.1.replays && x.1.wait == .ready)
  let l := if !again.isEmpty then again else if kept.isEmpty then l else kept
  (l.filter (fun x => x.1.wait == .ready && (startsAwaiting s x.2).isNone)).map (fun x => (x.1.age, x.2))

/-- R85: the order of parties of one age: the group index, then path 0 before path 1. -/
def partyRank (p : Party) : Nat := match p.who with | .bell => 0 | .path g sec => 2 * g + (if sec then 1 else 0)

/-- R85: the oldest of the ready parties; among equals the lower group index, then path 0 (notes/assumptions 83 for equal groups of two
blocks). -/
def oldest (l : List (Nat × Party)) : Option Party :=
  (l.foldl (fun (h : Option (Nat × Party)) x =>
    match h with
    | none => some x
    | some y => if x.1 < y.1 || (x.1 == y.1 && partyRank x.2 < partyRank y.2) then some x else some y) none).map Prod.snd

/-- SLOT_ARBITRATION (R85): the oldest ready path wins the slot; mid-run it goes on, at a run start the checks of R95 are made. -/
def execSlotArbitration (core slot : Nat) (s : State) : Host.Outcome State Fault Refusal :=
  .next (if s.cur.isSome then s
  else
    match oldest (slotReady s core slot) with
    | none => s
    | some p =>
      match s.view p with
      | none => s
      | some v =>
        let s := s.modCtl p (fun c => { c with keep := false })
        if v.ctl.inRun then { s with cur := some p } else startRun p (startFuel v) 0 s)

/-- R20: the ready bellwether streams of a core, with the clock until which each is withheld. -/
def bellWaiting (s : State) (core : Nat) : List (Nat × Nat × Party) :=
  ((s.blocks.zipIdx).filter (fun (x : Block × Nat) =>
    x.1.core == core && blockRuns s x.1 && !x.1.bell.ctl.ended && x.1.bell.ctl.wait == .ready)).map
    (fun x => (x.1.bell.yieldUntil, x.1.bell.ctl.age, ({ blk := x.2, who := .bell } : Party)))

/-- R20, R480: the ready streams of a core's bellwether pipeline: those that no YIELD withholds, or all when it withholds every one. -/
def bellReady (s : State) (core : Nat) : List (Nat × Party) :=
  let l := bellWaiting s core
  let free := l.filter (fun x => decide (x.1 ≤ s.ft))
  (if free.isEmpty then l else free).map Prod.snd

/-- BELLWETHER_ISSUE (R20): the oldest ready stream issues a word. -/
def execBellwetherIssue (core : Nat) (s : State) : Host.Outcome State Fault Refusal :=
  .next (if s.cur.isSome then s
  else
    match oldest (bellReady s core) with
    | none => s
    | some p => { s.modBell p.blk (fun b => if b.ctl.inRun then { b with ctl := { b.ctl with keep := false } }
                    else { b with ctl := { b.ctl with keep := false, runPos := 0, runStart := b.ctl.pc } })
                  with cur := some p })

/-! ## Data and completions (R65, R90, R173, R176) -/

/-- R267, R268: the parties that await an operation: the one that issued it, and in a paired block the same party of the other copy and
of a third run. -/
def opParties (s : State) (p : Party) (id : Nat) : List Party :=
  let mate : List Party := match s.block? p.blk with
    | some b => (match b.pair with
      | some pr =>
        (pr.mate :: pr.run3.toList).filterMap (fun k =>
          let q : Party := { p with blk := k }
          if (partyOps s q).any (fun o => o.id == id) then some q else none)
      | none => [])
    | none => []
  p :: mate

/-- One outstanding operation of a party. -/
def findOp (s : State) (p : Party) (id : Nat) : Option OutOp := (partyOps s p).find? (fun o => o.id == id)

/-- R90, R225: the streams of a party's group, or its bellwether, that have parked for the data of an operation become ready as these
arrive. -/
def wakeLoads (s : State) (p : Party) (op : Nat) : State :=
  (groupParties p).foldl (fun s q => match s.ctl? q with
    | some c => if (c.wait == .load op || c.wait == .flight op) && !c.ended then wake s q else s
    | none => s) s

/-- R482: lanes of an access stopped part way whose values have come set their bits in PMASK. -/
def noteArrived (s : State) (p : Party) (op : Nat) (lanes : W32) : State :=
  match p.who with
  | .bell => s
  | .path k _ => s.modGroup p.blk k (fun g =>
      let mine (c : Ctl) : Bool := c.openOp == some op && c.trapOp.isNone
      if mine g.path0.ctl || mine g.path1.ctl then Group.mark { g with pmask := g.pmask ||| lanes } 0 else g)

/-- R65, R90, R176: a load some of whose data have come: when nothing more is to come it completes, and the streams parked for it become
ready. -/
def endLoad (s : State) (p : Party) (op : Nat) : State :=
  match findOp s p op with
  | none => s
  | some o =>
    if opFlying s o then s
    else
      let s := modOp s p op (fun o => { o with miss := [], dst := .none })
      wakeLoads (if o.cls == .lc && !o.stopped then completeOp s p op else s) p op

/-- R306: a lane of a queued read whose request has ended in an error: it consumes poison, or it leaves a deferred fault. -/
def readError (s : State) (r : QRead) (code : Nat) : State :=
  match findOp s r.party r.op with
  | none => s
  | some o =>
    if code == fPOISON && r.ty.isSome then killFrom s r.party (laneBit r.lane)
    else addDeferred s r.party { cls := o.cls, side := o.side, code := code, addr := r.va, lanes := if r.ty.isSome then laneBit r.lane else 0,
                                 dst := o.dst, write := false }

/-- R90, R401, R457: the value of a queued read given to its lane's registers, or to its s or w register. -/
def readValue (s : State) (r : QRead) (bs : List Byte) : State :=
  match findOp s r.party r.op, r.ty with
  | some o, some ty =>
    let base := match o.dst with | .vreg k _ => k | _ => 0
    noteArrived (deliver s r.party o.dst (((wordsOf (tyOf ty) bs).zipIdx).map (fun x => (r.lane, base + x.2, x.1)))) r.party r.op (laneBit r.lane)
  | some o, none => deliver s r.party o.dst [(0, 0, BitVec.ofNat 32 (leNat bs)), (1, 0, BitVec.ofNat 32 (leNat bs / 2 ^ 32))]
  | none, _ => s

/-- R90, R168, R173: a queued read performed at its line's owner, if it may be. -/
def performRead (s : State) (r : QRead) : State :=
  let gone (s : State) : State := s.modMem (fun m => { m with reads := m.reads.erase r })
  let n := match r.ty with | some t => tyBytes (tyOf t) | none => 8
  match readReady s (partyCtx s r.party) r with
  | (s, .wait _) => s
  | (s, .err c) => readError (gone s) r c
  | (s, .go) =>
    let s := (gone s).fillSlice (lineOf r.pa)
    if physPoison s r.pa n then readError s r fPOISON
    else
      let bs := ownOver s r.party r.pa (ownRead s r.pa n) r.op r.seq
      let core := match s.block? r.party.blk with | some b => b.core | none => 0
      let lease := match s.ctxs[partyCtx s r.party]? with | some c => c.desc.lease | none => 0
      readValue (l1Take s core (lineOf r.pa) r.typ lease r.fill) r bs

/-- R84: the paths of a party's group that only an operation keeps from being ready, become ready as its data arrive. -/
def wakeStarts (l : List Party) (s : State) : State :=
  l.foldl (fun s q => s.modCtl q (fun c => { c with age := s.ft })) s

/-- LOAD_DATA_ARRIVAL (R90, R92, R173, R176): the data in flight of a load reach its destination, and its miss-status entries are free; its
reads that were queued for their owners are performed as far as they may be. -/
def execLoadDataArrival (p : Party) (op : Nat) (s : State) : Host.Outcome State Fault Refusal :=
  .next (let starts := (groupParties p).filter (fun q => startsAwaiting s q == some op)
  let s := match findOp s p op with
    | none => s
    | some o =>
      if o.pending.isEmpty then s
      else
        let s := deliver ((o.miss.map Prod.fst).foldl State.fillSlice s) p o.dst o.pending
        noteArrived (modOp s p op (fun o => { o with pending := [], miss := [] })) p op (maskOf (fun l => o.pending.any (fun x => x.1 == l)))
  let t := endLoad ((s.mem.reads.filter (fun r => r.op == op)).foldl performRead s) p op
  wakeStarts (starts.filter (fun q => startsAwaiting t q != some op)) t)

/-- R176, R186, R199: whether nothing of an operation is still on its way. -/
def opPerformed (s : State) (o : OutOp) : Bool :=
  !o.done && !o.stopped && o.cls != .cc && !opFlying s o && o.lines.all (fun l => (fabOf s l).acks == 0)

/-- R306: the deferred faults of the queued writes of an operation whose requests ended in an error, one for each code. -/
def lateWrites (s : State) (p : Party) (op : OutOp) (l : List (QWrite × Nat)) : State :=
  [fPERM, fWINREV, fPOISON].foldl (fun s c =>
    let mine := (l.filter (fun x => x.2 == c)).map Prod.fst
    match mine with
    | [] => s
    | w :: _ =>
      let low := mine.foldl (fun (a : QWrite) b => if b.lane < a.lane then b else a) w
      addDeferred s p { cls := op.cls, side := op.side, code := c, addr := low.va, lanes := if p.who == .bell then 0 else maskOf (fun k => mine.any (fun w => w.lane == k)),
                        dst := .none, write := true }) s

/-- R171: the queued writes of an operation performed as far as they may be. -/
def performOp (s : State) (p : Party) (o : OutOp) : State :=
  if s.mem.writes.any (fun w => w.op == o.id) then
    let r := performWrites s o.id
    lateWrites r.1 p o r.2
  else s

/-- STORE_COMPLETION (R171, R176, R221, R252): the writes of an operation that were queued for their owners are performed as far as they
may be; an operation whose accesses have all been performed completes. The device's own writes that have waited are performed too. -/
def execStoreCompletion (p : Party) (op : Nat) (s : State) : Host.Outcome State Fault Refusal :=
  .next (match findOp s p op with
  | none => devPump s
  | some o =>
    let s := performOp s p o
    if !opPerformed s o then s else endOp s p op)

/-- The 32-bit words of old bytes, ascending. -/
def chunkWords : Nat → List Byte → List W32
  | 0, _ => []
  | n + 1, bs => BitVec.ofNat 32 (leNat (bs.take 4)) :: chunkWords n (bs.drop 4)

/-- R347, R348: the old values of a line's step delivered to the parties that await them, and their dead lanes. -/
def deliverOld (s : State) (p : Party) (id : Nat) (dst : Dst) (nw : Nat) (l : List (Nat × Option (List Byte))) : State :=
  let base := match dst with | .vreg r _ => r | _ => 0
  let ws : List (Nat × Nat × W32) := (l.map (fun (x : Nat × Option (List Byte)) =>
    match x.2 with
    | some bs => ((chunkWords nw bs).zipIdx).map (fun (y : W32 × Nat) => (x.1, base + y.2, y.1))
    | none => [])).flatten
  let dead := maskOf (fun i => l.any (fun x => x.1 == i && x.2.isNone))
  (opParties s p id).foldl (fun s q =>
    let s := match dst with | .vreg _ _ => deliver s q dst ws | _ => s
    wakeLoads (killFrom (noteArrived s q id (maskOf (fun i => l.any (fun x => x.1 == i)))) q dead) q id) s

/-- R377: whether a held synchronisation write is a CNTA's. -/
def HeldReq.counter (h : HeldReq) : Bool := h.lanes.any (fun r => match r.op with | .cnta _ => true | _ => false)

/-- R377: a held CNTA that has found its counter poisoned leaves a deferred fault. -/
def heldCounters (s : State) (h : HeldReq) (l : List (Nat × Option (List Byte × Bool))) : State :=
  if !h.counter || l.all (fun x => x.2.isSome) then s
  else
    let va := match h.lanes with | r :: _ => r.va | [] => 0
    (opParties s h.party h.op).foldl (fun s q => addDeferred s q
      { cls := .sc, side := (findOp s q h.op).bind OutOp.side, code := fPOISON, addr := va, lanes := 0, dst := .none, write := true }) s

/-- HELD_WRITE_PERFORM (R173, R200): the oldest held synchronisation write of a line is performed once nothing shares the line;
one to the host goes out as AtomicOps. -/
def execHeldWritePerform (line : Nat) (s : State) : Host.Outcome State Fault Refusal :=
  .next (match heldFirst s line with
  | none => s
  | some h =>
    let ci := match s.block? h.party.blk with | some b => b.ctx | none => 0
    if h.lanes.isEmpty || !syncReady s (line * 128) || h.lanes.any (fun r => regionBars s ci r.va) || pageHeld s (line * 128) 128 (preCut s ci h.op) then s
    else
      let s := s.modMem (fun m => { m with held := m.held.erase h })
      if h.lanes.any (isHostAtomic s) then sendAtomics s h.party h.op h.dst h.words h.lanes
      else
        let r := syncLanes (l1Away (handLine s h.party line) h.party line) (preCut s ci h.op) 0 h.lanes
        let s := heldCounters r.1 h r.2
        let wrote := r.2.any (fun x => match x.2 with | some (_, w) => w | none => false)
        let s := if wrote then (opParties s h.party h.op).foldl (fun s q => modOp s q h.op (fun o => { o with g := max o.g s.ft })) s else s
        if h.counter then wakeLoads s h.party h.op
        else deliverOld s h.party h.op h.dst h.words (r.2.map (fun x => (x.1, x.2.map Prod.fst))))

/-- REVOCATION (R173): a core drops a line and acknowledges; the last acknowledgement ends the line's leases. -/
def execRevocation (core line : Nat) (s : State) : Host.Outcome State Fault Refusal :=
  .next (if !s.mem.held.any (fun h => h.line == line && h.acks.contains core) then s
  else
    let s := l1Drop s core line
    let s := s.modMem (fun m => { m with held := m.held.map (fun h => if h.line == line then { h with acks := h.acks.erase core } else h) })
    if s.mem.held.any (fun h => h.line == line && !h.acks.isEmpty) then s
    else s.modMem (fun m => { m with leases := m.leases.filter (fun p => p.1 != line) }))

/-! ## Lock grants (R154 to R156) -/

/-- R155: a request taken out of a lock's queue. -/
def lockPop (s : State) (die num : Nat) (holder : Option Nat) : State :=
  s.modMem (fun m => { m with locks := m.locks.map (fun l =>
    if l.die == die && l.num == num then { l with queue := l.queue.drop 1, holder := holder } else l) })

/-- R155: the lines of a lock's ranges in their latest contents. -/
def lockLines (b : Block) (outs : List PageOutcome) : List W64 → State → Except (State × EngStop) (State × List (List Byte × Bool))
  | [], s => .ok (s, [])
  | va :: rest, s =>
    match engRead s b none outs va 128 with
    | .error x => .error x
    | .ok (s, bs, bad) =>
      match lockLines b outs rest s with
      | .error x => .error x
      | .ok (s, l) => .ok (s, (bs, bad) :: l)

/-- R168, R189: the first of a lock's lines that lies in a software-managed region, where its grant, a synchronisation access, has no
effect. -/
def lockSoft (s : State) (b : Block) (vas : List W64) : Option W64 :=
  vas.find? (fun va => match engXlate s b [] va .read with | .ok (_, l) => l.typ == 1 | .error _ => false)

/-- R150: the first of some lines of a block's own scratchpad from an offset on whose tag names another block. -/
def barredLine (s : State) (b : Block) (off n : Nat) : Option Nat :=
  ((List.range n).map (fun k => off + 128 * k)).find? (fun o => ownBarred s b (o / 128))

/-- R155: pushed lines put into a block's scratchpad at an offset. -/
def pushLines (s : State) (blk off : Nat) (l : List (List Byte × Bool)) : State :=
  (l.zipIdx).foldl (fun s (x : (List Byte × Bool) × Nat) =>
    let s := scratchWrite s blk (off + 128 * x.2) x.1.1 false
    if x.1.2 then scratchPoisonWrite s blk (off + 128 * x.2) 128 else s) s

/-- R155: a lock granted to a block: its ranges pushed and the lock recorded; a paired block's other copy gets the lines too. -/
def lockGive (s : State) (blk num off : Nat) (who : Option Who) (word : W32) (ranges : List (W64 × Nat)) (l : List (List Byte × Bool)) : State :=
  let s := pushLines s blk off l
  s.modBlock blk (fun b => { b with locks := b.locks ++ [{ num := num, off := off, ranges := ranges, marked := [], asker := who, word := word, rel := none, giver := none }] })

/-- R157, R259: the ranges of a lock that a resume has taken from an image read from its descriptor, every line marked; whether that could be
read now. -/
def rebindRanges (s : State) (c : Ctx) (x : Nat × Nat) : State × Bool :=
  if (s.block? x.1).any (fun b => b.locks.all (fun h => h.num != x.2 || !h.ranges.isEmpty)) then (s, true)
  else
    match devRead s .front c (lockVa c x.2).toNat 64 with
    | (s, .ok bs) =>
      let rs : List (W64 × Nat) := (lockRanges bs).map (fun r => (BitVec.ofNat 64 r.1, r.2))
      (modLock s x.1 x.2 (fun h => { h with ranges := rs, marked := List.range ((rs.map Prod.snd).foldl (· + ·) 0) }), true)
    | (s, .error (.fault _ _)) => (s, true)
    | (s, .error _) => (s, false)

/-- R157: a lock of a restored block bound to it, and whether it need not be tried again: not while its descriptor has to be waited for. -/
def rebindLock (s : State) (c : Ctx) (x : Nat × Nat) : State × Bool :=
  match s.view { blk := x.1, who := .bell } with
  | none => (s, true)
  | some v =>
    if !v.b.locks.any (fun h => h.num == x.2) then (s, true)
    else
      match lockPlace s v c x.2 with
      | .ok (s, die, k) =>
        let ls := s.mem.locks
        let ls := if ls.any (fun l => l.die == die && l.num == k) then ls else ls ++ [{ die := die, num := k, holder := none, queue := [] }]
        rebindRanges (s.modMem (fun m => { m with
          locks := ls.map (fun l => if l.die == die && l.num == k then { l with holder := some x.1 } else l) })) c x
      | .error (.wait s _) => (s, false)
      | .error _ => (s, true)

/-- R157: the locks that a resumed context has still to bind. -/
def rebindLocks (s : State) (ci : Nat) : State :=
  match s.ctxs[ci]? with
  | none => s
  | some c => c.rebind.foldl (fun s x =>
      match rebindLock s c x with
      | (s, true) => s.modCtx ci (fun c => { c with rebind := c.rebind.erase x })
      | (s, false) => s) s

/-- R157: those of every context; no lock of a context is granted before them. -/
def rebindAll (s : State) : State := (List.range s.ctxs.length).foldl rebindLocks s

/-- LOCK_GRANT (R155): a free lock passes to its oldest request: the descriptor is read and the ranges are pushed. -/
def execLockGrant (die num : Nat) (s : State) : Host.Outcome State Fault Refusal :=
  .next (let s := rebindAll s
  match s.mem.locks.find? (fun l => l.die == die && l.num == num) with
  | none => s
  | some l =>
    match l.holder, l.queue with
    | none, q :: _ =>
      let p := q.party
      let n := q.num
      let off := q.off
      match s.view p with
      | none => lockPop s die num none
      | some v =>
        match ctxOf s v.b with
        | none => lockPop s die num none
        | some c =>
          if c.state != .running || !c.rebind.isEmpty then s
          else
            match devRead s .front c (lockVa c n).toNat 64 with
            | (s, .error (.hold _)) => s
            | (s, .error (.fault code st2)) => raiseFrom (lockPop s die num none) p { exc code (lockVa c n) with stage2 := st2 }
            | (s, .error (.need _ _ _ _)) => wake (lockPop s die num none) p
            | (s, .ok bs) =>
              let rs : List (W64 × Nat) := (lockRanges bs).map (fun r => (BitVec.ofNat 64 r.1, r.2))
              let vas := (rs.map (fun r => (List.range r.2).map (fun k => r.1 + BitVec.ofNat 64 (128 * k)))).flatten
              if !lockDescOk bs then raiseFrom (lockPop s die num none) p (exc fILLOP)
              else if off + 128 * vas.length > v.b.decl.scratch then
                raiseFrom (lockPop s die num none) p (exc fPERM (BitVec.ofNat 64 off))
              else if (lockSoft s v.b vas).isSome then
                raiseFrom (lockPop s die num none) p (exc fATOMUNS ((lockSoft s v.b vas).getD 0))
              else if (barredLine s v.b off vas.length).isSome then
                raiseFrom (lockPop s die num none) p
                  (xExc fWINCONF (BitVec.ofNat 64 ((barredLine s v.b off vas.length).getD 0)) true false)
              else if (List.range vas.length).any (fun k => itemHeld s p.blk (.scratch p.blk (off / 128 + k))) then
                noteItems s p.blk ((List.range vas.length).map (fun k => .scratch p.blk (off / 128 + k)))
              else
                match lockLines v.b v.ctl.outcomes vas s with
                | .error (s, .hold) => s
                | .error (s, .page r) => (lockPop s die num none).modCtl p (fun c => { c with wait := .page [r], asked := r :: c.asked })
                | .error (s, .fault code va wr st2) => raiseFrom (lockPop s die num none) p { exc code va with write := wr, stage2 := st2 }
                | .ok (s, ls) =>
                  let s := lockGive (lockPop s die num (some p.blk)) p.blk n off (some p.who) q.word rs ls
                  match v.b.pair with
                  | some pr => lockGive s pr.mate n off none 0 rs ls
                  | none => s
    | _, _ => s)

/-! ## Waits (R43, R91, R165, R177, R178) -/

/-- R306: whether a party has a deferred fault that a wait delivers. -/
def hasDeferred (v : View) (f : Deferred → Bool) : Bool := (if v.isBell then v.b.bell.deferred else v.g.deferred).any (fun d => (d.side.isNone || d.side == some v.sec) && f d)

/-- R57, R362: whether what a BOW waits for has come, or a fault that the BOW is to take; with the requests sent that the look at its entry
needs. -/
def bowLook (s : State) (v : View) (h tok : Nat) : State × Bool :=
  match objLook s v (h % 2 ^ 20) with
  | .ok (t, _, o) => (t, o.gen != h / 2 ^ 20 % 2 ^ 12 || o.expected == 0 || o.phase != tok)
  | .error (.wait _ (.page _)) => (s, true)
  | .error (.wait t _) => (t, false)
  | .error _ => (s, true)

/-- R57, R362: the state in which the request has been sent that a party's BOW needs to look at its entry; none where it needs none. -/
def bowAsks (s : State) (v : View) : Option State :=
  match v.ctl.wait with
  | .bow h tok => let r := bowLook s v h tok; if r.2 || (r.1.outbox.length == s.outbox.length && r.1.mem.fab == s.mem.fab) then none else some r.1
  | _ => none

/-- R91: whether what a party waits for has come. A wait whose condition the stream itself judges afresh is left at once: it issues
its word again, and waits again if need be. -/
def waitHolds (s : State) (v : View) : Bool :=
  let ops := partyOps s v.p
  match v.ctl.wait with
  | .ready => false
  | .join => false
  | .load op | .data op => !ops.any (fun o => o.id == op && o.dst != .none)
  | .miss => missReady s v
  | .flight op => !ops.any (fun o => o.id == op && opFlying s o)
  | .page rs => rs.any (fun r => !reqOpen s r)
  | .pop ch => !(v.b.chans.getD ch []).isEmpty
  | .push ch => decide ((v.b.chans.getD ch []).length < chanDepth)
  | .cls c n =>
    let k := clsOf (BitVec.ofNat 2 c)
    decide (countOps ops k ≤ n) || hasDeferred v (fun d => d.cls == k)
  | .waitg => (countOps ops .sc == 0 && countOps ops .ac == 0 && decide (v.g.gwmax < s.ft)) || hasDeferred v (fun _ => true)
  | .fence sc =>
    (fenceReady s v sc && (sc != 5 || drainDone s v.p || !s.mem.drains.any (fun d => d.party == v.p))) || hasDeferred v (fun _ => true)
  | .bar b => barPassed s v.p b
  | .monitor _ =>
    match s.mem.monitors.find? (fun q => q.party == v.p) with
    | none => true
    | some q => q.hit.isSome || (match q.loc with
      | .scratch k _ => scratchPoison s k q.pa q.width
      | _ => physPoison s q.pa q.width)
  | .bow h tok => (bowLook s v h tok).2
  | .lock n => v.b.locks.any (fun h => h.num == n) || (lockAwaits s v.p.blk n).isNone
  | .unlk n => v.b.locks.all (fun h => h.num != n || (match h.rel with | some g => decide (g < s.ft) | none => true))
  | .hbar ph => ((s.grids[v.b.grid]?).map Grid.phase).getD 0 != ph
  | .batch n => batchDone v.b (BitVec.ofNat 32 n) || v.b.engFault.isSome
  | .ring => decide (ringFree v.b > 0)
  | .slots => (freeSlot v.b).isSome || v.b.engFault.isSome
  | .ops => decide (v.b.mops.length < 32) || v.b.engFault.isSome
  | .held line =>
    if s.mem.held.any (fun h => h.obj && h.party == v.p && h.line == line) then objFirst s v.p (line * 128)
    else !heldOn s line && !queuedOn s line && decide (leaseEnd s line ≤ s.ft)
  | .remote line => (fabOf s line).req == 0
  | .compare _ => v.ctl.cmpOk && decide (((v.b.pair.map Pair.g).getD 0) < s.ft) && v.b.outLines.all (fun l => (fabOf s l).acks == 0)
  | .forward => v.ctl.fwd
  | .atomic id => !s.mem.atomics.any (fun a => a.id == id)
  | .region ci => (match s.ctxs[ci]? with | some c => c.region.isNone | none => true)
  | .counter c => decide (countOps ops (clsOf (BitVec.ofNat 2 c)) < 1023)
  | .snatch _ => true
  | .rows row stamp => !accStalls v.b row stamp
  | .monitorFree _ sl => decide (monitorsOf s sl < monitorMax)
  | .again => true

/-- WAIT_SATISFIED (R91): a waiting party whose condition holds becomes ready; one whose condition cannot be judged asks for the line. -/
def execWaitSatisfied (p : Party) (s : State) : Host.Outcome State Fault Refusal :=
  .next (match s.view p with
  | none => s
  | some v =>
    if !blockRuns s v.b || s.cur == some p then s
    else if waitHolds s v then wake s p
    else (bowAsks s v).getD s)

end Sys2Proof.Machine
end

