-- ==== Sys2Proof/Machine/Front.lean ====
section
/-! DEFINITION. What the front end's events share: room on cores and placement (R17, R18, R30, R31, R45, R46), a block's first
state (R35), queue control blocks, and packets and their completion (R277, R278, R283). -/

namespace Sys2Proof.Machine

open Sys2Proof

/-! ## Room (R17, R18) -/

/-- R18: an amount of what a core allocates to blocks. -/
structure Room where
  groups : Nat
  vregs : Nat
  scratch : Nat
  acc : Nat
  bars : Nat
  chans : Nat
  blocks : Nat
  deriving DecidableEq, Repr

/-- R17, R18: what a block needs. -/
def Decl.room (d : Decl) : Room :=
  { groups := d.groups, vregs := d.groups * d.vregs, scratch := d.scratch, acc := d.acc, bars := d.barriers, chans := d.channels, blocks := 1 }

/-- Two amounts together. -/
def Room.add (a b : Room) : Room :=
  { groups := a.groups + b.groups, vregs := a.vregs + b.vregs, scratch := a.scratch + b.scratch, acc := a.acc + b.acc,
    bars := a.bars + b.bars, chans := a.chans + b.chans, blocks := a.blocks + b.blocks }

/-- R16, R18: whether a core holds an amount. -/
def Room.fits (a : Room) : Bool :=
  decide (a.groups ≤ 256) && decide (a.vregs ≤ 16384) && decide (a.scratch ≤ 1048576) && decide (a.acc ≤ 16384) &&
    decide (a.bars ≤ 64) && decide (a.chans ≤ 256) && decide (a.blocks ≤ 16)

/-- Nothing. -/
def Room.zero : Room := { groups := 0, vregs := 0, scratch := 0, acc := 0, bars := 0, chans := 0, blocks := 0 }

/-- R18: what the resident blocks of a core take. -/
def coreUsed (s : State) (core : Nat) : Room :=
  (s.blocks.filter (fun b => b.core == core && b.stat == .resident)).foldl (fun r b => r.add b.decl.room) Room.zero

/-- R14, R240, R269: a core in placement. -/
def corePlaced (s : State) (core : Nat) : Bool :=
  match s.cores[core]? with | some c => c.enabled && !c.quarantined | none => false

/-- R30: a core in placement that holds no block of another context. -/
def coreOpen (s : State) (ci core : Nat) : Bool :=
  corePlaced s core && !s.blocks.any (fun b => b.core == core && b.stat == .resident && b.ctx != ci)

/-! ## Virtual quads and clusters (R31, R45, R46) -/

/-- R31: the virtual quads of a placement: the granted cores of each quad, ascending. -/
def quadsOf (cores : BitVec 128) : List (List Nat) :=
  ((List.range 32).map (fun q => (List.range 4).filterMap (fun k => if cores.getLsbD (4 * q + k) then some (4 * q + k) else none))).filter
    (fun l => !l.isEmpty)

/-- R46: `n` blocks of one shape, each on the lowest-numbered of the cores that still fits it. -/
def placeIn (need : Room) : Nat → List (Nat × Room) → Option (List Nat)
  | 0, _ => some []
  | n + 1, cores =>
    match cores.find? (fun c => (c.2.add need).fits) with
    | none => none
    | some c => (placeIn need n (cores.map (fun x => if x.1 == c.1 then (x.1, x.2.add need) else x))).map (fun l => c.1 :: l)

/-- R46: the cores of a quad that may take blocks of a context, with what they hold; `empty`: as if they held nothing. -/
def quadRoom (s : State) (ci : Nat) (empty : Bool) (quad : List Nat) : List (Nat × Room) :=
  (quad.filter (fun c => if empty then corePlaced s c else coreOpen s ci c)).map (fun c => (c, if empty then Room.zero else coreUsed s c))

/-- R46: the ways in which a cluster of `n` blocks fits virtual quads, lowest-numbered quad first. -/
def clusterFits (s : State) (ci : Nat) (empty : Bool) (cores : BitVec 128) (d : Decl) (n : Nat) : List (List Nat) :=
  (quadsOf cores).filterMap (fun q => placeIn d.room n (quadRoom s ci empty q))

/-- R46, R264: the cores of a cluster, and for a paired grid those of its copy on another quad. -/
def placeCluster (s : State) (ci : Nat) (empty : Bool) (cores : BitVec 128) (d : Decl) (n : Nat) : Option (List Nat × List Nat) :=
  match clusterFits s ci empty cores d n with
  | [] => none
  | p :: rest => if d.paired then (match rest with | q :: _ => some (p, q) | [] => none) else some (p, [])

/-- R46, R259, R264, R282: whether a placement could hold a cluster of a shape at all. -/
def couldFit (s : State) (ci : Nat) (cores : BitVec 128) (d : Decl) (n : Nat) : Bool :=
  (placeCluster s ci true cores d n).isSome && (!d.paired || decide ((quadsOf cores).length ≥ 3))

/-! ## Blocks (R35, R50, R282, R286) -/

/-- R282: free spill frames of a grid; a kernel without spill areas needs none. -/
def freeFrames (s : State) (gi : Nat) (g : Grid) (n : Nat) : Option (List Nat) :=
  if g.decl.spill == 0 then some (List.replicate n 0)
  else
    let used := (s.blocks.filter (fun b => b.grid == gi && (b.stat == .resident || b.stat == .swapped))).map Block.frame
    let free := ((List.range (used.length + n)).filter (fun f => decide (f < g.spillN) && !used.contains f)).take n
    if free.length == n then some free else none

/-- R35: a bellwether at its start. -/
def Bell.start (entry : W64) (h : Vector W64 8) (age : Nat) : Bell :=
  { ctl := Ctl.start entry age, w := Vector.replicate 64 0, q := 1, h := h, k := Vector.replicate 8 0, mode := 0, mbatch := 1,
    rprog := Vector.replicate 4 0, tbase := 0, ops := [], gwmax := 0, lastFt := 0, hbar := none, deferred := [], yieldUntil := 0 }

/-- R35, R50, R70, R286: a block at its start. -/
def Block.start (s : State) (ci gi lin core frame : Nat) (g : Grid) (recs : List (List Byte)) (pair : Option Pair) : Block :=
  let d := g.decl
  let mask (k : Nat) : W32 := if d.node then maskOf (fun l => decide (32 * k + l < recs.length)) else 0xFFFFFFFF#32
  let gstat : W32 := (if d.idem then 0x80#32 else 0) ||| (if d.paired then 0x40#32 else 0)
  let clean := match s.cores[core]? with | some c => !(c.ctx == some ci && c.used) | none => true
  { ctx := ci, grid := gi, lin := lin, stat := .resident, core := core, decl := d, frame := frame, recs := recs,
    bell := Bell.start d.bellEntry g.h s.ft
    groups := (List.range d.groups).map (fun k => Group.start d.groupEntry d.vregs (mask k) gstat s.ft)
    chans := List.replicate d.channels []
    bars := List.replicate d.barriers { exp := 0, arr := 0, phase := false, users := 0, standing := 0, counted := 0 }
    scratch := if d.node then cellsWrite [] 0x800 recs.flatten else []
    acc := [], accClean := clean, wdesc := Vector.replicate 8 0, tags := [], creg := 0, resv := 0, head := 0, tail := 0,
    copies := [], mops := [], retired := 1, pendFmt := Vector.replicate 2 none, bankDesc := Vector.replicate 2 none, reload := [],
    engFault := none, gOut := 0, outLines := [], locks := [], pair := pair, newborn := true }

/-- R30, R35: a core that takes a block of a context. -/
def occupy (s : State) (ci core : Nat) : State := s.modCore core (fun c => { c with ctx := some ci, used := true })

/-- R80: the weight banks that hold tiles of blocks emptied: a block that comes back replays its WLDs. -/
def dropBanks (s : State) (f : Nat → Bool) : State :=
  { s with cores := s.cores.map (fun c => { c with banks := c.banks.map (fun k => k.filter (fun x => !f x.blk)) }) }

/-- A new block. -/
def addBlock (s : State) (b : Block) : State := occupy { s with blocks := s.blocks ++ [b] } b.ctx b.core

/-- R264: the pair part of a copy. -/
def Pair.start (mate : Nat) (primary : Bool) : Pair :=
  { mate := mate, primary := primary, shadow := [], runSum := 0, failed := false, isThird := false, run3 := none, g := 0, points := [], passed := [] }

/-- R45, R264, R267: a cluster dispatched on its cores: linear indices from `lin` on, and for a paired grid both copies of each, which
start from their first pair snapshots. -/
def startCluster (s : State) (ci gi : Nat) (g : Grid) (lin : Nat) (recs : List (List Byte)) (frames : List Nat) (place : List Nat × List Nat) : State :=
  (place.1.zipIdx).foldl (fun s (x : Nat × Nat) =>
    let k := s.blocks.length
    match place.2[x.2]? with
    | none => addBlock s (Block.start s ci gi (lin + x.2) x.1 (frames.getD x.2 0) g recs none)
    | some c2 =>
      let p := Block.start s ci gi (lin + x.2) x.1 (frames.getD (2 * x.2) 0) g recs (some (Pair.start (k + 1) true))
      let q := Block.start s ci gi (lin + x.2) c2 (frames.getD (2 * x.2 + 1) 0) g recs (some (Pair.start k false))
      let s := addBlock (addBlock s p) q
      { s with snaps := (k, p) :: (k + 1, q) :: s.snaps }) s

/-- R52, R54: whether a party has ended. -/
def partyEnded (s : State) (p : Party) : Bool :=
  match s.view p with
  | none => true
  | some v => v.ctl.ended || (!v.isBell && (v.g.retired || (v.sec && !v.g.split)))

/-! ## Queues and packets (R277, R278, R281, R283) -/

/-- The queue of a context as the sequencer has walked it. -/
def queueOf (s : State) (ci q : Nat) : Option Queue := s.fe.queues.find? (fun x => x.ctx == ci && x.queue == q)

/-- R277: HEAD, DONE, TAIL, STATE and PROG written back to the QCB, as a release at sys scope: behind all that the device has written for
the function before. -/
def writeQcb (s : State) (x : Queue) : State :=
  let fn := match s.ctxs[x.ctx]? with | some c => c.fn | none => 0
  devSend s (.ia fn (x.qcb + 0x0A))
    (leBytes 2 x.state ++ leBytes 4 x.head.toNat ++ leBytes 4 x.done.toNat ++ leBytes 4 x.tail.toNat ++ leBytes 8 x.prog) none true

/-- R277: a queue changed, and its QCB with it. -/
def setQueue (s : State) (ci q : Nat) (f : Queue → Queue) : State :=
  match queueOf s ci q with
  | none => s
  | some x =>
    writeQcb (s.modFe (fun fe => { fe with queues := fe.queues.map (fun y => if y.ctx == ci && y.queue == q then f y else y) })) (f x)

/-- A little-endian field of a packet. -/
def pktNat (body : List Byte) (off n : Nat) : Nat := leNat ((body.drop off).take n)
/-- R281: TYPE. -/
def pktType (body : List Byte) : Nat := pktNat body 0 1
/-- R281: the slots that a packet occupies. -/
def pktSlots (body : List Byte) : Nat := pktNat body 0 4 / 2 ^ 10 % 4 + 1
/-- R281: WAITPREV. -/
def pktWaits (body : List Byte) : Bool := (pktNat body 0 4).testBit 8
/-- R281: EVENT. -/
def pktEvent (body : List Byte) : Bool := (pktNat body 0 4).testBit 9
/-- R281: the slots less one that a type gives; none for a reserved type. -/
def pktLen (t : Nat) : Option Nat := if t == 1 || t == 2 then some 1 else if t ≤ 0x0B then some 0 else none

/-- R277, R278: DONE past every packet that has completed, PROG that of the oldest packet started and not complete, and STATE. -/
def Queue.advance (x : Queue) : Queue :=
  let left := x.started.dropWhile Pkt.complete
  { x with
    started := left
    done := match left with | p :: _ => BitVec.ofNat 32 p.slot | [] => x.head
    prog := match left with | p :: _ => p.step | [] => 0
    state := if x.state == 0 || x.state == 1 then (if left.isEmpty && x.head == x.tail then 0 else 1) else x.state }

/-- A packet that the sequencer has started, and knows. -/
def pktOf (s : State) (q : PktRef) : Option Pkt :=
  match queueOf s q.ctx q.queue with
  | some x => x.started.find? (fun p => p.slot == q.slot && !p.complete && p.len != 0)
  | none => none

/-- One started packet changed. -/
def modPkt (s : State) (q : PktRef) (f : Pkt → Pkt) : State :=
  setQueue s q.ctx q.queue (fun x => Queue.advance { x with started := x.started.map (fun p => if p.slot == q.slot then f p else p) })

/-- R283: a packet complete: its completion record, its event, and the queue's DONE. -/
def completePkt (s : State) (q : PktRef) (status info : Nat) : State :=
  match pktOf s q, s.ctxs[q.ctx]? with
  | some p, some c =>
    let rec' := leBytes 8 s.ft ++ leBytes 1 status ++ leBytes 3 0 ++ leBytes 4 info
    let s := if pktNat p.body 8 8 == 0 then s else devWrite s q.ctx (pktNat p.body 8 8) rec'
    let s := if pktEvent p.body then postEvent s c.fn 4 status q.queue c.pasid q.slot else s
    modPkt s q (fun p => { p with complete := true })
  | _, _ => s

/-- R278: the step that a started packet has reached. -/
def pktStep (s : State) (q : PktRef) (n : Nat) : State := modPkt s q (fun p => { p with step := n })

/-! ## Closing accounts (R55, R186, R244) -/

/-- R176, R244: whether an operation of a party is still under way: not one whose instruction is stopped or whose fault a handler
has taken. -/
def opOpen (s : State) (o : OutOp) : Bool :=
  !o.done && (opFlying s o || s.mem.posted.any (fun x => x.op == o.id) || (!o.stopped && o.cls != .cc))

/-- The operations of a block's bellwether and groups. -/
def blockOps (b : Block) : List OutOp := b.bell.ops ++ (b.groups.map Group.ops).flatten

/-- R10, R55: the latest GWCT of a block's writes. -/
def blockGw (b : Block) : Nat := (b.groups.map Group.gwmax).foldl max b.bell.gwmax

end Sys2Proof.Machine
end

