-- ==== Sys2Proof/Machine/EvGrid.lean ====
section
/-! DEFINITION. Grids, nodes and blocks: dispatch, swapping, ends, completions and gathering (R32 to R35, R45 to R59, R285 to R287). -/

namespace Sys2Proof.Machine

open Sys2Proof

/-! ## The grid barrier (R49) -/

/-- R32: the blocks of a grid. -/
def gridTotal (g : Grid) : Nat := g.dimX * g.dimY * g.dimZ

/-- The blocks of a grid that have not ended, with their numbers. -/
def gridBlocks (s : State) (gi : Nat) : List (Block × Nat) := (s.blocks.zipIdx).filter (fun x => x.1.grid == gi && x.1.stat != .ended)

/-- R34, R49, R257: every block of a grid has been dispatched. -/
def allDispatched (g : Grid) : Bool := (g.node.isSome || decide (g.next ≥ gridTotal g)) && g.redo.isEmpty && g.formed.isEmpty

/-- R49, R267: a block whose arrival a phase awaits: in a paired grid the primary arrives for its copy. -/
def arrives (b : Block) : Bool := match b.pair with | some p => p.primary && !p.isThird | none => true

/-- R49, R310: a phase complete; the next begins. -/
def nextPhase (s : State) (grid : Nat) : State := s.modGrid grid (fun g => { g with phase := g.phase + 1, arrived := [], told := none })

/-- R310: every block of a grid here has arrived or ended, and the placement spans packages: one arrival packet goes out for the phase. Where
quarantine leaves the owner no route, the context stops with PERM. -/
def tellBarrier (s : State) (grid : Nat) (g : Grid) : State :=
  let ow := ownerOf s g.ctx
  if linkShut s ow .barriers then
    match s.ctxs[g.ctx]? with
    | some c =>
      if c.state != .running then s
      else (beginStop (postEvent s c.fn 3 fPERM 0 c.pasid 0) g.ctx .faultStop).modCtx g.ctx (fun c => { c with stopCode := fPERM })
    | none => s
  else if g.told == some g.phase then s
  else (s.modGrid grid (fun g => { g with told := some g.phase })).sendFab ow .barriers (.barrier grid g.phase)

/-- HBAR_COMPLETION (R49, R310): a phase completes when every block of the grid has arrived or ended; that of a grid part of whose blocks
another package runs (R263), when the second tier declares it, after the package's arrival packet. -/
def execHbarCompletion (msg : BarrierMsg) (s : State) : Host.Outcome State Fault Refusal :=
  .next (match s.grids[msg.grid]? with
  | none => s
  | some g =>
    if allDispatched g && !g.arrived.isEmpty && (gridBlocks s msg.grid).all (fun x => !arrives x.1 || g.arrived.contains x.2) then
      if !g.moved then nextPhase s msg.grid
      else if msg.pod && g.told == some g.phase then nextPhase s msg.grid
      else tellBarrier s msg.grid g
    else s)

/-! ## Swapping (R57) -/

/-- R57, R165, R378: whether a party waits in MWAIT, HBAR or BOW; an MWAIT that has found no free monitor waits so too, and a CNTW does
not. -/
def swapWait (c : Ctl) : Bool :=
  match c.wait with
  | .monitor mwait | .monitorFree mwait _ => mwait
  | .hbar _ => true
  | .bow _ _ => true
  | _ => false

/-- R57: a block whose parties all wait so, or have retired, and one of which still runs. -/
def swappable (s : State) (x : Block × Nat) : Bool :=
  let ps := (partiesOf x.1 x.2).filter (fun p => !partyEnded s p)
  x.1.stat == .resident && x.1.copies.all (fun c => !itemHeld s x.2 (.scratch x.2 (32 * (c.idx % 64) / 128))) && !ps.isEmpty && ps.all (fun p => match s.ctl? p with | some c => swapWait c | none => true)

/-- R57: the clock in which a block became swappable. -/
def swapAge (s : State) (x : Block × Nat) : Nat :=
  ((partiesOf x.1 x.2).filterMap (fun p => (s.ctl? p).map Ctl.age)).foldl max 0

/-- R45: the blocks of one cluster that have not ended. -/
def clusterBlocks (s : State) (gi : Nat) (g : Grid) (lin : Nat) : List (Block × Nat) :=
  (gridBlocks s gi).filter (fun x => x.1.lin / g.cluster == lin / g.cluster)

/-- R57: the condition of each waiting party of a swapped block holds; a party that waits in no such way is ready. -/
def swapReady (s : State) (x : Block × Nat) : Bool :=
  x.1.stat == .swapped && (partiesOf x.1 x.2).all (fun p =>
    partyEnded s p || (match s.view p with | some v => !swapWait v.ctl || waitHolds s v | none => true))

/-- R57: the parties of a swapped block whose BOW needs a request to look at its entry. -/
def swapAsks (s : State) (x : Block × Nat) : List View :=
  if x.1.stat != .swapped then []
  else (partiesOf x.1 x.2).filterMap (fun p => (s.view p).bind (fun v => if (bowAsks s v).isSome then some v else none))

/-- R57, R80, R162: blocks saved to the swap area; the weight banks they loaded are not. Their copies and streams stop. -/
def swapBlocks (s : State) (l : List (Block × Nat)) : State :=
  dropBanks (l.foldl (fun s x => (saveProgs s x.2 x.1).modBlock x.2 (fun b => if b.stat == .resident then
      { b with stat := .swapped, mops := b.mops.map (fun o => { o with entered := false }) } else b)) s)
    (fun k => l.any (fun x => x.2 == k))

/-! ## Dispatch (R34, R46, R50, R51, R257, R286) -/

/-- R257: the cores of the virtual quad that holds other blocks of a cluster, none when it has no other resident block. -/
def clusterQuad (s : State) (gi : Nat) (g : Grid) (lin : Nat) (other : Bool) (cores : BitVec 128) : Option (List Nat) :=
  match (clusterBlocks s gi g lin).find? (fun x => x.1.stat == .resident && (match x.1.pair with | some p => p.primary != other | none => true)) with
  | none => none
  | some x => (quadsOf cores).find? (fun q => q.contains x.1.core)

/-- R257: a freed block dispatched again at its cluster's quad; none when it does not fit now. -/
def redoBlock (s : State) (ci gi : Nat) (c : Ctx) (g : Grid) (lin : Nat) (recs : List (List Byte)) : Option State :=
  let fits : List (List Nat) :=
    match (if g.cluster == 1 then none else clusterQuad s gi g lin false c.desc.cores) with
    | some q => (placeIn g.decl.room 1 (quadRoom s ci false q)).toList
    | none => clusterFits s ci false c.desc.cores g.decl 1
  match fits.head?, freeFrames s gi g 1 with
  | some p, some fr => some (startCluster s ci gi g lin recs fr (p, []))
  | _, _ => none

/-- R34, R46, R50, R57: the next cluster of a grid placed; none when it has none to place or none that fits now. Swapped blocks whose wait
is satisfied go ahead of all that it has to dispatch, and freed blocks ahead of the rest. -/
def dispatchNext (s : State) (ci gi : Nat) (c : Ctx) (g : Grid) : Option State :=
  if (gridBlocks s gi).any (swapReady s) then none
  else
  match g.redo, g.formed with
  | lin :: rest, _ => (redoBlock s ci gi c g lin []).map (fun s => s.modGrid gi (fun g => { g with redo := rest }))
  | [], recs :: rest =>
    if c.moving then none
    else
      (redoBlock s ci gi c g g.next recs).map (fun s => s.modGrid gi (fun g => { g with formed := rest, next := g.next + 1 }))
  | [], [] =>
    if c.moving || g.node.isSome || decide (g.next ≥ gridTotal g) then none
    else
      let n := min g.cluster (gridTotal g - g.next)
      match placeCluster s ci false c.desc.cores g.decl n, freeFrames s gi g (if g.decl.paired then 2 * n else n) with
      | some p, some fr => some ((startCluster s ci gi g g.next [] fr p).modGrid gi (fun g => { g with next := g.next + n }))
      | _, _ => none

/-- R278: PROG of a launch: the next linear index to dispatch. -/
def noteDispatch (s : State) (gi : Nat) : State :=
  match s.grids[gi]? with
  | some g => (match g.pkt with | some q => pktStep s q g.next | none => s)
  | none => s

/-- R34, R278: the grids of a context that are not complete, in the order in which their launches were started. -/
def gridOrder (s : State) (ci : Nat) : List (Grid × Nat) :=
  sortBy (fun x y => decide (x.1.seq < y.1.seq)) ((s.grids.zipIdx).filter (fun x => x.1.ctx == ci && !x.1.complete))

/-- BLOCK_DISPATCH (R34, R273): room is offered to the context's grids in the order in which their launches came. -/
def execBlockDispatch (ctx : Nat) (s : State) : Host.Outcome State Fault Refusal :=
  .next (match s.ctxs[ctx]? with
  | none => s
  | some c =>
    if c.state != .running || s.fe.restart then s
    else
      match (gridOrder s ctx).findSome? (fun (x : Grid × Nat) => (dispatchNext s ctx x.2 c x.1).map (fun t => (t, x.2))) with
      | some (t, gi) => noteDispatch t gi
      | none => s)

/-- R57: the clusters of a grid that may be swapped. -/
def swapClusters (s : State) (gi : Nat) (g : Grid) : List (List (Block × Nat)) :=
  let firsts := (gridBlocks s gi).filter (fun x => x.1.stat == .resident &&
    !(gridBlocks s gi).any (fun y => y.1.lin / g.cluster == x.1.lin / g.cluster && decide (y.2 < x.2)))
  (firsts.map (fun x => clusterBlocks s gi g x.1.lin)).filter (fun l => l.all (swappable s))

/-- R57: the one of the clusters that has waited longest. -/
def longestWait (s : State) (l : List (List (Block × Nat))) : Option (List (Block × Nat)) :=
  let age (c : List (Block × Nat)) : Nat := (c.map (swapAge s)).foldl max 0
  l.foldl (fun h c => match h with | none => some c | some d => if age c < age d then some c else some d) none

/-- R80: the banks that a block has loaded. -/
def Block.loaded (b : Block) : List BankLoad :=
  ([false, true].filter (fun k => (b.bankDesc.toList.getD (if k then 1 else 0) none).isSome)).map (fun k => { bank := k, req := none, outcomes := [] })

/-- R57, R80, R135, R240, R260: swapped blocks of a cluster resident again on cores: their banks are to be reloaded, and the streams that they
had begun re-enter. -/
def unswap (s : State) (l : List (Block × Nat)) (cores : List Nat) : State :=
  ((l.zip cores)).foldl (fun s (x : (Block × Nat) × Nat) =>
    let s := occupy (s.modBlock x.1.2 (fun b => { b with stat := .resident, core := x.2, reload := b.loaded })) x.1.1.ctx x.2
    (x.1.1.mops.filter (fun o => o.isMstr && o.prog != 0)).foldl (fun s o => reenter s x.1.2 o.id) s) s

/-- R45, R264: which copy of a paired cluster a block belongs to. -/
def Block.side (b : Block) : Option Bool := b.pair.map Pair.primary

/-- R57: the swapped blocks that return with a block: its cluster's, of its own copy. -/
def returning (s : State) (b : Block) (g : Grid) : List (Block × Nat) :=
  (clusterBlocks s b.grid g b.lin).filter (fun x => x.1.stat == .swapped && x.1.side == b.side)

/-- R45, R264: the virtual quads that a returning block may take: that of its cluster's resident blocks, else any that does not hold
the cluster's copy. -/
def returnQuads (s : State) (c : Ctx) (b : Block) (g : Grid) : List (List Nat) :=
  let here (same : Bool) : Option (Block × Nat) :=
    (clusterBlocks s b.grid g b.lin).find? (fun x => x.1.stat == .resident && (x.1.side == b.side) == same)
  match here true with
  | some x => (quadsOf c.desc.cores).filter (fun (q : List Nat) => q.contains x.1.core)
  | none => (quadsOf c.desc.cores).filter (fun (q : List Nat) => match here false with | some x => !q.contains x.1.core | none => true)

/-- R57, R487: a swapped block that may return: its wait is satisfied, and no block of its grid with a lower linear index is ready. -/
def returns (s : State) (c : Ctx) (b : Block) (blk : Nat) : Bool :=
  c.state == .running && swapReady s (b, blk) && !(gridBlocks s b.grid).any (fun x => swapReady s x && decide (x.1.lin < b.lin))

/-- R46, R57: the cores that the cluster of a swapped block would now take. -/
def backCores (s : State) (c : Ctx) (g : Grid) (b : Block) : Option (List Nat) :=
  (returnQuads s c b g).findSome? (fun (q : List Nat) => placeIn b.decl.room (returning s b g).length (quadRoom s b.ctx false q))

/-- R57: the cores on which a swapped block returns with its cluster, when it may and fits now. -/
def returnCores (s : State) (c : Ctx) (g : Grid) (b : Block) (blk : Nat) : Option (List Nat) :=
  if !returns s c b blk then none else backCores s c g b

/-- SWAP_RETURN (R57, R487): a swapped block whose wait is satisfied returns, with its cluster, when it fits; of a grid the lowest
linear index first. -/
def execSwapReturn (blk : Nat) (s : State) : Host.Outcome State Fault Refusal :=
  .next (match s.block? blk with
  | none => s
  | some b =>
    match s.grids[b.grid]?, s.ctxs[b.ctx]? with
    | some g, some c =>
      (match returnCores s c g b blk with
      | none => (swapAsks s (b, blk)).foldl (fun s v => (bowAsks s v).getD s) s
      | some cores => unswap s (returning s b g) cores)
    | _, _ => s)

/-- R57, R58: whether a grid can place its next cluster now: one that returns, or one to dispatch. -/
def gridMoves (s : State) (ci gi : Nat) (c : Ctx) (g : Grid) : Bool :=
  (gridBlocks s gi).any (fun x => x.1.stat == .swapped && (returnCores s c g x.1 x.2).isSome) || (dispatchNext s ci gi c g).isSome

/-- SWAP_OUT (R57, R58): the cluster that has waited longest is saved when the grid's next dispatch, or a return that goes ahead of it, needs
room that swapping can give (notes/assumptions 66: the area takes what R58 promises). -/
def execSwapOut (grid : Nat) (s : State) : Host.Outcome State Fault Refusal :=
  .next (match s.grids[grid]? with
  | none => s
  | some g =>
    match s.ctxs[g.ctx]? with
    | none => s
    | some c =>
      let l := swapClusters s grid g
      match longestWait s l with
      | none => s
      | some first =>
        if c.state == .running && !gridMoves s g.ctx grid c g && gridMoves (swapBlocks s l.flatten) g.ctx grid c g then swapBlocks s first else s)

/-! ## Ends (R54, R55, R157) -/

/-- R54, R391: whether a block has done everything: its parties have ended, and their accesses, its copies and its matrix operations are
complete. -/
def blockFinished (s : State) (b : Block) (blk : Nat) : Bool :=
  b.stat == .resident && (partiesOf b blk).all (partyEnded s) && b.copies.isEmpty && b.mops.isEmpty && (blockOps b).all OutOp.done

/-- R266: a paired block at its end has passed its last compare point. -/
def pairPassed (b : Block) : Bool := match b.pair with | some p => b.bell.ctl.cmpOk && p.shadow.isEmpty | none => true

/-- R263: a revision move is complete when the last block on the source has ended, and no launch of its rings has still to pass. -/
def endMove (s : State) (ci : Nat) : State :=
  if s.blocks.any (fun b => b.ctx == ci && b.stat != .ended) ||
      s.fe.queues.any (fun q => q.ctx == ci && q.head != q.tail && decide (q.state < 2)) then s
  else s.modCtx ci (fun c => { c with moving := false })

/-- R54: a block's resources freed. -/
def freeBlock (s : State) (blk : Nat) : State :=
  let ci := ((s.block? blk).map Block.ctx).getD 0
  let s := endMove (s.modBlock blk (fun b => { b with stat := .ended, locks := [], copies := [], mops := [] })) ci
  s.modMem (fun m => { m with monitors := m.monitors.filter (fun q => q.party.blk != blk) })

/-- R157, R265: the write-back of a lock that a block holds at its end carried on. -/
def endBack (s : State) (b : Block) (v : View) (h : HeldLock) : State :=
  match runBack s v h none 0 with
  | .ok s => s
  | .error (.wait s _) => s
  | .error (.trap s x) => stopContext s b.ctx x.code x.k2.toNat b.lin 0xFF 0xFF
  | .error _ => s

/-- BLOCK_END (R54, R157, R230, R265 to R267): a block whose parties have ended performs UNLK on every lock it still holds, and leaves its core;
a copy puts their write-backs into its shadow lines before the compare point of its end. -/
def execBlockEnd (blk : Nat) (s : State) : Host.Outcome State Fault Refusal :=
  .next (match s.block? blk, s.view { blk := blk, who := .bell } with
  | some b, some v =>
    match ctxOf s b with
    | none => s
    | some c =>
      if c.state != .running || !blockFinished s b blk then s
      else
        match b.locks.find? (fun h => !h.written) with
        | some h => endBack s b v h
        | none =>
          if !pairPassed b then s
          else
            match b.locks with
            | [] => freeBlock s blk
            | h :: _ =>
              if (match b.pair with | some p => !p.primary | none => false) then s.modBlock blk (fun b => { b with locks := [] })
              else if h.rel.getD 0 < s.ft then lockFree s blk c h.num else s
  | _, _ => s)

/-- R55, R199: the writes of a grid's blocks, of their engines and copies too, are complete and past their times. -/
def gridDrained (s : State) (gi : Nat) : Bool :=
  (s.blocks.filter (fun b => b.grid == gi)).all (fun b =>
    b.stat == .ended && (blockOps b).all (fun o => o.done || o.cls == .cc) && decide (blockGw b < s.ft) && linesPassed s b.outLines)

/-- R55, R186: a grid's host drain begun: its zero-length read is issued. -/
def gridDrain (s : State) (gi : Nat) (g : Grid) : State :=
  let fn := match s.ctxs[g.ctx]? with | some c => c.fn | none => 0
  (s.send (.flushRead fn (((s.fns[fn]?).map Fn.flushaddr).getD 0))).modGrid gi (fun g => { g with drain := some (s.ft, s.blocks.length) })

/-- R55, R186: whether a grid's host drain has completed since the last block was made (notes/assumptions 84). -/
def drainOver (s : State) (g : Grid) : Bool := match g.drain with | some (t, n) => decide (t < s.ft) && n == s.blocks.length | none => false

/-- R263, R282: a grid that is complete, whose packet is complete with it; a launch part of which has passed to the target of a revision
move is the target's to complete (notes/assumptions 94). -/
def endGrid (s : State) (gi : Nat) (g : Grid) : State :=
  let s := s.modGrid gi (fun g => { g with complete := true, pkt := none })
  match g.pkt with
  | some q => if g.moved then modPkt s q (fun p => { p with complete := true }) else completePkt s q 0 0
  | none => s

/-- GRID_COMPLETE (R55, R186, R283): a grid whose last block has ended completes after the release at sys scope: its writes have passed
their times, and the host drain has completed. A GRAPH packet's record waits for its nodes. -/
def execGridComplete (grid : Nat) (s : State) : Host.Outcome State Fault Refusal :=
  .next (match s.grids[grid]? with
  | none => s
  | some g =>
    if g.complete || g.node.isSome || !allDispatched g || !gridDrained s grid || s.fe.restart then s
    else if g.graph then s.modGrid grid (fun g => { g with complete := true })
    else
      match g.drain with
      | none => gridDrain s grid g
      | some (t, _) =>
        if s.ft ≤ t then s else endGrid s grid g)

/-! ## Nodes (R50, R286, R287) -/

/-- R287: a node that holds no record and has no block formed, resident or swapped. -/
def nodeQuiet (s : State) (n : Node) : Bool :=
  (s.fe.gathers.filter (fun g => g.ctx == n.ctx && g.node == n.index)).all (fun g => g.recs.isEmpty && g.spilled.isEmpty) &&
    (match s.grids[n.grid]? with | some g => g.formed.isEmpty && g.redo.isEmpty | none => true) && (gridBlocks s n.grid).isEmpty

/-- R287: a GRAPH packet's grid has completed, its nodes are quiescent, and the writes of their blocks have passed their times. -/
def graphQuiet (s : State) (g : Grid) : Bool :=
  g.graph && g.complete && (s.fe.nodes.filter (fun n => n.ctx == g.ctx)).all (fun n => nodeQuiet s n && gridDrained s n.grid)

/-- GRAPH_COMPLETE (R55, R186, R287): a GRAPH packet whose grid has completed completes when every node of its context is quiescent, after
the host drain of that moment. -/
def execGraphComplete (grid : Nat) (s : State) : Host.Outcome State Fault Refusal :=
  .next (match s.grids[grid]? with
  | none => s
  | some g =>
    if !graphQuiet s g || s.fe.restart then s
    else if drainOver s g then endGrid s grid g
    else
      match g.drain with
      | some (_, n) => if n == s.blocks.length then s else gridDrain s grid g
      | none => gridDrain s grid g)

/-- R282, R288: a kernel's declared resources from its descriptor's 64 bytes. -/
def declOf (k : Kernel) (bs : List Byte) : Decl :=
  let f (off n : Nat) : Nat := leNat ((bs.drop off).take n)
  { groups := f 12 1, vregs := 8 * f 13 1, sregs := f 14 1, scratch := 4096 * f 16 2, acc := 8 * f 18 2, barriers := f 15 1,
    channels := f 20 1, chanMask := BitVec.ofNat 16 (f 22 2), access := f 21 1, spill := 4096 * f 24 2,
    idem := (f 26 2).testBit 0, paired := (f 26 2).testBit 1, node := (f 26 2).testBit 2, recSize := f 28 2,
    bellEntry := k.text + BitVec.ofNat 64 (f 4 4), groupEntry := k.text + BitVec.ofNat 64 (f 8 4),
    dispatch := if f 32 4 == 0 then 0 else (k.rodata + BitVec.ofNat 64 (f 32 4)).toNat }

/-- R50, R285: a node registered, with the grid of its formed blocks. -/
def registerNode (s : State) (ci index timeout : Nat) (d : Decl) : State :=
  let g : Grid := { ctx := ci, dimX := 1, dimY := 1, dimZ := 1, cluster := 1, decl := d, h := Vector.replicate 8 0, spillN := 0,
                    spillBase := 0, next := 0, redo := [], phase := 0, arrived := [], told := none, node := some index, formed := [], pkt := none,
                    graph := false, complete := false, drain := none, seq := 0, moved := false }
  let n : Node := { ctx := ci, index := index, decl := d, timeout := 1000 * (if timeout == 0 then 20 else timeout), grid := s.grids.length,
                    replace := none }
  { s with grids := s.grids ++ [g] }.modFe (fun f => { f with nodes := n :: f.nodes.filter (fun m => !(m.ctx == ci && m.index == index)) })

/-- NODE_REPLACE (R287): the node that a waiting NODE packet registers replaces the old one once that is quiescent. -/
def execNodeReplace (ctx node : Nat) (s : State) : Host.Outcome State Fault Refusal :=
  .next (match s.fe.nodes.find? (fun n => n.ctx == ctx && n.index == node) with
  | none => s
  | some n =>
    match n.replace with
    | none => s
    | some (q, d) =>
      match pktOf s q with
      | some p => if nodeQuiet s n && !s.fe.restart then completePkt (registerNode s ctx node (pktNat p.body 18 2) d) q 0 0 else s
      | none => s.modFe (fun f => { f with nodes := f.nodes.map (fun m => if m.ctx == ctx && m.index == node then { m with replace := none } else m) }))

/-- R50, R286: the records of a gatherer. -/
def gatherOf (s : State) (ctx node die : Nat) : Option Gather :=
  s.fe.gathers.find? (fun g => g.ctx == ctx && g.node == node && g.die == die)

/-- R59: a gatherer whose buffer holds no record of a node has those that its next block takes ready from the heap. -/
def unspill (s : State) (n : Node) (g : Gather) : State :=
  if !g.recs.isEmpty then s
  else
    let k := 32 * n.decl.groups
    s.modFe (fun f => { f with gathers := f.gathers.map (fun x =>
      if x.ctx == g.ctx && x.node == g.node && x.die == g.die then { x with recs := x.spilled.take k, spilled := x.spilled.drop k } else x) })

/-- GATHER_TIMEOUT (R50, R59, R286): the timeout has lapsed since the oldest record held came: a block forms, of spilled records where the
buffer holds none. -/
def execGatherTimeout (ctx node die : Nat) (s : State) : Host.Outcome State Fault Refusal :=
  .next (match s.fe.nodes.find? (fun n => n.ctx == ctx && n.index == node), gatherOf s ctx node die with
  | some n, some g =>
    (match (g.recs ++ g.spilled).head? with
    | some r => if r.1 + n.timeout ≤ s.ft then formBlocks (unspill s n g) ctx node die true 1 else s
    | none => s)
  | _, _ => s)

/-- SPILL_RETURN (R286): the oldest spilled record returns to the buffer when its share has room, and a full block forms. -/
def execSpillReturn (ctx node die : Nat) (s : State) : Host.Outcome State Fault Refusal :=
  .next (match gatherOf s ctx node die, s.ctxs[ctx]? with
  | some g, some c =>
    (match g.spilled with
    | [] => s
    | r :: rest =>
      if (gatherUsed s ctx die).1 + r.2.length ≤ gatherShare c.desc.cores die then
        let s := s.modFe (fun f => { f with gathers := f.gathers.map (fun x =>
          if x.ctx == ctx && x.node == node && x.die == die then { x with recs := x.recs ++ [r], spilled := rest } else x) })
        formBlocks s ctx node die false 1
      else s)
  | _, _ => s)

end Sys2Proof.Machine
end

