-- ==== Sys2Proof/Machine/EvCkpt.lean ====
section
/-! DEFINITION. Stops, closure, cuts, increments, rollback, resuming and paired execution (11_checkpoint R242 to R270, R487, R488). -/

namespace Sys2Proof.Machine

open Sys2Proof

/-! ## Stop requests (R242, R256) -/

/-- R256: a pre-emption asked for: a cut after which the context does not go on; without a chain the context is stopped and
discarded. -/
def requestPreempt (s : State) (ci : Nat) : State :=
  match s.ctxs[ci]? with
  | none => s
  | some c =>
    if c.desc.chain == 0 then beginStop s ci .discard
    else if c.state != .running then s
    else requestCut (s.modCtx ci (fun c => { c with preempt := true })) ci

/-- STOP_REQUEST (R242): a stop request takes effect by its cause. -/
def execStopRequest (ctx : Nat) (cause : StopCause) (s : State) : Host.Outcome State Fault Refusal :=
  .next (match s.ctxs[ctx]? with
  | none => s
  | some c =>
    match cause with
    | .cut => requestCut s ctx
    | .preempt => requestPreempt s ctx
    | k => if c.state == .running || c.state == .stopping then beginStop s ctx k else s)

/-- CHECKPOINT_INTERVAL (R245): the interval of a context expires and a cut is asked for. -/
def execCheckpointInterval (ctx : Nat) (s : State) : Host.Outcome State Fault Refusal :=
  .next (match s.ctxs[ctx]? with
  | none => s
  | some c =>
    if c.nextCkpt == 0 || decide (s.ft < c.nextCkpt) || c.state != .running then s
    else (requestCut s ctx).modCtx ctx (fun c => { c with nextCkpt := s.ft + 1000000 * c.desc.ckptms }))

/-! ## The cut (R246 to R248) -/

/-- R247: the partials of a context's cores sealed by its cut. -/
def sealHerd (s : State) (ci : Nat) (cores : List Nat) : State :=
  s.modMem (fun m => { m with
    herd := m.herd.map (fun h => { h with
      sealedParts := h.sealedParts ++ h.parts.filter (fun p => cores.contains p.1)
      sealers := h.sealers ++ (h.parts.filter (fun p => cores.contains p.1)).map (fun p => (p.1, ci))
      parts := h.parts.filter (fun p => !cores.contains p.1) })
    poison := m.poison.map (fun l => match l with | .herd k c => if cores.contains c then .herdSealed k c else l | l => l) })

/-- R245, R246, R248: the increment that a cut opens. -/
def openIncrement (s : State) (c : Ctx) (t : Nat) : Increment :=
  let items := cutItems c
  { n := c.interval, time := t, prev := c.lastCommit, featmask := Config.featmask, below := s.nextId, blocks := [], late := [], marks := [],
    mons := [], todo := (items.map subItems).flatten, items := items,
    snatch := [], recalls := recalledLines s, unlks := [], tables := [], grids := [], queues := [], nodes := [], gathers := [], staged := false,
    closed := false, committed := false, parts := [], pieces := [] }

/-! ### Staging (R246) -/

/-- R243: the LOCKs whose grant push the stop has met complete: their saved PCs lie past them. -/
def passLocks (s : State) (ci : Nat) : State :=
  ((s.blocks.zipIdx).filter (fun x => x.1.ctx == ci && x.1.stat == .resident)).foldl (fun s x =>
    x.1.locks.foldl (fun s h =>
      match h.asker with
      | none => s
      | some w =>
        match s.view { blk := x.2, who := w } with
        | none => s
        | some v =>
          { retire (s.modBlock x.2 (fun b => { b with locks := b.locks.map (fun y => if y.num == h.num then { y with asker := none } else y) }))
              v h.word .invalid (v.ctl.pc + 4) with cur := s.cur }) s) s

/-- R473: the locks of a context whose write-backs are under way, by block and number. -/
def backsOf (s : State) (ci : Nat) : List (Nat × Nat) :=
  (((s.blocks.zipIdx).filter (fun x => x.1.ctx == ci)).map (fun x => (x.1.locks.filter (fun h => h.rel.isSome)).map (fun h => (x.2, h.num)))).flatten

/-- R473: whether write-backs have been made, and their times have passed. -/
def backsDone (s : State) (l : List (Nat × Nat)) : Bool :=
  l.all (fun x => ((s.block? x.1).map (fun b => b.locks.all (fun h => h.num != x.2 ||
    (match h.rel with | some g => h.marked.isEmpty && decide (g < s.ft) | none => true)))).getD true)

/-- R473: write-backs carried on during closure. -/
def runBacks (s : State) (l : List (Nat × Nat)) : State :=
  l.foldl (fun s x =>
    match s.view { blk := x.1, who := .bell } with
    | none => s
    | some v =>
      match v.b.locks.find? (fun h => h.num == x.2 && h.rel.isSome) with
      | none => s
      | some h =>
        match runBack s v h h.giver h.word with
        | .ok s => s
        | .error (.wait s _) => s
        | .error (.trap s _) => s
        | .error _ => s) s

/-- R473: the locks whose write-backs the closure of a stop completes have passed on, and the saved PCs of their UNLKs lie past them. -/
def passUnlks (s : State) (ci : Nat) : State :=
  (backsOf s ci).foldl (fun s x =>
    match s.ctxs[ci]?, (s.block? x.1).bind (fun b => b.locks.find? (fun h => h.num == x.2)) with
    | some c, some h =>
      let t := lockFree s x.1 c x.2
      (match h.giver.bind (fun w => t.view { blk := x.1, who := w }) with
      | some v => { retire t v h.word .invalid (v.ctl.pc + 4) with cur := s.cur }
      | none => t)
    | _, _ => s) s

/-- R154, R157: the STATE word of each of a context's lock descriptors at a cut that saves some blocks. -/
def writeLockStates (s : State) (ci : Nat) (c : Ctx) (bs : List (Nat × Block)) : State :=
  (List.range c.desc.lklim).foldl (fun s n =>
    let pos := match bs.findIdx? (fun x => x.2.locks.any (fun h => h.num == n)) with | some k => k + 1 | none => 0
    devWrite s ci ((lockVa c n).toNat + 60) (leBytes 4 pos) (some ci)) s

/-- R253: the bytes other than 0 of a context's virtual range, from an offset on. -/
def rangeCells (s : State) (c : Ctx) (va n off : Nat) : State × List Host.Cell :=
  (List.range ((n + 4095) / 4096)).foldl (fun (r : State × List Host.Cell) k =>
    match xlate r.1 .front c (BitVec.ofNat 64 (va + 4096 * k)) .read false with
    | .error (s, _) => (s, r.2)
    | .ok (s, l) => (s, r.2 ++ ((s.mem.cells.filter (fun x => decide (l.pa ≤ x.1) && decide (x.1 < l.pa + 4096))).map
        (fun x => (x.1 - l.pa + 4096 * k + off, x.2))))) (s, [])

/-- R143, R244: a block as the staging takes it: closure completes every drain whose last tile is complete. -/
def Block.atCut (b : Block) : Block := retireBatches { b with mops := b.mops.filter (fun o => !o.performed) } 64

/-- R79, R253: the staged bytes of a piece, from the block state that a cut has staged. -/
def stagedBytes (s : State) (inc : Increment) (k : PieceKind) : List Byte :=
  let blk (n : Nat) : Option Block := (inc.blocks.find? (fun x => x.1 == n)).map Prod.snd
  match k with
  | .blockHead n => (match blk n with | some b => blockHeader (((s.ctxs[b.ctx]?).map Ctx.recBase).getD 0) n (b.lin % clusterOf s b) ((inc.grids.find? (fun x => x.1 == b.grid)).map Prod.snd) b | none => [])
  | .chan n c => (match blk n with | some b => ((b.chans.getD c []).map chanBytes).flatten | none => [])
  | .granMap _ _ bits => leBytes granMapSize bits
  | .item (.gran n g j) _ => (match (blk n).bind (fun b => b.groups[g]?) with | some x => granOf j (groupRecord x) | none => [])
  | _ => []

/-- R246: the staged state written to the context's staging area, block by block. -/
def writeStaging (s : State) (ci : Nat) (c : Ctx) (inc : Increment) : State :=
  devSend s (.area ci c.desc.staging.toNat) ((((byLin inc.blocks).map (stagedPieces inc.todo)).flatten.map (fun x =>
    let bs := stagedBytes s inc x.1
    bs ++ List.replicate (x.2 - bs.length) 0)).flatten) (some ci)

/-- R230, R256: the resident blocks of a stopped context leave their cores. -/
def freeCores (s : State) (ci : Nat) (st : BStat) : State :=
  let gone (b : Block) : Bool := b.ctx == ci && (b.stat == .resident || (st == .ended && b.stat != .ended))
  let s := dropBanks s (fun k => match s.block? k with | some b => gone b | none => false)
  { s with blocks := s.blocks.map (fun b => if gone b then { b with stat := st } else b) }

/-- R245, R248: a cut that had to wait is chosen, once its context runs. -/
def retryCut (s : State) (ci : Nat) : State := if ((s.ctxs[ci]?).map Ctx.cutWant).getD false then chooseCut s ci else s

/-- R246, R253, R256: every core has stopped: the block state is staged, and the groups go on; after a pre-emption they do not. -/
def stageCut (s : State) (ci : Nat) : State :=
  let s := passLocks s ci
  match s.ctxs[ci]?, (s.ctxs[ci]?).bind (fun c => c.chain.find? (fun n => !n.staged)) with
  | some c, some inc =>
    let saved := liveBlocks (passUnlks s ci) ci
    let s := writeLockStates s ci c saved
    let live := saved.map (fun x => (x.1, x.2.atCut))
    let mine (k : Nat) : Bool := live.any (fun x => x.1 == k)
    let (s, tabs) := rangeCells s c c.desc.botable.toNat 524288 0
    let (s, logs) := rangeCells s c c.desc.errlog.toNat 4096 524288
    let late := (live.map (fun x => lateOps x.1 x.2)).flatten
    let grans := granItems live
    let items := grans ++ (lateItems late).filter (fun t => !grans.contains t)
    let inc : Increment := { inc with
      blocks := live, late := late
      marks := s.mem.poison.filter (fun l => match l with
        | .vlane k _ _ _ => mine k
        | .sreg k _ _ => mine k
        | .wreg k _ => mine k
        | .chan k _ _ _ => mine k
        | _ => false)
      mons := s.mem.monitors.filter (fun q => mine q.party.blk)
      todo := items ++ inc.todo, tables := tabs ++ logs
      grids := ((s.grids.zipIdx).filter (fun x => x.1.ctx == ci && !x.1.complete)).map (fun x => (x.2, x.1))
      queues := s.fe.queues.filter (fun q => q.ctx == ci), nodes := s.fe.nodes.filter (fun q => q.ctx == ci)
      gathers := s.fe.gathers.filter (fun g => g.ctx == ci), unlks := backsOf s ci, staged := true }
    let s := s.modCtx ci (fun c => { c with chain := c.chain.map (fun n => if n.staged then n else inc) })
    let s := writeStaging s ci c inc
    let s : State := { s with blocks := s.blocks.map (fun b => if b.ctx == ci then
      { b with newborn := false, groups := b.groups.map (fun g => { g with gran := [] }) } else b) }
    if c.cause == some .preempt then freeCores s ci .stopped
    else if c.cause == some .cut then writeStatus (s.modCtx ci (fun c => { c with state := .running, cause := none })) ci
    else s
  | _, _ => s

/-- R242, R245 to R248: the stop of a cut at T: the bitmaps are swapped, the context's partials sealed and its lines recalled. -/
def beginCut (s : State) (ci t : Nat) (cause : StopCause) (cores : List Nat) : State :=
  let s := beginStop s ci cause
  match s.ctxs[ci]? with
  | none => s
  | some c =>
    let inc := openIncrement s c t
    let s := sealHerd s ci (ctxCores s ci)
    let s := s.modCtx ci (fun c => { c with
      cutTime := none, preempt := false, interval := c.interval + 1, lastCut := inc.n, cur := [], chain := inc :: c.chain, cutCores := cores })
    let s := writeStatus (inc.recalls.foldl (fun s l => askRecall s (ownerOf s ci) l) s) ci
    if cores.isEmpty then stageCut s ci else s

/-- R302: whether the memory tier takes an increment's data. -/
def tierUp (s : State) (c : Ctx) : Bool := !tierLost s c.desc.chain

/-- CUT_TIME_PASSED (R245 to R248, R254): the first core whose FT passes T stops the context and takes the cut; each further one stops, and
once all have, the state is staged. A cut for which the chain has no room at T is not taken. -/
def execCutTimePassed (ctx core : Nat) (s : State) : Host.Outcome State Fault Refusal :=
  .next (match s.ctxs[ctx]? with
  | none => s
  | some c =>
    match c.cutTime with
    | some t =>
      if c.state != .running || decide (s.ft ≤ t) || !c.desc.cores.getLsbD core then s
      else if !tierUp s c then s.modCtx ctx (fun c => { c with cutTime := none, cutWant := true })
      else if !chainRoom s c (cutSizes s ctx c) then
        (postEvent s c.fn 7 0 0 c.pasid 0).modCtx ctx (fun c => { c with cutTime := none, cutWant := true })
      else beginCut s ctx t (if c.preempt then .preempt else .cut)
        (((List.range 128).filter (fun k => c.desc.cores.getLsbD k)).filter (fun k => k != core))
    | none =>
      let s := s.modCtx ctx (fun c => { c with cutCores := c.cutCores.filter (fun k => k != core) })
      if !c.cutCores.isEmpty && c.cutCores.all (fun k => k == core) then stageCut s ctx else s)

/-! ## Closure (R244, R246, R247) -/

/-- R244: what a context's stop still waits for has come: every access issued below a number has been performed, every drain whose
last tile is written has completed, the device's own writes for it have been made (the slices keep the staged lines, R246), and every core
has stopped. -/
def closureReady (s : State) (ci : Nat) (c : Ctx) (below : Nat) : Bool :=
  c.cutCores.isEmpty && !s.mem.devq.any (fun w => w.pre == some ci && (match w.dest with | .area .. => false | _ => true)) &&
    s.blocks.all (fun b => b.ctx != ci || ((blockOps b).all (fun o => decide (below ≤ o.id) || !opOpen s o) &&
      b.mops.all (fun o => decide (below ≤ o.id) || !o.performed || mopPassed s o)))

/-- R143, R244: drains whose times have passed completed at closure. -/
def closeDrains (s : State) (ci : Nat) : State :=
  { s with blocks := s.blocks.map (fun b => if b.ctx != ci then b else b.atCut) }

/-- R247: the lines with partials that a context's cut has sealed: those that the home merges now, and those that it must ask the fabric for
or whose leases have not ended. -/
def mergeAllSealed (s : State) (ci : Nat) : State × Bool :=
  (s.mem.herd.filter (fun h => h.sealCtxs.contains ci)).foldl (fun (r : State × Bool) h =>
    let s := r.1
    if onFabric s (h.line * 128) then (if (fabOf s h.line).req != 0 then (s, false) else (fabAsk s (ownerOf s ci) h.line 5 0, false))
    else if pageHeld s (h.line * 128) 128 (some ci) then (notePage s (h.line * 128) 128 (some ci), false)
    else if s.ft < leaseEnd s h.line then (s, false)
    else (mergeSealedOf s h.line ci, r.2)) (s, true)

/-- R254: the parts of an increment reserved in the chain directory and their records written with state 0. -/
def reserveParts (s : State) (c : Ctx) (n : Nat) (sizes : List Nat) : State × List (Nat × Nat × Nat) :=
  (sizes.zipIdx).foldl (fun (r : State × List (Nat × Nat × Nat)) x =>
    let s := r.1
    let d := c.desc.chain
    let u := physNat s d 4
    let off := physNat s (d + 16) 8
    let rec' := leBytes 8 n ++ leBytes 4 x.2 ++ leBytes 4 0 ++ leBytes 8 off ++ leBytes 8 x.1
    let s := physWrite s (d + 64 + 32 * u) rec'
    let s := physWrite s d (leBytes 4 (u + 1))
    (physWrite s (d + 16) (leBytes 8 (off + x.1)), r.2 ++ [(u, off, x.1)])) (s, [])

/-- R254: the state of a part record. -/
def setPart (s : State) (c : Ctx) (u st : Nat) : State := physWrite s (c.desc.chain + 64 + 32 * u + 12) (leBytes 4 st)

/-- The context's increment that is staged and not closed. -/
def closing (c : Ctx) : Option Increment := c.chain.find? (fun n => n.staged && !n.closed)

/-- R244: a block with the counter entries that its record saves. -/
def Block.openOps (b : Block) : Block :=
  { b with
    bell := { b.bell with ops := b.bell.ops.filter (fun o => b.bell.ctl.openIds.contains o.id), deferred := [] }
    groups := b.groups.map (fun g => { g with
      ops := g.ops.filter (fun o => (g.path0.ctl.openIds ++ g.path1.ctl.openIds).contains o.id), deferred := [] }) }

/-- R244, R247, R253, R254: the closure of a cut: its parts are reserved, and the engines may stream it. -/
def closeCut (s : State) (ci : Nat) (c : Ctx) (inc : Increment) : State :=
  let inc := { inc with blocks := inc.blocks.map (fun x => (x.1, x.2.openOps)) }
  let s := writeStaging s ci c inc
  let l := cutPieces s c inc.blocks inc.todo
  let (s, parts) := reserveParts s c inc.n (l.map partSize)
  let pieces := ((l.zipIdx).map (fun x => placePieces x.2 x.1)).flatten
  let s := s.modCtx ci (fun c => { c with chain := c.chain.map (fun n => if n.n == inc.n then
    { n with closed := true, late := [], recalls := [], parts := parts, pieces := pieces, blocks := inc.blocks } else n) })
  if c.cause == some .preempt then writeStatus ((closeDrains (passUnlks s ci) ci).modCtx ci (fun c => { c with state := .stopped })) ci else s

/-- R256, R297: a context discarded: its blocks end, its writes of the device's own go, and its queues take STATE 4. -/
def discardCtx (s : State) (ci : Nat) : State :=
  let s := ((s.blocks.zipIdx).filter (fun x => x.1.ctx == ci && x.1.stat != .ended)).foldl (fun s x => dropLocks s x.2) s
  let s := freeCores s ci .ended
  let s := s.modCtx ci (fun c => { c with
    state := .discarded, cutTime := none, cutWant := false, preempt := false, rebind := [], chain := c.chain.filter Increment.committed })
  let s := (s.fe.queues.filter (fun q => q.ctx == ci)).foldl (fun s q => setQueue s ci q.queue (fun q => { q with state := 4 })) s
  writeStatus s ci

/-- R70, R240, R260: GSTAT.RESUMED set in every group of a block. -/
def Block.resumed (b : Block) : Block := { b with groups := b.groups.map (fun g => Group.mark { g with gstat := g.gstat ||| 0x100#32 } 0) }

/-- R240: the blocks of cores that have left placement, saved as for pre-emption, return elsewhere; a cluster that no core of the
placement can hold stops the context, which keeps the image. -/
def evacuate (s : State) (ci : Nat) (c : Ctx) : State :=
  let gone (b : Block) : Bool := b.ctx == ci && b.stat == .resident && !corePlaced s b.core
  let lost := s.blocks.filter gone
  let s' := dropBanks s (fun k => match s.block? k with | some b => gone b | none => false)
  let s' : State := { s' with blocks := s'.blocks.map (fun b => if gone b then { b.resumed with stat := .swapped } else b) }
  if lost.all (fun b => couldFit s ci c.desc.cores b.decl (clusterOf s b)) then
    writeStatus (s'.modCtx ci (fun c => { c with state := .running, cause := none })) ci
  else
    let s := errRecord s' ci 0 0 fNOFIT 0xFF 0xFF 0
    let s := postEvent s c.fn 3 fNOFIT 0 c.pasid 0
    writeStatus ((freeCores s ci .stopped).modCtx ci (fun c => { c with state := .stopped, stopCode := fNOFIT })) ci

/-- R240, R248, R254, R302: the blocks of a disabled core saved as for pre-emption: a cut is taken for the context. None while it has to wait:
for its last increment to commit, for its memory tier, or for room in its chain. A context without a chain has no image to keep. -/
def evacCut (s : State) (ci : Nat) (c : Ctx) : Option State :=
  if c.desc.chain == 0 then some s
  else if c.chain.any (fun n => !n.committed) || !tierUp s c || !chainRoom s c (cutSizes s ci c) then none
  else
    let inc := openIncrement s c s.ft
    let s := sealHerd s ci (ctxCores s ci)
    let s := s.modCtx ci (fun c => { c with interval := c.interval + 1, lastCut := inc.n, cur := [], cutWant := false, chain := inc :: c.chain })
    some (stageCut (inc.recalls.foldl (fun s l => askRecall s (ownerOf s ci) l) s) ci)

/-- R240, R254, R283: a context whose evacuation waits; that it waits for room in its chain is told once. -/
def evacWait (s : State) (ci : Nat) (c : Ctx) : State :=
  if c.cutWant || c.chain.any (fun n => !n.committed) || !tierUp s c then s
  else (postEvent s c.fn 7 0 0 c.pasid 0).modCtx ci (fun c => { c with cutWant := true })

/-- R244: a stop without a cut takes its further course by its cause. -/
def finishStop (s : State) (ci : Nat) (c : Ctx) : State :=
  let s := closeDrains (passUnlks (passLocks s ci) ci) ci
  match c.cause with
  | some .discard => discardCtx s ci
  | some .flr => discardCtx s ci
  | some .coreDisabled => (match evacCut s ci c with | some s => evacuate s ci c | none => evacWait s ci c)
  | some .heapq => writeStatus (s.modCtx ci (fun c => { c with state := .stopped })) ci
  | _ => writeStatus ((freeCores s ci .stopped).modCtx ci (fun c => { c with state := .stopped, cutTime := none, cutWant := false })) ci

/-- CLOSURE (R244): the accesses issued before the stop are complete: a cut's increment may be streamed, or the stop takes its
further course. -/
def execClosure (ctx : Nat) (s : State) : Host.Outcome State Fault Refusal :=
  .next (match s.ctxs[ctx]? with
  | none => s
  | some c =>
    match closing c with
    | some inc =>
      let s := s.modCtx ctx (fun c => { c with chain := c.chain.map (fun n => { n with recalls := n.recalls.filter (fun l => s.mem.fabricBits.contains l) }) })
      let s := runBacks s inc.unlks
      if !closureReady s ctx c inc.below || !backsDone s inc.unlks || inc.recalls.any (fun l => s.mem.fabricBits.contains l) then s
      else
        match mergeAllSealed s ctx with
        | (s, false) => s
        | (s, true) =>
          match s.ctxs[ctx]? with
          | some c => (match closing c with | some inc => closeCut s ctx c inc | none => s)
          | none => s
    | none =>
      if c.state != .stopping || c.cause == some .cut || c.cause == some .preempt then s
      else
        let s := runBacks s (backsOf s ctx)
        if closureReady s ctx c s.nextId && backsDone s (backsOf s ctx) then finishStop s ctx c else s)

/-! ## Streaming (R251 to R254) -/

/-- The increment that a context is streaming. -/
def streaming (c : Ctx) : Option Increment := c.chain.find? (fun n => n.closed && !n.committed)

/-- R79, R253: the header of a part: context identity, *n*, T, the previous committed cut, FEATMASK, the sizes of its sections, the blocks, and
the queues. -/
def partHeader (s : State) (c : Ctx) (inc : Increment) (sizes blks : List Nat) : List Byte :=
  let lin (k : Nat) : Nat := match s.block? k with | some b => b.lin | none => 0
  fillTo 4096 (leBytes 4 c.fn ++ leBytes 4 c.pasid ++ leBytes 8 inc.n ++ leBytes 8 inc.time ++ leBytes 8 inc.prev ++ leBytes 8 inc.featmask.toNat ++
    fillTo 56 (leBytes 8 inc.queues.length) ++ (sizes.map (leBytes 8)).flatten ++ leBytes 8 blks.length ++
    (blks.map (fun k => leBytes 8 (lin k))).flatten ++ (inc.queues.map queueImage).flatten)

/-- R254: where a part lies. -/
def partAt (c : Ctx) (inc : Increment) (part : Nat) : Nat := c.desc.chain + (match inc.parts[part]? with | some p => p.2.1 | none => 0)

/-- R251, R253: the bytes of a piece as the engine reads or makes them, and which of their dwords are poisoned. -/
def pieceBytes (s : State) (c : Ctx) (inc : Increment) (p : Piece) : List Byte × List Nat :=
  let bad (n : Nat) (f : Nat → Bool) : List Nat := if s.mem.poison.isEmpty then [] else (List.range n).filter f
  match p.what with
  | .header sizes blks => (partHeader s c inc sizes blks, [])
  | .lineMap _ bits => (leBytes p.size bits, [])
  | .accMap _ bits => (leBytes p.size bits, [])
  | .pageAddr ia => (leBytes 8 ia, [])
  | .table k => (cellsRead inc.tables (4096 * k) 4096, [])
  | .trailer =>
    let crc := crcBytes 0xFFFFFFFF#32 (physRead s (partAt c inc p.part) p.off)
    (fillTo 4096 (leBytes 4 crc.toNat ++ leBytes 4 0x434B5054), [])
  | .item (.scratch k l) _ => (scratchRead s k (128 * l) 128, bad 16 (fun w => s.poisoned (.scratch k (16 * l + w))))
  | .item (.acc k j) _ =>
    (match s.block? k with
    | none => (leBytes p.size 0, [])
    | some b => (wordBytes ((List.range 1024).map (fun i => accGet b k (8 * j + i / 128) (i % 128))),
        bad 512 (fun w => s.poisoned (.acc k (1024 * j + 2 * w)) || s.poisoned (.acc k (1024 * j + 2 * w + 1)))))
  | .item (.page ia) sub =>
    (match c.desc.cset.find? (fun e => e.1 == ia) with
    | none => (leBytes p.size 0, [])
    | some e => (physRead s (e.2 + 4096 * sub) 4096, bad 512 (fun w => s.poisoned (.mem ((e.2 + 4096 * sub) / 8 + w)))))
  | k => (stagedBytes s inc k, [])

/-- R251, R253: a piece written to the memory tier; the part's record is written after its trailer. -/
def writePiece (s : State) (ci : Nat) (c : Ctx) (inc : Increment) (p : Piece) : State :=
  let (bs, bad) := pieceBytes s c inc p
  let pa := partAt c inc p.part + p.off
  let s := physWrite s pa bs
  let s := bad.foldl (fun s w => s.addPoison (.mem (pa / 8 + w))) s
  let s := match p.what, inc.parts[p.part]? with
    | .trailer, some r => setPart s c r.1 1
    | _, _ => s
  s.modCtx ci (fun c => { c with chain := c.chain.map (fun n => if n.n != inc.n || n.committed then n else
    { n with
      pieces := n.pieces.erase p
      todo := match p.what with | .item i sub => n.todo.erase (i, sub) | _ => n.todo
      snatch := match p.what with | .item i sub => n.snatch.erase (i, sub) | _ => n.snatch }) })

/-- R252: the piece of the item whose held write has waited longest. -/
def snatchPiece (inc : Increment) : Option Piece :=
  inc.snatch.head?.bind (fun x => inc.pieces.find? (fun p => p.what == .item x.1 x.2))

/-- R25: the memory-tier port that a chain lies behind. -/
def chainPort (s : State) (c : Ctx) : Nat := match region s c.desc.chain with | .tier q => q | _ => 0

/-- R27: the increments that the engines stream through a port, by their contexts. -/
def portStreams (s : State) (port : Nat) : List (Nat × Increment) :=
  ((s.ctxs.zipIdx).filter (fun x => tierUp s x.1 && chainPort s x.1 == port)).filterMap (fun x => (streaming x.1).map (fun n => (x.2, n)))

/-- R27: the die that a port serves, and the bytes of its turn. -/
def portTurn (s : State) (port : Nat) : Nat × Nat := if port == 0 then s.mem.tierTurn.1 else s.mem.tierTurn.2

/-- R27: the bytes of a turn. -/
def turnMax : Nat := 4096

/-- R27, R251: the piece that a port takes next, with its context: a snatch; else the next one of the die whose turn it is, 4 KiB at a time
in die order. An engine with several contexts takes the lowest (notes/assumptions 113). -/
def nextPiece (s : State) (port : Nat) : Option (Nat × Piece) :=
  let l := portStreams s port
  let snatched := l.findSome? (fun x => (snatchPiece x.2).map (fun p => (x.1, p)))
  let of (d : Nat) : Option (Nat × Piece) := l.findSome? (fun x => (x.2.pieces.find? (fun p => p.part == d)).map (fun p => (x.1, p)))
  let (d, n) := portTurn s port
  snatched.or (((of d).filter (fun _ => decide (n < turnMax))).or ([d + 1, d + 2, d + 3, d + 4].findSome? (fun k => of (k % 4))))

/-- R27: a port's turn after a piece of a die. -/
def turnAfter (s : State) (port : Nat) (p : Piece) : State :=
  let (d, n) := portTurn s port
  let t := if p.part == d && decide (n < turnMax) then (d, n + p.size) else (p.part, p.size)
  s.modMem (fun m => { m with tierTurn := if port == 0 then (t, m.tierTurn.2) else (m.tierTurn.1, t) })

/-- CHECKPOINT_STREAM (R27, R251): the engines write the next piece of the increment to the memory tier, when the port takes it next. A snatch
takes no turn. -/
def execCheckpointStream (ctx : Nat) (s : State) : Host.Outcome State Fault Refusal :=
  .next (match s.ctxs[ctx]? with
  | none => s
  | some c =>
    match streaming c, nextPiece s (chainPort s c) with
    | some inc, some (k, p) =>
      if k != ctx || !tierUp s c then s
      else if snatchPiece inc == some p then writePiece s ctx c inc p
      else turnAfter (writePiece s ctx c inc p) (chainPort s c) p
    | _, _ => s)

/-- SNATCH (R252): the engine reads the item for which a write has been held longest, ahead of its order. -/
def execSnatch (ctx : Nat) (item : Item) (sub : Nat) (s : State) : Host.Outcome State Fault Refusal :=
  .next (match s.ctxs[ctx]? with
  | none => s
  | some c =>
    match streaming c with
    | none => s
    | some inc =>
      match snatchPiece inc with
      | some p => if tierUp s c && p.what == .item item sub then writePiece s ctx c inc p else s
      | none => s)

/-! ## SAVECOST (R258) -/

/-- The sum of numbers. -/
def sumOf (l : List Nat) : Nat := l.foldl (· + ·) 0

/-- R258: the bytes marked in the current bitmaps; before the first cut every page counts as marked (R253). -/
def dirtyBytes (s : State) (ci : Nat) (c : Ctx) : Nat :=
  sumOf ((cutItems c).map (fun i => match i with | .page _ => 65536 | .acc _ _ => 4096 | _ => 128)) +
    128 * sumOf ((liveBlocks s ci).map (fun x => sumOf (x.2.groups.map (fun g => if x.2.newborn then groupGrans g else g.gran.length))))

/-- R258: the bytes of the streaming increment not yet written. -/
def unwritten (s : State) (c : Ctx) : Nat :=
  match c.chain.find? (fun n => !n.committed) with
  | none => 0
  | some inc => if inc.closed then sumOf (inc.pieces.map Piece.size) else sumOf ((cutPieces s c inc.blocks inc.todo).map piecesSize)

/-- R258: SAVECOST. -/
def savecostOf (s : State) (ci : Nat) (c : Ctx) : Nat :=
  let bs := sumOf ((liveBlocks s ci).map (fun x => 20480 + 128 * x.2.groups.length))
  min (10 + (dirtyBytes s ci c + unwritten s c + bs + 199999) / 200000) 0xFFFFFFFF

/-! ## Commit (R253, R254) -/

/-- INCREMENT_COMMIT (R253, R254, R258, R283): every part is written; the increment commits, SAVECOST is updated, and a waiting cut is
chosen. -/
def execIncrementCommit (ctx : Nat) (s : State) : Host.Outcome State Fault Refusal :=
  .next (match s.ctxs[ctx]? with
  | none => s
  | some c =>
    match streaming c with
    | none => s
    | some inc =>
      if !inc.pieces.isEmpty || !tierUp s c then s
      else
        let s := s.modCtx ctx (fun c => { c with
          chain := c.chain.map (fun n => if n.n == inc.n then { n with committed := true, snatch := [] } else n), lastCommit := inc.n, commitFt := s.ft })
        let s := match s.ctxs[ctx]? with
          | some c => s.modCtx ctx (fun c' => { c' with savecost := savecostOf s ctx c })
          | none => s
        retryCut (postEvent (writeStatus s ctx) c.fn 5 0 0 c.pasid 0) ctx)

/-- SAVECOST_UPDATE (R258, R284). -/
def execSavecostUpdate (ctx : Nat) (s : State) : Host.Outcome State Fault Refusal :=
  .next (match s.ctxs[ctx]? with
  | none => s
  | some c => writeStatus (s.modCtx ctx (fun c' => { c' with savecost := savecostOf s ctx c })) ctx)

/-! ## Restoring (R256, R257, R259 to R262, R487, R488) -/

/-- R256: what the front end has kept of the newest committed cut of a context. -/
def newest (c : Ctx) : Option Increment := c.chain.find? (fun n => n.committed && n.n == c.lastCommit)

/-- R234, R256: the poisoned dwords of the newest copy of a piece. -/
def pieceBad (s : State) (l : List (PieceKind × Nat)) (k : PieceKind) (n : Nat) : List Nat :=
  if s.mem.poison.isEmpty then []
  else match findPiece l k with
    | some a => (List.range n).filter (fun w => s.poisoned (.mem (a / 8 + w)))
    | none => []

/-- The numbers of the pieces of a kind that a chain holds. -/
def heldOf (l : List (PieceKind × Nat)) (f : Item → Option Nat) : List Nat :=
  (l.filterMap (fun x => match x.1 with | .item i 0 => f i | _ => none)).eraseDups

/-- R256, R260: a page of the chain, sub-block by sub-block, written to the page that the tables map; no core keeps a copy of its
lines. -/
def restorePage (s : State) (c : Ctx) (l : List (PieceKind × Nat)) (ia : Nat) : State :=
  (List.range 16).foldl (fun s sub =>
    match iaPhys s c.fn (ia + 4096 * sub) with
    | (s, .error _) => s
    | (s, .ok pa) =>
      let lines := (List.range 32).map (fun k => lineOf pa + k)
      let s := lines.foldl herdFree s
      let s : State := { s with cores := s.cores.map (fun k => { k with l1 := k.l1.filter (fun y => !lines.contains y.line) }) }
      let s := s.modMem (fun m => { m with leases := m.leases.filter (fun y => !lines.contains y.1) })
      let k := PieceKind.item (.page ia) sub
      let bad := pieceBad s l k 512
      bad.foldl (fun s w => s.addPoison (.mem (pa / 8 + w))) (physWrite s pa (pieceAt s l k 4096))) s

/-- R257, R260: the pages of the chain restored; `only`: those pages, when the context resumes on the same placement. -/
def restorePages (s : State) (c : Ctx) (l : List (PieceKind × Nat)) (only : Option (List Nat)) : State :=
  let ias := heldOf l (fun i => match i with | .page ia => some ia | _ => none)
  (ias.filter (fun ia => match only with | some o => o.contains ia | none => true)).foldl (fun s ia => restorePage s c l ia) s

/-- R260: the context tables written back where they differ from what stands in memory; what cannot be read counts as zeros there, as it
did when they were saved. -/
def restoreTables (s : State) (ci : Nat) (c : Ctx) (l : List (PieceKind × Nat)) : State :=
  (List.range 129).foldl (fun s k =>
    let va := if k < 128 then c.desc.botable.toNat + 4096 * k else c.desc.errlog.toNat
    let saved := pieceAt s l (.table k) 4096
    match devRead s .front c va 4096 with
    | (s, .ok bs) => if bs == saved then s else devSend s (.area ci va) saved
    | (s, .error (.hold _)) => devSend s (.area ci va) saved
    | (s, .error _) => if saved.all (· == 0) then s else devSend s (.area ci va) saved) s

/-- R488: a block's scratchpad as the chain holds it. -/
def chainScratch (s : State) (l : List (PieceKind × Nat)) (blk : Nat) : List Host.Cell :=
  (heldOf l (fun i => match i with | .scratch k n => if k == blk then some n else none | _ => none)).foldl
    (fun m n => cellsWrite m (128 * n) (pieceAt s l (.item (.scratch blk n) 0) 128)) []

/-- R488: a block's accumulator rows as the chain holds them. -/
def chainAcc (s : State) (l : List (PieceKind × Nat)) (blk : Nat) : List (Nat × W32) :=
  (heldOf l (fun i => match i with | .acc k j => if k == blk then some j else none | _ => none)).foldl
    (fun m j => ((leWords 1024 (pieceAt s l (.item (.acc blk j) 0) 4096)).zipIdx).foldl (fun m (y : W32 × Nat) => assocSet m (1024 * j + y.2) y.1) m) []

/-- R234: the marks of a block's scratchpad and accumulator words as the chain holds them. -/
def chainMarks (s : State) (l : List (PieceKind × Nat)) (blk : Nat) : List PLoc :=
  ((heldOf l (fun i => match i with | .scratch k n => if k == blk then some n else none | _ => none)).map (fun n =>
    (pieceBad s l (.item (.scratch blk n) 0) 16).map (fun w => PLoc.scratch blk (16 * n + w)))).flatten ++
  ((heldOf l (fun i => match i with | .acc k j => if k == blk then some j else none | _ => none)).map (fun j =>
    ((pieceBad s l (.item (.acc blk j) 0) 512).map (fun w => [PLoc.acc blk (1024 * j + 2 * w), PLoc.acc blk (1024 * j + 2 * w + 1)])).flatten)).flatten

/-- R79, R260, R261: a block record as a resume restores it from the chain, not yet placed: its header, channels, group records, scratchpad
and accumulator rows are the bytes; what R79 does not place is as the front end has kept it. -/
def restoreBlock (s : State) (l : List (PieceKind × Nat)) (x : Nat × Block) : Block :=
  let b := x.2.load (pieceAt s l (.blockHead x.1) 4096) (fun c => pieceAt s l (.chan x.1 c) 1024)
  let b := { b with groups := b.groups.mapIdx (fun g (y : Group) =>
    y.load (((List.range (groupGrans y)).map (fun k => pieceAt s l (.item (.gran x.1 g k) 0) 128)).flatten)) }
  let b := { b with scratch := chainScratch s l x.1, acc := chainAcc s l x.1, accClean := true, newborn := false }
  if b.stat == .swapped then b.resumed else { b.resumed.stop with stat := .swapped }

/-- R57, R260: the monitors of a swapped block registered afresh. -/
def registerMon (s : State) (c : Ctx) (q : Monitor) : State :=
  let put (s : State) (q : Monitor) (w : Nat) : State :=
    putMonitor s { q with hit := if q.holds w then some (BitVec.ofNat 64 w) else none }
  match q.loc with
  | .mem _ =>
    (match xlate s .front c q.va .read true with
    | .ok (s, l) => put s { q with loc := .mem (l.pa / 8), pa := l.pa } (leNat (ownRead s l.pa q.width))
    | .error (s, _) => s)
  | .scratch k _ => put s q (leNat (scratchRead s k q.pa q.width))
  | _ => s

/-- R157: the locks that restored blocks hold; the primary of two copies holds them for both. -/
def heldLocks (s : State) (blks : List Nat) : List (Nat × Nat) :=
  (blks.map (fun k => match s.block? k with
    | some b => if (match b.pair with | some p => !p.primary | none => false) then [] else b.locks.map (fun h => (k, h.num))
    | none => [])).flatten

/-- R79, R257: a queue with HEAD, DONE and PROG as the chain holds them. -/
def queueFrom (q : Queue) (l : List (Nat × Nat × Nat × Nat)) : Queue :=
  match l.find? (fun x => x.1 == q.queue) with
  | some x => { q with head := BitVec.ofNat 32 x.2.1, done := BitVec.ofNat 32 x.2.2.1, prog := x.2.2.2 }
  | none => q

/-- R257: the queues of a context as they stood at the cut; a queue first walked since starts its packets again from DONE. A queue in error
or suspended stays so (R275, R494). -/
def restoreQueues (s : State) (ci : Nat) (l : List Queue) (saved : List (Nat × Nat × Nat × Nat)) : State :=
  (s.fe.queues.filter (fun q => q.ctx == ci)).foldl (fun s q =>
    setQueue s ci q.queue (fun q =>
      let y := match l.find? (fun o => o.queue == q.queue) with
        | some o => queueFrom { o with tail := q.tail, rbase := q.rbase, rlog2 := q.rlog2, prio := q.prio, qcb := q.qcb } saved
        | none =>
          if saved.any (fun x => x.1 == q.queue) then { queueFrom q saved with started := [], load := .restart }
          else { q with head := q.done, started := [], prog := 0 }
      { y with req := none, outcomes := [], state := if q.state == 2 || q.state == 3 then q.state else (Queue.advance { y with state := 0 }).state })) s

/-- R257: the grids of a context as they stood at the cut, those that have completed since opened again; a grid launched since is
discarded. -/
def restoreGrids (s : State) (ci : Nat) (l : List (Nat × Grid)) : State :=
  { s with grids := s.grids.mapIdx (fun k g => if g.ctx != ci then g
      else match l.find? (fun x => x.1 == k) with
        | some x => x.2
        | none => { g with complete := true, redo := [], formed := [], pkt := none }) }

/-- R254: the parts of every uncommitted increment of a chain set to state 2. -/
def discardParts (s : State) (c : Ctx) : State :=
  let done := chainCuts s c.desc.chain
  ((chainRecs s c.desc.chain).filter (fun r => r.state != 2 && !done.contains r.cut)).foldl (fun s r => setPart s c r.num 2) s

/-- R260, R487: a restored block, with its cluster, placed when a virtual quad fits it; it stays in the swap area otherwise. -/
def placeBack (s : State) (blk : Nat) : State :=
  match s.block? blk with
  | none => s
  | some b =>
    match s.grids[b.grid]?, s.ctxs[b.ctx]? with
    | some g, some c => if b.stat != .swapped then s else (match backCores s c g b with | some cores => unswap s (returning s b g) cores | none => s)
    | _, _ => s

/-! ### A chain that the front end has kept nothing of (R259) -/

/-- R76, R160, R259: the copies of a restored block that are published and not complete, each at the PROG that its ring entry holds. -/
def ringCopies (b : Block) : List CopyWork :=
  (List.range ((b.tail - b.head).toNat % 65)).map (fun k =>
    let i := b.head + BitVec.ofNat 32 k
    { idx := i.toNat, issuer := none, op := 0, prog := ringProg b i.toNat, done := false, status := 0, g := 0, req := none, outcomes := [] })

/-- R81: the start of the run that a restored stream is in. -/
def Ctl.atRun (c : Ctl) : Ctl := { c with runStart := c.pc - BitVec.ofNat 64 (4 * c.runPos) }

/-- R259, R260: a block made from its record in a chain that another device or context has written: its header's bytes `bs` name what its
launch gave it, and its parts are the pieces `l`. -/
def blockFrom (s : State) (ci gi : Nat) (l : List (PieceKind × Nat)) (blk base id : Nat) (bs : List Byte) (g : Grid) : Block :=
  let f (off n : Nat) : Nat := leNat ((bs.drop off).take n)
  let pair : Option Pair := if f 73 1 == 1 || f 73 1 == 2 then some (Pair.start (base + f 74 8) (f 73 1 == 1)) else none
  let b := Block.start s ci gi (f 0 8) 0 (f 68 4) g [] pair
  let ops := (List.range 32).filterMap (fun k => (mopOf ((bs.drop (2696 + 36 * k)).take 36)).map (fun o => { o with id := id + k, seq := id + k }))
  let b := restoreBlock s l (blk, { b with mops := ops })
  { b with
    stat := if f 14 2 == 1 then .swapped else if f 73 1 == 3 then .ended else .resident
    bell := { b.bell with
      ctl := { b.bell.ctl.atRun with inRun := (f 72 1).testBit 0, ended := (f 72 1).testBit 1 }
      hbar := if (f 72 1).testBit 2 then some g.phase else none }
    groups := b.groups.map (fun x => { x with path0 := { x.path0 with ctl := x.path0.ctl.atRun }, path1 := { x.path1 with ctl := x.path1.ctl.atRun } })
    copies := ringCopies b
    locks := locksOf (bs.drop 3976) }

/-- R259, R260: the saved image of a chain of which the front end has kept nothing, taken over by its context: its blocks and grids get
numbers of this device, and it stands as the context's committed cut. -/
def adoptChain (s : State) (ci : Nat) : State :=
  match s.ctxs[ci]? with
  | none => s
  | some c =>
    match chainNewest s c.desc.chain with
    | none => s
    | some n =>
      let base := s.blocks.length
      let gbase := s.grids.length
      let l := chainPieces s base c.desc.chain
      let heads := sortBy (fun a b => decide (a.1 < b.1)) ((((cutParts s c.desc.chain n).map (readPart s base c.desc.chain)).flatten).filterMap (fun x =>
        match x.1 with | .blockHead k => some (k, physRead s x.2 4096) | _ => none))
      let old (bs : List Byte) : Nat := leNat ((bs.drop 8).take 4)
      let names := (heads.map (fun x => old x.2)).eraseDups
      let grids := names.filterMap (fun k => (heads.find? (fun x => old x.2 == k)).map (fun x => gridFrom ci (imageDecl x.2) (x.2.drop 3848)))
      let blocks := (heads.zipIdx).filterMap (fun (x, i) =>
        let k := names.findIdx (· == old x.2)
        (grids[k]?).map (fun g => (x.1, blockFrom s ci (gbase + k) l x.1 base (s.nextId + 32 * i) x.2 g)))
      let grids := (grids.zipIdx).map (fun x => { x.1 with
        arrived := (blocks.filter (fun y => y.2.grid == gbase + x.2 && y.2.bell.hbar.isSome && ((y.2.pair.map Pair.primary).getD true))).map Prod.fst })
      let count := (blocks.map (fun x => x.1 + 1 - base)).foldl max 0
      let gone : Option Block := (blocks.head?).map (fun x => { x.2 with stat := .ended })
      let inc : Increment := { openIncrement s c 0 with
        n := n, prev := n, recalls := [], blocks := blocks.filter (fun x => x.2.stat != .ended), todo := [], items := [], staged := true, closed := true
        committed := true, grids := (grids.zipIdx).map (fun x => (gbase + x.2, x.1)) }
      let s : State := { s with
        nextId := s.nextId + 32 * heads.length
        grids := s.grids ++ grids
        blocks := s.blocks ++ (List.range count).filterMap (fun k => ((blocks.find? (fun x => x.1 == base + k)).map Prod.snd).or gone) }
      s.modCtx ci (fun c => { c with recBase := base, chain := [inc], lastCut := n, lastCommit := n, interval := n + 1 })

/-- R259: the context has run nothing yet: no cut, no block and no grid is its own. -/
def neverRan (s : State) (ci : Nat) (c : Ctx) : Bool :=
  c.state == .running && c.lastCut == 0 && !s.blocks.any (fun b => b.ctx == ci) && !s.grids.any (fun g => g.ctx == ci)

/-- R259: whether a resume of a context has to take its chain over: nothing of its cuts has been kept. -/
def adopts (s : State) (ci : Nat) (c : Ctx) : Bool :=
  (newest c).isNone && c.desc.chain != 0 && (c.state == .stopped || neverRan s ci c) && (chainNewest s c.desc.chain).isSome && chainFits s c.desc.chain

/-- R259: the state in which a resume of a context is judged: its chain taken over if need be, by a context that then counts as stopped. -/
def resumeFrom (s : State) (ci : Nat) (c : Ctx) : State :=
  if adopts s ci c then (adoptChain s ci).modCtx ci (fun c => { c with state := .stopped }) else s

/-- R257, R259, R260: a stopped context brought back from its chain: pages, tables, blocks, locks, grids and queues; what came after
the cut is discarded. Blocks that were resident are placed in ascending linear index of their grids, and those that do not fit now stay in
the swap area, ready (R487). `only`: the pages to be rewritten (R257). -/
def restoreCtx (s : State) (ci : Nat) (only : Option (List Nat)) : State :=
  match s.ctxs[ci]? with
  | none => s
  | some c =>
    match newest c with
    | none => s
    | some inc =>
      let l := chainPieces s c.recBase c.desc.chain
      let blks := inc.blocks.map Prod.fst
      let s := discardParts s c
      let gone (k : Nat) : Bool := match s.block? k with | some b => b.ctx == ci | none => false
      let s := dropBanks s gone
      let s := s.clearPoison (fun l => match l with
        | .scratch k _ => gone k
        | .acc k _ => gone k
        | .vlane k _ _ _ => gone k
        | .sreg k _ _ => gone k
        | .wreg k _ => gone k
        | .chan k _ _ _ => gone k
        | _ => false)
      let s := s.modMem (fun m => { m with
        monitors := m.monitors.filter (fun q => !gone q.party.blk)
        locks := m.locks.map (fun l => { l with holder := match l.holder with | some k => if gone k then none else some k | none => none }) })
      let s := restoreTables (restorePages s c l only) ci c l
      let marks := (blks.map (chainMarks s l)).flatten
      let s : State := { s with blocks := s.blocks.mapIdx (fun k b => if b.ctx != ci then b
        else match inc.blocks.find? (fun x => x.1 == k) with | some x => restoreBlock s l x | none => { b with stat := .ended }) }
      let s := s.modMem (fun m => { m with poison := inc.marks ++ marks ++ m.poison })
      let s := restoreQueues (restoreGrids s ci inc.grids) ci inc.queues (chainQueues s c.desc.chain)
      let s := s.modFe (fun f => { f with
        nodes := inc.nodes ++ f.nodes.filter (fun n => n.ctx != ci), gathers := inc.gathers ++ f.gathers.filter (fun g => g.ctx != ci) })
      let s := s.modCtx ci (fun c => { c with
        state := .running, cause := none, stopCode := 0, cur := [], chain := c.chain.filter Increment.committed, cutTime := none, cutWant := false
        preempt := false, cutCores := [], nextCkpt := if c.desc.ckptms == 0 then 0 else s.ft + 1000000 * c.desc.ckptms
        errCount := leNat ((pieceAt s l (.table 128) 4096).take 4) })
      let s := (inc.mons.filter (fun q => inc.blocks.any (fun x => x.1 == q.party.blk && x.2.stat == .swapped))).foldl (fun s q => registerMon s c q) s
      let s := rebindLocks (s.modCtx ci (fun c => { c with rebind := heldLocks s blks })) ci
      let order (a b : Nat × Block) : Bool := decide (a.2.grid < b.2.grid) || (a.2.grid == b.2.grid && (decide (a.2.lin < b.2.lin) ||
        (a.2.lin == b.2.lin && decide (a.1 < b.1))))
      let s := (sortBy order (inc.blocks.filter (fun x => x.2.stat != .swapped))).foldl (fun s x => placeBack s x.1) s
      writeStatus s ci

/-- R259: whether every cluster of a context's grids and blocks would fit its placement with its cores empty. -/
def imageFits (s : State) (ci : Nat) (c : Ctx) (inc : Increment) : Bool :=
  let size (g : Grid) : Nat := if g.node.isSome then 1 else min g.cluster (gridTotal g)
  inc.blocks.all (fun x => couldFit s ci c.desc.cores x.2.decl (match s.grids[x.2.grid]? with | some g => size g | none => 1)) &&
    inc.grids.all (fun x => x.2.node.isSome || couldFit s ci c.desc.cores x.2.decl (size x.2))

/-- R259, R262: the status of a resume: 0 when the context may be brought back. -/
def resumeStatus (s : State) (ci : Nat) (c : Ctx) : Nat :=
  if c.state == .discarded then fNOFIT
  else if c.state != .stopped || c.cause == some .heapq then fILLOP
  else
    match newest c with
    | none => fNOFIT
    | some inc =>
      if c.desc.chain == 0 || (chainCuts s c.desc.chain).isEmpty then fNOFIT
      else if !chainFits s c.desc.chain then fNOFIT
      else if imageFits s ci c inc then 0 else fNOFIT

/-- R284: a resume begun. -/
def beginResume (s : State) (ci : Nat) : State := writeStatus (s.modCtx ci (fun c => { c with state := .resuming })) ci

/-- R257: the pages of an increment's streaming bitmap. -/
def Increment.pages (n : Increment) : List Nat := n.items.filterMap (fun i => match i with | .page ia => some ia | _ => none)

/-- R257: the pages marked in a context's current bitmap or in that of an uncommitted increment. -/
def markedPages (c : Ctx) : List Nat :=
  c.cur.filterMap (fun i => match i with | .page ia => some ia | _ => none) ++ ((c.chain.filter (fun n => !n.committed)).map Increment.pages).flatten

/-- ROLLBACK (R102, R257, R284): a context stopped for a rollback resumes from its last committed cut on the placement that it had. -/
def execRollback (ctx : Nat) (s : State) : Host.Outcome State Fault Refusal :=
  .next (match s.ctxs[ctx]? with
  | none => s
  | some c =>
    if c.cause != some .rollback then s
    else match c.state with
      | .stopped => beginResume s ctx
      | .resuming => restoreCtx s ctx (some (markedPages c))
      | _ => s)

/-! ## Revision moves (R263) -/

/-- R263: a launch not yet begun passes to the target: the packet is started and is no longer the source's to complete. -/
def passLaunches (s : State) (ci : Nat) : State :=
  (s.fe.queues.filter (fun q => q.ctx == ci)).foldl (fun s q =>
    (q.started.filter (fun p => !p.complete && (pktType p.body == 1 || pktType p.body == 2) &&
        !s.grids.any (fun g => g.pkt == some { ctx := ci, queue := q.queue, slot := p.slot }))).foldl (fun s p =>
      modPkt (s.send (.passLaunch ci q.queue p.slot)) { ctx := ci, queue := q.queue, slot := p.slot } (fun p => { p with complete := true })) s) s

/-- REVISION_MOVE (R263): the source stops dispatching; the undispatched indices of each grid, and launches not yet begun, pass to the
target. -/
def execRevisionMove (ctx : Nat) (target : BitVec 128) (featmask : W64) (s : State) : Host.Outcome State Fault Refusal :=
  .next (match s.ctxs[ctx]? with
  | none => s
  | some c =>
    if c.moving || c.state != .running || featmask == Config.featmask || target == 0 then s
    else
      let s := s.modCtx ctx (fun c => { c with moving := true })
      passLaunches (((s.grids.zipIdx).filter (fun x => x.1.ctx == ctx && !x.1.complete && x.1.node.isNone)).foldl
        (fun s x => (s.send (.revision ctx x.2 x.1.next (gridTotal x.1 - x.1.next))).modGrid x.2 (fun g => { g with
          moved := g.moved || decide (g.next < gridTotal g), next := gridTotal g })) s) ctx |> fun s => endMove s ctx)

/-! ## Paired execution (R264 to R269) -/

/-- The two copies of a paired block, primary first; none for another block or a third run. -/
def copiesOf (s : State) (blk : Nat) : Option ((Nat × Block × Pair) × (Nat × Block × Pair)) :=
  match s.block? blk with
  | none => none
  | some b =>
    match b.pair with
    | none => none
    | some p =>
      match s.block? p.mate with
      | none => none
      | some b2 =>
        match b2.pair with
        | none => none
        | some p2 =>
          if p.isThird || p2.isThird || b.stat == .ended || b2.stat == .ended then none
          else if p.primary then some ((blk, b, p), (p.mate, b2, p2)) else some ((p.mate, b2, p2), (blk, b, p))

/-- R266: the compare points that a block has reached: the party that waits there, none for a phase completed by a copy's arrival or by a
standing arriver, and the point. -/
def pointsOf (s : State) (blk : Nat) (b : Block) : List (Option Who × Nat) :=
  (partiesOf b blk).filterMap (fun p =>
    if partyEnded s p then none
    else match s.ctl? p with
      | some c => (match c.wait with | .compare n => if c.cmpOk then none else some (some p.who, n) | _ => none)
      | none => none) ++ ((b.pair.map Pair.points).getD []).map (fun n => (none, n))

/-- R266: a compare point that both blocks have reached: the party of each, none for the end of both. -/
def sharedPoint (s : State) (x y : Nat × Block) : Option (Option ((Option Who × Nat) × (Option Who × Nat))) :=
  let ys := pointsOf s y.1 y.2
  match (pointsOf s x.1 x.2).findSome? (fun a =>
      (ys.find? (fun b => a.2 == b.2 && (a.2 != 0 || a.1 == b.1))).map (fun b => (a, b))) with
  | some r => some (some r)
  | none =>
    let ended (z : Nat × Block) : Bool := blockFinished s z.2 z.1 && z.2.locks.all HeldLock.written
    if ended x && ended y && !x.2.bell.ctl.cmpOk then some none else none

/-- R266: one shadow line as its digest takes it: address, byte mask and written bytes; an addend stands for the bytes it changes. -/
def Shadow.digest (x : Shadow) : List Byte :=
  let mask := (List.range 128).foldl (fun m k => if (assocGet x.bytes k).isSome || x.addend.any (fun a => decide (a.1 ≤ k) && decide (k < a.1 + 4))
    then m + 2 ^ k else m) 0
  leBytes 8 (x.pa * 128) ++ leBytes 16 mask ++ (List.range 128).filterMap (fun k => assocGet x.bytes k) ++
    (x.addend.map (fun a => leBytes 1 a.1 ++ leBytes 4 a.2.1.toNat ++ leBytes 1 (2 * a.2.2.1 + if a.2.2.2 then 1 else 0))).flatten

/-- Shadow lines in ascending address. -/
def shadowSorted (l : List Shadow) : List Shadow :=
  l.foldl (fun r x => r.takeWhile (fun y => decide (y.pa < x.pa)) ++ [x] ++ r.dropWhile (fun y => decide (y.pa < x.pa))) []

/-- R266: the store digest. -/
def storeDigest (p : Pair) : W32 := (shadowSorted p.shadow).foldl (fun c x => crcBytes c x.digest) 0xFFFFFFFF#32

/-- R266, R268: whether two copies agree. -/
def pairAgree (p q : Pair) : Bool := !p.failed && !q.failed && p.runSum == q.runSum && storeDigest p == storeDigest q

/-- R265, R267: one shadow line performed as plain writes; its latest package GWCT. -/
def flushLine (s : State) (x : Shadow) : State × Nat :=
  let pa := x.pa * 128
  let g := gPkg s pa
  let s := if x.addend.isEmpty then s else ownWrite s pa (shadowSums 0 (ownRead s pa 128) x.addend) x.typ none
  let s := x.bytes.foldl (fun s y => ownWrite s (pa + y.1) [y.2] x.typ none) s
  (x.bad.foldl (fun s d => s.addPoison (.mem (16 * x.pa + d))) s, g)

/-- R267: a primary's shadow lines performed, in ascending address. -/
def flushShadow (s : State) (l : List Shadow) : State × Nat :=
  (shadowSorted l).foldl (fun (r : State × Nat) x => let y := flushLine r.1 x; (y.1, max r.2 y.2)) (s, s.ft)

/-- R196, R252, R267: shadow lines asked for their writes: whether all may now be performed. A line whose request ends in an error is
written no more. -/
def flushReady (s : State) (c : Cause) : List Shadow → State × List Shadow × Bool
  | [] => (s, [], true)
  | x :: rest =>
    let (s, l, go) := flushReady s c rest
    match lineReady s c (x.pa * 128) 128 x.typ (if x.addend.isEmpty then .write else .sync) with
    | (s, .go) => (s, x :: l, go)
    | (s, .wait _) => (s, x :: l, false)
    | (s, .err _) => (s, l, go)

/-- R267: the place of a block's pair snapshot in the context's pair area, where each block has a slot of the size of the grid's block
images in whole pages (notes/assumptions 93). -/
def pairSlot (b : Block) (bytes : Nat) : Nat := b.lin * ((bytes + 4095) / 4096 * 4096)

/-- R267: the secondary's block record staged as a pair snapshot. -/
def stagePair (s : State) (a b : Nat × Block × Pair) : State :=
  let s := snapshot (snapshot s a.1) b.1
  match s.ctxs[b.2.1.ctx]?, assocGet s.snaps b.1 with
  | some c, some snap =>
    if c.desc.pairarea == 0 then s
    else
      let r := blockRecord c.recBase b.1 (snap.lin % clusterOf s snap) s.grids[snap.grid]? snap
      devWrite s b.2.1.ctx (c.desc.pairarea.toNat + pairSlot snap r.length) r
  | _, _ => s

/-- R266, R267: the compare point of a copy passed: its party may go on, or the phase is completed by the standing arrivers, or may be by
the copy's arrival. -/
def okPoint (s : State) (k : Nat) (pt : Option Who × Nat) : State :=
  match pt with
  | (some w, _) => s.modCtl { blk := k, who := w } (fun c => { c with cmpOk := true })
  | (none, n) => s.modBlock k (fun x =>
      let done := match x.bars[n - 1]? with | some nb => NBar.check nb != nb | none => false
      { x with
        bars := modNth x.bars (n - 1) NBar.check
        pair := x.pair.map (fun p => { p with
          points := p.points.erase n, passed := if done || p.passed.contains n then p.passed else p.passed ++ [n] }) })

/-- R199, R267: an agreed compare point: the primary's writes are performed, the secondary's discarded, and the parties there may go on. The
streams of both copies take the writes' completion times into their GWMAX. -/
def passPoint (s : State) (a b : Nat × Block × Pair) (pt : Option ((Option Who × Nat) × (Option Who × Nat))) : State :=
  match flushReady s (causeOf s a.2.1.ctx (.party { blk := a.1, who := .bell })) a.2.2.shadow with
  | (s, _, false) => s
  | (s, l, true) =>
    let (s, g) := flushShadow s l
    let pas := l.map (fun x => x.pa * 128)
    let full := (pas.map (gFull s)).foldl max 0
    let s := noteLines (noteLines s a.1 pas) b.1 pas
    let s := (partiesOf a.2.1 a.1 ++ partiesOf b.2.1 b.1).foldl (fun s p => raiseGw s p full) s
    let clear (s : State) (k : Nat) : State :=
      s.modBlock k (fun x => { x with pair := x.pair.map (fun p => { p with shadow := [], runSum := 0, g := g }) })
    let s := clear (clear s a.1) b.1
    let s := match pt with
      | some (w, w') => okPoint (okPoint s a.1 w) b.1 w'
      | none => okPoint (okPoint s a.1 (some .bell, 0)) b.1 (some .bell, 0)
    stagePair s a b

/-- COMPARE_POINT (R266, R267): both copies have reached a compare point and agree. -/
def execComparePoint (blk : Nat) (s : State) : Host.Outcome State Fault Refusal :=
  .next (match copiesOf s blk with
  | none => s
  | some (a, b) =>
    if a.2.2.run3.isSome || !blockRuns s a.2.1 || !blockRuns s b.2.1 then s
    else
      match sharedPoint s (a.1, a.2.1) (b.1, b.2.1) with
      | some pt => if pairAgree a.2.2 b.2.2 then passPoint s a b pt else s
      | none => s)

/-- R248: the scratchpad lines and accumulator row groups that a block starts with marked, as writes. -/
def markBlock (s : State) (k : Nat) (b : Block) : State :=
  let items := ((b.scratch.map (fun x => Item.scratch k (x.1 / 128))) ++ b.acc.map (fun x => Item.acc k (x.1 / 1024))).eraseDups
  items.foldl (fun s i => markItem s k i) s

/-- R268: a third run begun: the last pair snapshot on a core of a quad that holds neither copy, all of it marked as written. -/
def startThird (s : State) (a b : Nat × Block × Pair) : State :=
  match s.ctxs[a.2.1.ctx]?, assocGet s.snaps b.1 with
  | some c, some snap =>
    let quads := (quadsOf c.desc.cores).filter (fun (q : List Nat) => !q.contains a.2.1.core && !q.contains b.2.1.core)
    (match quads.findSome? (fun q => placeIn snap.decl.room 1 (quadRoom s a.2.1.ctx false q)) with
    | some [core] =>
      let k := s.blocks.length
      let pr : Pair := { Pair.start b.1 false with isThird := true }
      let t : Block := { snap.stop with stat := .resident, core := core, pair := some pr, newborn := true }
      let s := markBlock (addBlock s t) k t
      let s := s.modBlock a.1 (fun x => { x with pair := x.pair.map (fun p => { p with run3 := some k }) })
      s.modBlock b.1 (fun x => { x with pair := x.pair.map (fun p => { p with run3 := some k }) })
    | _ => s)
  | _, _ => s

/-- R269: a core's copy replaced by a third run; the third time within an hour quarantines the core. -/
def noteReplaced (s : State) (core : Nat) : State :=
  let s := s.modCore core (fun c => { c with replaced := s.ft :: c.replaced.filter (fun t => decide (s.ft < t + 3600000000000)) })
  match s.cores[core]? with
  | some c => if c.replaced.length ≥ 3 then
      (s.modCore core (fun c => { c with quarantined := true })).modMgmt (fun m => { m with quar := true, replreq := true }) else s
  | none => s

/-- R268: the third run `k` takes the place of copy `old`, beside `mate`. -/
def replaceCopy (s : State) (k : Nat) (old mate : Nat × Block × Pair) : State :=
  let s := s.modBlock k (fun x => { x with
    frame := old.2.1.frame, pair := x.pair.map (fun p => { p with mate := mate.1, primary := old.2.2.primary, isThird := false, run3 := none }) })
  let s := s.modBlock mate.1 (fun x => { x with pair := x.pair.map (fun p => { p with mate := k, run3 := none }) })
  let s := s.modBlock old.1 (fun x => { x with stat := .ended, locks := [], copies := [], mops := [] })
  let s := s.modGrid old.2.1.grid (fun g => { g with arrived := g.arrived.map (fun n => if n == old.1 then k else n) })
  let s := s.modMem (fun m => { m with locks := m.locks.map (fun l => if l.holder == some old.1 then { l with holder := some k } else l) })
  noteReplaced (snapshot s k) old.2.1.core

/-- R269: a block whose third run agrees with neither copy. -/
def unresolved (s : State) (a b : Nat × Block × Pair) (k : Nat) : State :=
  let drop (s : State) (n : Nat) : State := s.modBlock n (fun x => { x with pair := x.pair.map (fun p => { p with shadow := [], run3 := none }) })
  let s := drop (drop (drop s a.1) b.1) k
  let s := s.modBlock k (fun x => { x with stat := .ended })
  let quar (s : State) (c : Nat) : State := s.modCore c (fun c => { c with quarantined := true })
  let s := quar (quar s a.2.1.core) b.2.1.core
  let s := s.modMgmt (fun m => { m with quar := true, replreq := true })
  stopContext s a.2.1.ctx fPAIRUNRES 0 a.2.1.lin 0xFF 0xFF

/-- R268: whether a third run has come to where it decides: at a compare point with a copy, failed, or with no party that runs. -/
def thirdHalted (s : State) (t : Nat × Block × Pair) : Bool :=
  t.2.2.failed || (partiesOf t.2.1 t.1).all (fun p => partyEnded s p ||
    (match s.ctl? p with | some c => (match c.wait with | .compare _ => true | _ => false) | none => true))

/-- THIRD_RUN (R268, R269): copies that disagree, or one of which has raised BRAND, are decided by a third run. -/
def execThirdRun (blk : Nat) (s : State) : Host.Outcome State Fault Refusal :=
  .next (match copiesOf s blk with
  | none => s
  | some (a, b) =>
    match (s.ctxs[a.2.1.ctx]?).map Ctx.state with
    | some .running =>
      let pt := sharedPoint s (a.1, a.2.1) (b.1, b.2.1)
      let odd := a.2.2.failed || b.2.2.failed || (pt.isSome && !pairAgree a.2.2 b.2.2)
      if !odd then s
      else
        match a.2.2.run3 with
        | none => startThird s a b
        | some k =>
          match s.block? k with
          | none => s
          | some t =>
            match t.pair with
            | none => s
            | some tp =>
              let same (x : Nat × Block × Pair) : Bool := (sharedPoint s (x.1, x.2.1) (k, t)).isSome
              if same a && pairAgree a.2.2 tp then replaceCopy s k b a
              else if same b && pairAgree b.2.2 tp then replaceCopy s k a b
              else if same a || same b || thirdHalted s (k, t, tp) then unresolved s a b k
              else s
    | _ => s)

end Sys2Proof.Machine
end

