-- ==== Sys2Proof/Machine/EvQueue.lean ====
section
/-! DEFINITION. Submission and the command packets other than LOAD (12_front_end R271 to R287, R295, R494): doorbells, the queue table,
context descriptors, packets, register writes and patch bundles. -/

namespace Sys2Proof.Machine

open Sys2Proof

/-! ## Doorbells (R274, R275, R279) -/

/-- R274: a discarded doorbell counted. -/
def countDrop (s : State) (fn : Nat) : State := s.modFn fn (fun f => { f with drops := f.drops + 1 })

/-- R279: a free latch. -/
def TailLatch.free (l : TailLatch) : Bool := l.tail == l.seen && l.recorded

/-- R279: whether a tail lies ahead of another by less than 2³¹. -/
def tailAhead (new old : W32) : Bool := let d := (new - old).toNat; decide (1 ≤ d) && decide (d < 2 ^ 31)

/-- R279: the latch that a doorbell taken while free makes. -/
def TailLatch.start (fn pasid queue : Nat) (tail : W32) : TailLatch :=
  { fn := fn, pasid := pasid, queue := queue, tail := tail, seen := tail, fresh := true, recorded := false }

/-- R275, R279: a doorbell write. -/
def takeDoorbell (s : State) (fn : Nat) (v : W64) : State :=
  let n := v.toNat
  let pasid := n / 2 ^ 44
  let queue := n / 2 ^ 32 % 256
  let tail : W32 := lo32 v
  match s.fns[fn]? with
  | none => s
  | some f =>
    if n / 2 ^ 40 % 16 != 0 || decide (pasid ≥ f.pasidlim) then countDrop s fn
    else
      let mine (l : TailLatch) : Bool := l.fn == fn && l.pasid == pasid && l.queue == queue
      let ls := s.fe.latches
      if ls.any mine then
        s.modFe (fun e => { e with latches := ls.map (fun l => if mine l && tailAhead tail l.tail then { l with tail := tail } else l) })
      else if ls.length < 4096 then s.modFe (fun e => { e with latches := ls ++ [TailLatch.start fn pasid queue tail] })
      else
        match ls.findIdx? TailLatch.free with
        | some i => s.modFe (fun e => { e with latches := ls.set i (TailLatch.start fn pasid queue tail) })
        | none => s.modFe (fun e => { e with held := e.held ++ [(fn, v)] })

/-- DOORBELL (R279). -/
def execDoorbell (fn : Nat) (v : W64) (s : State) : Host.Outcome State Fault Refusal := .next (takeDoorbell s fn v)

/-- R279: the oldest held doorbell taken, once a latch is free. -/
def takeHeld (s : State) : State :=
  match s.fe.held with
  | (fn, v) :: rest =>
    if s.fe.latches.length < 4096 || s.fe.latches.any TailLatch.free then takeDoorbell (s.modFe (fun e => { e with held := rest })) fn v else s
  | [] => s

/-- DROPS (R274): the count is returned and cleared. -/
def execDrops (fn : Nat) (s : State) : Host.Outcome State Fault Refusal :=
  .next (match s.fns[fn]? with
  | some f => (s.send (.regValue fn 0x080 f.drops)).modFn fn (fun f => { f with drops := 0 })
  | none => s)

/-! ## The queue table and context descriptors (R275, R276, R250) -/

/-- R221, R222: what a failed read of the sequencer's own comes to: a fault code, or none while it waits on a page request or on the line. -/
def feFail (s : State) (fn pasid : Nat) : XStop → State × Option Nat
  | .fault c _ => (s, some c)
  | .hold _ => (s, none)
  | .need st2 page wr absent =>
    match needCode ((s.fe.answers.filter (fun x => x.1 == fn && x.2.1 == pasid)).map (fun x => x.2.2)) st2 page wr absent with
    | some c => (s, some c)
    | none =>
      match pageRequest s fn pasid st2 page wr with
      | (s, some id) => (s.modFe (fun e => { e with
          reqs := if e.reqs.contains (fn, pasid, id) then e.reqs else (fn, pasid, id) :: e.reqs }), none)
      | (s, none) => (s, some fXLATE)

/-- R222: the answers for the sequencer's own reads dropped, once those have been made. -/
def feDone (s : State) (fn pasid : Nat) : State :=
  s.modFe (fun e => { e with answers := e.answers.filter (fun x => !(x.1 == fn && x.2.1 == pasid)) })

/-- What a queue table entry gives: an address; P = 0; V = 0 or a reserved bit; or nothing yet. -/
inductive Walked where
  | ok (addr : Nat)
  | absent
  | bad
  | wait
  deriving DecidableEq, Repr

/-- R275: A set in a present queue table entry, in the step that reads it; false while the line is not to be had. -/
def markEntry (s : State) (fn pa e : Nat) : State × Bool :=
  if e.testBit 2 then (s, true)
  else
    match lineFor s (fnCause s fn) none pa 8 0 .write with
    | (s, .go) => (ownWrite s pa (leBytes 8 (e + 4)) 0 none, true)
    | (s, .wait _) => (s, false)
    | (s, .err _) => (s, true)

/-- R275: what a queue table entry says. -/
def entryOf (e : Nat) (level1 : Bool) : Walked :=
  if !e.testBit 0 || e / 8 % 16 != 0 || (level1 && e / 128 % 32 != 0) then .bad
  else if !e.testBit 1 then .absent
  else .ok (e / 128 * 128)

/-- R275: a walked entry put into the cache of 512, in place of the oldest (notes/assumptions 116). -/
def keepWalk (s : State) (fn pasid : Nat) (queue : Option Nat) (e : Nat) : State :=
  s.modFe (fun x => { x with walked := ({ fn := fn, pasid := pasid, queue := queue, word := e } :: x.walked).take 512 })

/-- R275: an entry of the queue table at `a`, of the second level when it names a queue: as it is cached, until a FLUSHQ covers it, else
as it is read; A is set in a present one. An entry that its translation or poison keeps from being read counts as V = 0
(notes/assumptions 116). -/
def tableEntry (s : State) (fn pasid : Nat) (queue : Option Nat) (a : Nat) : State × Walked :=
  let l1 := queue.isNone
  let failed (s : State) (x : XStop) : State × Walked :=
    match feFail s fn 0 x with
    | (s, some _) => (keepWalk (feDone s fn 0) fn pasid queue 0, .bad)
    | (s, none) => (s, .wait)
  match s.fe.walked.find? (fun w => w.fn == fn && w.pasid == pasid && w.queue == queue) with
  | some w => (s, entryOf w.word l1)
  | none =>
    match iaRead s fn a 8 with
    | (s, .error x) => failed s x
    | (s, .ok bs) =>
      let e := leNat bs
      match entryOf e l1 with
      | .ok addr =>
        (match iaPhys s fn a with
        | (s, .error x) => failed s x
        | (s, .ok pa) =>
          match markEntry s fn pa e with
          | (s, true) => (keepWalk s fn pasid queue e, .ok addr)
          | (s, false) => (s, .wait))
      | w => (keepWalk s fn pasid queue e, w)

/-- R275: the address of the context page's entry of a PASID. -/
def rootEntry (s : State) (fn pasid : Nat) : Nat := ((s.fns[fn]?).map Fn.qroot).getD 0 + 8 * pasid

/-- R275: the walk of the queue table: the context page and the QCB. -/
def walkTable (s : State) (fn pasid queue : Nat) : State × Except Walked (Nat × Nat) :=
  match tableEntry s fn pasid none (rootEntry s fn pasid) with
  | (s, .ok page) =>
    match tableEntry s fn pasid (some queue) (page + 8 * queue) with
    | (s, .ok qcb) => (feDone s fn 0, .ok (page, qcb))
    | (s, w) => (s, .error w)
  | (s, w) => (s, .error w)

/-- R276: a context descriptor from the 2,048 bytes of the context page, without its checkpoint set; a slot tag has 4 bits (R249). -/
def descOf (bs : List Byte) : CtxDesc :=
  let f (off n : Nat) : Nat := leNat ((bs.drop off).take n)
  { s1root := f 0x00 8, lease := 64 * 2 ^ f 0x08 1, ckptms := f 0x0C 4, cores := BitVec.ofNat 128 (f 0x10 16),
    lkbase := BitVec.ofNat 64 (f 0x20 8), lklim := f 0x28 4, slottag := f 0x2C 1 % 16, statusrec := BitVec.ofNat 64 (f 0x30 8),
    swap := (BitVec.ofNat 64 (f 0x38 8), f 0x40 8), spillheap := (BitVec.ofNat 64 (f 0x48 8), f 0x50 8),
    staging := BitVec.ofNat 64 (f 0x58 8), pairarea := BitVec.ofNat 64 (f 0x60 8), chain := f 0x68 8, cset := [],
    errlog := BitVec.ofNat 64 (f 0x80 8), lkphys := Vector.ofFn (fun d => f (0x88 + 2 * d.val) 2), botable := BitVec.ofNat 64 (f 0x90 8),
    brmap := BitVec.ofNat 64 (f 0x98 8) }

/-- R276: the reserved bytes, LEASE, the areas' alignment and the lock bases of a descriptor. -/
def descOk (bs : List Byte) (d : CtxDesc) : Bool :=
  let f (off n : Nat) : Nat := leNat ((bs.drop off).take n)
  decide (f 0x08 1 ≤ 6) && f 0x09 3 == 0 && f 0x2D 3 == 0 && f 0x7C 4 == 0 && (bs.drop 0xA0).all (· == 0) &&
    d.s1root % 4096 == 0 && d.statusrec.toNat % 64 == 0 && d.spillheap.1.toNat % 4096 == 0 && d.spillheap.2 % 4096 == 0 &&
    d.chain % 4096 == 0 && d.botable.toNat % 4096 == 0 && d.brmap.toNat % 64 == 0 &&
    d.lkphys.toList.all (fun b => decide (b + d.lklim ≤ 4096))

/-- R250: the entries of a checkpoint set list. -/
def csetOf : Nat → List Byte → List (Nat × Nat)
  | 0, _ => []
  | n + 1, bs => (leNat (bs.take 8), leNat ((bs.drop 8).take 8)) :: csetOf n (bs.drop 16)

/-- R250: a valid checkpoint set list, above an intermediate address. -/
def csetOk (s : State) : Option Nat → List (Nat × Nat) → Bool
  | _, [] => true
  | lo, e :: rest =>
    (match lo with | some l => decide (l < e.1) | none => true) && e.1 % 65536 == 0 && e.2 % 65536 == 0 && paPkg e.2 == s.fabric.pkg &&
      (match region s e.2 with | .hbm _ => true | _ => false) && csetOk s (some e.1) rest

/-- R244, R245: a context at its creation. -/
def Ctx.start (fn pasid ft : Nat) (d : CtxDesc) : Ctx :=
  { fn := fn, pasid := pasid, state := .running, desc := d, cause := none, stopCode := 0, interval := 1, cutTime := none, cutCores := [],
    cutWant := false, nextCkpt := if d.ckptms == 0 then 0 else ft + 1000000 * d.ckptms, cur := [], chain := [], lastCut := 0, lastCommit := 0,
    commitFt := 0, savecost := 0, errCount := 0, region := none, preempt := false, moving := false, rebind := [], recBase := 0 }

/-- R250, R276: a context descriptor read from its page: the descriptor; none when it is refused; or an error while it cannot be read yet. -/
def readDesc (s : State) (fn pasid page : Nat) : State × Except Unit (Option CtxDesc) :=
  let failed (s : State) (p : Nat) (x : XStop) : State × Except Unit (Option CtxDesc) :=
    match feFail s fn p x with
    | (s, some _) => (feDone s fn p, .ok none)
    | (s, none) => (s, .error ())
  match iaRead s fn (page + 0x800) 2048 with
  | (s, .error x) => failed s 0 x
  | (s, .ok bs) =>
    let d := descOf bs
    if !descOk bs d then (s, .ok none)
    else
      let n := leNat ((bs.drop 0x78).take 4)
      match devRead s .front (Ctx.start fn pasid s.ft d) (leNat ((bs.drop 0x70).take 8)) (16 * n) with
      | (s, .error x) => failed s pasid x
      | (s, .ok l) =>
        (feDone (feDone s fn 0) fn pasid, .ok (if csetOk s none (csetOf n l) then some { d with cset := csetOf n l } else none))

/-- R249, R250: the slot tags that a checkpoint set list sets, and those that it clears of the list before. -/
def setTags (s : State) (old new : CtxDesc) : State :=
  let gone := (old.cset.map (fun e => e.2 / 65536)).filter (fun p => (assocGet s.mem.slotTags p).getD 0 == old.slottag)
  let put (l : List (Nat × Nat)) (p : Nat) : List (Nat × Nat) :=
    if new.slottag == 0 then l.filter (fun x => x.1 != p) else assocSet l p new.slottag
  let kept (l : List (Nat × Nat)) : List (Nat × Nat) := l.filter (fun x => !gone.contains x.1)
  s.modMem (fun m => { m with slotTags := (new.cset.map (fun e => e.2 / 65536)).foldl put (kept m.slotTags) })

/-- The context of a function and PASID that has not been discarded. -/
def findCtx (s : State) (fn pasid : Nat) : Option Nat := s.ctxs.findIdx? (fun c => c.fn == fn && c.pasid == pasid && c.state != .discarded)

/-- R275, R276: a queue suspended: its triple, and its QCB when that has been walked. -/
def suspendQueue (s : State) (fn pasid queue : Nat) : State :=
  let s := s.modFe (fun e => { e with suspended := if e.suspended.contains (fn, pasid, queue) then e.suspended else (fn, pasid, queue) :: e.suspended })
  match findCtx s fn pasid with
  | some ci => setQueue s ci queue (fun q => { q with state := 2 })
  | none => s

/-- R275, R276: whether a queue is suspended by its table entry or by its descriptor. -/
def queueSuspended (s : State) (fn pasid queue : Nat) : Bool :=
  s.fe.suspended.contains (fn, pasid, queue) || s.fe.refused.any (fun r => r.1 == fn && r.2.1 == pasid && !r.2.2.contains queue)

/-- R276: a refused descriptor: a DESC event, and every queue of the PASID suspended. -/
def refuseDesc (s : State) (fn pasid queue : Nat) : State :=
  let s := (postEvent s fn 6 0 queue pasid 0).modFe (fun e => { e with
    refused := (fn, pasid, []) :: e.refused.filter (fun r => !(r.1 == fn && r.2.1 == pasid)) })
  match findCtx s fn pasid with
  | some ci => (s.fe.queues.filter (fun q => q.ctx == ci)).foldl (fun s q => suspendQueue s fn pasid q.queue) s
  | none => s

/-- R276: the context of a PASID whose queue is first walked, made from its descriptor: none when that is refused, an error while it
cannot be read yet. -/
def walkCtx (s : State) (fn pasid page queue : Nat) : State × Except Unit (Option Nat) :=
  match findCtx s fn pasid with
  | some ci => (s, .ok (some ci))
  | none =>
    match readDesc s fn pasid page with
    | (s, .ok (some d)) => (setTags { s with ctxs := s.ctxs ++ [Ctx.start fn pasid s.ft d] } { d with cset := [] } d, .ok (some s.ctxs.length))
    | (s, .ok none) => (refuseDesc s fn pasid queue, .ok none)
    | (s, .error _) => (s, .error ())

/-! ## Packets of a ring (R277, R278, R281, R494) -/

/-- The sequencer's record of a queue changed. -/
def State.modQueue (s : State) (ci q : Nat) (f : Queue → Queue) : State :=
  s.modFe (fun fe => { fe with queues := fe.queues.map (fun y => if y.ctx == ci && y.queue == q then f y else y) })

/-- R221, R494: what a failed translation for a queue's packet comes to: a fault code, or none while it waits. -/
def qFail (s : State) (c : Ctx) (x : Queue) : XStop → State × Option Nat
  | .fault code _ => (s, some code)
  | .hold _ => (s, none)
  | .need st2 page wr absent =>
    match needCode x.outcomes st2 page wr absent with
    | some code => (s, some code)
    | none =>
      match pageRequest s c.fn c.pasid st2 page wr with
      | (s, some id) => (s.modQueue x.ctx x.queue (fun y => { y with req := some id }), none)
      | (s, none) => (s, some fXLATE)

/-- R221, R282: an address of a queue's packet translated: no value while it waits, or the fault code. -/
def qXlate (s : State) (c : Ctx) (x : Queue) (va : W64) (acc : Acc) : State × Except (Option Nat) Leaf :=
  match xlate s .front c va acc false with
  | .ok (s, l) => (s, .ok l)
  | .error (s, e) => let r := qFail s c x e; (r.1, .error r.2)

/-- R494: bytes of a context's memory read for a queue's packet. -/
def qRead (s : State) (c : Ctx) (x : Queue) (va n : Nat) : State × Except (Option Nat) (List Byte) :=
  match devRead s .front c va n with
  | (s, .ok bs) => (s, .ok bs)
  | (s, .error e) => let r := qFail s c x e; (r.1, .error r.2)

/-- R277: the virtual address of a ring slot. -/
def slotVa (x : Queue) (idx : Nat) : Nat := (x.rbase + BitVec.ofNat 64 (64 * (idx % 2 ^ x.rlog2))).toNat

/-- Further slots of a packet, from an index on; an error names the slot. -/
def slotsAt (c : Ctx) (x : Queue) : Nat → Nat → State → List Byte → State × Except (Option (Nat × Nat)) (List Byte)
  | 0, _, s, acc => (s, .ok acc)
  | n + 1, idx, s, acc =>
    match qRead s c x (slotVa x idx) 64 with
    | (s, .error e) => (s, .error (e.map (fun code => (code, idx % 2 ^ 32))))
    | (s, .ok bs) => slotsAt c x n (idx + 1) s (acc ++ bs)

/-- A packet read from the ring from an index on; `limit`: how many slots are there to be read. An error gives the code and the slot. -/
def packetAt (s : State) (c : Ctx) (x : Queue) (idx limit : Nat) : State × Except (Option (Nat × Nat)) (Option Pkt) :=
  match slotsAt c x 1 idx s [] with
  | (s, .error e) => (s, .error e)
  | (s, .ok b0) =>
    let n := pktSlots b0
    if limit < n then (s, .ok none)
    else
      let r := slotsAt c x (n - 1) (idx + 1) s b0
      (r.1, r.2.map (fun body => some { slot := idx % 2 ^ 32, len := n, body := body, step := 0, complete := false, seq := s.fe.seq }))

/-- R494: a ring slot that cannot be read: the queue is in error, and an event names the slot. -/
def queueError (s : State) (c : Ctx) (x : Queue) (code slot : Nat) : State :=
  postEvent (setQueue s x.ctx x.queue (fun q => { q with state := 3 })) c.fn 4 code x.queue c.pasid slot

/-- R278, R280: the packets from an index to HEAD that a QCB says are started, the oldest at PROG; those that the sequencer knows keep their
course. One that cannot be read stands for itself and all after it, and its code and slot are given; nothing while it must wait. -/
def startedFrom (c : Ctx) (x : Queue) : Nat → State → W32 → List Pkt → State × Option (List Pkt × Option (Nat × Nat))
  | 0, s, _, l => (s, some (l, none))
  | fuel + 1, s, idx, l =>
    let at_ (p : Pkt) : Pkt := if l.isEmpty then { p with step := x.prog } else p
    if idx == x.head then (s, some (l, none))
    else
      match x.started.find? (fun k => k.slot == idx.toNat && k.len != 0) with
      | some k => startedFrom c x fuel s (idx + BitVec.ofNat 32 k.len) (l ++ [at_ k])
      | none =>
        match packetAt s c x idx.toNat (x.head - idx).toNat with
        | (s, .ok (some p)) =>
          startedFrom c x fuel (s.modFe (fun e => { e with seq := e.seq + 1 })) (idx + BitVec.ofNat 32 p.len) (l ++ [at_ p])
        | (s, .ok none) => (s, some (l, none))
        | (s, .error none) => (s, none)
        | (s, .error (some e)) =>
          (s, some (l ++ [at_ { slot := idx.toNat, len := 0, body := [], step := 0, complete := false, seq := 0 }], some e))

/-- R277, R494: a queue's record from the 32 bytes of its QCB; `fresh`: error and suspension end (a FLUSHQ). -/
def qcbOf (x : Queue) (bs : List Byte) (fresh : Bool) : Queue :=
  let f (off n : Nat) : Nat := leNat ((bs.drop off).take n)
  let st := f 0x0A 2
  { x with
    rbase := BitVec.ofNat 64 (f 0 8), rlog2 := f 8 1, prio := f 9 1 % 4, head := BitVec.ofNat 32 (f 0x0C 4), done := BitVec.ofNat 32 (f 0x10 4)
    tail := BitVec.ofNat 32 (f 0x14 4), prog := f 0x18 8, load := .done
    state := if st == 4 || (st == 3 && !fresh) then st else if x.state == 2 && !fresh then 2 else 0 }

/-- R279, R494: what is wrong with a QCB as it is read: the kind of event that says so. -/
def qcbBad (x : Queue) : Option Nat :=
  if decide (x.rlog2 < 4) || decide (20 < x.rlog2) then some 6
  else if (x.tail - x.done).toNat > 2 ^ x.rlog2 then some 2
  else none

/-- The sequencer's record of a queue put in its place, or after the others. -/
def putQueue (s : State) (x : Queue) : State :=
  let same (q : Queue) : Bool := q.ctx == x.ctx && q.queue == x.queue
  let put (l : List Queue) : List Queue := if l.any same then l.map (fun q => if same q then x else q) else l ++ [x]
  s.modFe (fun e => { e with queues := put e.queues })

/-- R277, R279, R280, R494: a queue read from its QCB. While that or a started packet cannot be read yet, it is still to be loaded. -/
def loadQcb (s : State) (ci : Nat) (c : Ctx) (x : Queue) (fresh : Bool) : State :=
  let late (s : State) : State :=
    match queueOf s ci x.queue with
    | some _ => s.modQueue ci x.queue (fun y => { y with qcb := x.qcb, load := if fresh then .flush else .restart })
    | none => putQueue s { x with load := .restart }
  match iaRead s c.fn x.qcb 32 with
  | (s, .error e) =>
    (match feFail s c.fn 0 e with
    | (s, none) => late s
    | (s, some _) =>
      postEvent (putQueue (feDone s c.fn 0) { x with state := 3, load := .done }) c.fn 6 0 x.queue c.pasid 0)
  | (s, .ok bs) =>
    let y := qcbOf x bs fresh
    match qcbBad y with
    | some k => postEvent (setQueue (putQueue s y) ci x.queue (fun q => { q with state := 3 })) c.fn k 0 x.queue c.pasid 0
    | none =>
      match startedFrom c y ((y.head - y.done).toNat) s y.done [] with
      | (s, none) => late s
      | (s, some (l, bad)) =>
        let s := setQueue (putQueue s y) ci x.queue (fun q => Queue.advance { q with started := l, req := none, outcomes := [] })
        match bad with
        | some e => queueError s c y e.1 e.2
        | none => s

/-- A queue as it is before its QCB is read. -/
def Queue.blank (ci queue qcb : Nat) : Queue :=
  { ctx := ci, queue := queue, qcb := qcb, rbase := 0, rlog2 := 0, prio := 0, state := 0, head := 0, done := 0, tail := 0, started := [],
    req := none, outcomes := [], prog := 0, load := .done }

/-- R275: the doorbells latched for a queue discarded and counted. -/
def discardBells (s : State) (fn pasid queue : Nat) : State :=
  let mine (l : TailLatch) : Bool := l.fn == fn && l.pasid == pasid && l.queue == queue
  let n := (s.fe.latches.filter (fun l => mine l && !l.free)).length
  let s := s.modFe (fun e => { e with latches := e.latches.filter (fun l => !mine l) })
  (List.range n).foldl (fun s _ => countDrop s fn) s

/-- R275, R276: a queue of a triple walked: its entry of the queue table, its context and its QCB; none when it is refused or cannot be
read yet. -/
def walkTriple (s : State) (fn pasid queue : Nat) (fresh : Bool) : State × Option Queue :=
  match walkTable s fn pasid queue with
  | (s, .error .absent) => (suspendQueue (postEvent s fn 1 0 queue pasid 0) fn pasid queue, none)
  | (s, .error .wait) => (s, none)
  | (s, .error _) => (discardBells (feDone s fn 0) fn pasid queue, none)
  | (s, .ok (page, qcb)) =>
    match walkCtx s fn pasid page queue with
    | (s, .ok (some ci)) =>
      (match s.ctxs[ci]? with
      | none => (s, none)
      | some c =>
        let x := match queueOf s ci queue with | some x => { x with qcb := qcb } | none => Queue.blank ci queue qcb
        let s := loadQcb s ci c x fresh
        (s, (queueOf s ci queue).filter (fun x => x.load == .done)))
    | (s, _) => (s, none)

/-- R275, R276: a queue found by its triple, walked when the sequencer does not hold its entry. -/
def walkQueue (s : State) (fn pasid queue : Nat) : State × Option Queue :=
  match (findCtx s fn pasid).bind (fun ci => queueOf s ci queue) with
  | some x => if x.load == .done then (s, some x) else walkTriple s fn pasid queue (x.load == .flush)
  | none => walkTriple s fn pasid queue false

/-- R279: a latch's tail judged against the QCB and recorded there; a tail more than a ring ahead of DONE puts the queue into error. -/
def judgeTail (s : State) (x : Queue) (fn pasid : Nat) (tail : W32) : State :=
  if !tailAhead tail x.tail then s
  else
    let s := setQueue s x.ctx x.queue (fun q => Queue.advance { q with tail := tail })
    if (tail - x.done).toNat > 2 ^ x.rlog2 then
      postEvent (setQueue s x.ctx x.queue (fun q => { q with state := 3 })) fn 2 0 x.queue pasid 0
    else s

/-- READ_AND_MARK (R275, R276, R279, R280): a latch is read and its queue learns the tail. -/
def execReadAndMark (latch : Nat) (s : State) : Host.Outcome State Fault Refusal :=
  .next (match s.fe.latches[latch]? with
  | none => s
  | some l =>
    if s.fe.restart || s.mgmt.bootfail then s
    else
      let mine (k : TailLatch) : Bool := k.fn == l.fn && k.pasid == l.pasid && k.queue == l.queue
      let s := s.modFe (fun e => { e with latches := e.latches.map (fun k => if mine k then { k with seen := k.tail } else k) })
      if queueSuspended s l.fn l.pasid l.queue then s
      else
        match walkQueue s l.fn l.pasid l.queue with
        | (s, none) => takeHeld s
        | (s, some x) =>
          let s := judgeTail s x l.fn l.pasid l.tail
          let tail := ((queueOf s x.ctx x.queue).map Queue.tail).getD l.tail
          takeHeld (s.modFe (fun e => { e with
            latches := e.latches.map (fun k => if mine k then { k with tail := tail, seen := tail, fresh := false, recorded := true } else k) })))

/-! ## FLUSHQ (R275, R276, R254) -/

/-- R249, R250, R254, R276: a descriptor just read becomes its context's: the slot tags and the checkpoint clock follow it, and a cut that
waited for room in the chain is tried again. -/
def takeDesc (s : State) (ci : Nat) (d : CtxDesc) : State :=
  match s.ctxs[ci]? with
  | none => s
  | some c =>
    retryCut (s.modCtx ci (fun c => { c with
      desc := d
      cur := c.cur.filter (fun i => match i with | .page ia => d.cset.any (fun e => e.1 == ia) | _ => true)
      nextCkpt := if d.ckptms == c.desc.ckptms then c.nextCkpt else if d.ckptms == 0 then 0 else s.ft + 1000000 * d.ckptms }) |> fun s =>
        setTags s c.desc d) ci

/-- R276: a context's descriptor read again after a FLUSHQ; a refused one suspends its queues. -/
def reloadDesc (s : State) (ci : Nat) : State :=
  let read (s : State) : State := s.modFe (fun e => { e with reread := e.reread.filter (fun k => k != ci) })
  match s.ctxs[ci]? with
  | none => read s
  | some c =>
    match tableEntry s c.fn c.pasid none (rootEntry s c.fn c.pasid) with
    | (s, .ok page) =>
      (match readDesc s c.fn c.pasid page with
      | (s, .error _) => s
      | (s, .ok none) => refuseDesc (read s) c.fn c.pasid 0
      | (s, .ok (some d)) => takeDesc (read s) ci d)
    | (s, .wait) => s
    | (s, _) => read s

/-- R275, R280: a queue that has still to be read from its table entry or its QCB. -/
def reloadQueue (s : State) (x : Queue) : State :=
  match s.ctxs[x.ctx]? with
  | none => s
  | some c =>
    if c.state == .discarded || queueSuspended s c.fn c.pasid x.queue || s.fe.reread.contains x.ctx then s
    else
      match x.load with
      | .done => s
      | .restart => loadQcb s x.ctx c x false
      | .flush => (walkTriple s c.fn c.pasid x.queue true).1

/-- R275, R276, R280: what the sequencer has still to read, as far as it can be read. -/
def reloadAll (s : State) : State :=
  let s := s.fe.reread.foldl reloadDesc s
  (s.fe.queues.filter (fun x => x.load != .done)).foldl reloadQueue s

/-- Whether the sequencer has something to read that it can go on with. -/
def reloadDue (s : State) : Bool :=
  (!s.fe.reread.isEmpty || s.fe.queues.any (fun x => x.load != .done)) && reloadAll s != s

/-- R274, R275, R276: a write to FLUSHQ: the cached entries of the queues named are dropped, their suspension and error end, and their
contexts' descriptors are read again. -/
def flushQueues (s : State) (fn : Nat) (v : W64) : State :=
  let pasid := v.toNat / 2 ^ 44
  let queue := v.toNat / 2 ^ 32 % 256
  let all := v.getLsbD 0
  let named (f p q : Nat) : Bool := f == fn && (all || (p == pasid && q == queue))
  let ofCtx (c : Ctx) : Bool := c.fn == fn && c.state != .discarded && (all || c.pasid == pasid)
  reloadAll (s.modFe (fun e => { e with
    walked := e.walked.filter (fun w => !(w.fn == fn && (all || (w.pasid == pasid && (w.queue.getD queue == queue)))))
    suspended := e.suspended.filter (fun t => !named t.1 t.2.1 t.2.2)
    refused := if all then e.refused.filter (fun r => r.1 != fn)
      else e.refused.map (fun r => if r.1 == fn && r.2.1 == pasid then (r.1, r.2.1, queue :: r.2.2) else r)
    latches := e.latches.map (fun l => if named l.fn l.pasid l.queue then { l with recorded := false } else l)
    reread := ((s.ctxs.zipIdx).filter (fun (x : Ctx × Nat) => ofCtx x.1)).map Prod.snd ++ e.reread.filter (fun k =>
      match s.ctxs[k]? with | some c => !ofCtx c | none => false)
    queues := e.queues.map (fun x => match s.ctxs[x.ctx]? with
      | some c => if named c.fn c.pasid x.queue then { x with load := .flush } else x
      | none => x) }))

/-- FLUSHQ (R274, R275, R276). -/
def execFlushq (fn : Nat) (v : W64) (s : State) : Host.Outcome State Fault Refusal := .next (flushQueues s fn v)

/-! ## Starting packets (R278, R281, R494) -/

/-- R281: the status of a packet that does nothing: a nonzero reserved field, a reserved type, a LEN that its type does not give, or a
privileged command of a VF. -/
def pktRefused (c : Ctx) (p : Pkt) : Option Nat :=
  let t := pktType p.body
  let f (off n : Nat) : Bool := ((p.body.drop off).take n).all (· == 0)
  if pktNat p.body 0 4 / 2 ^ 12 != 0 then some fILLOP
  else
    match pktLen t with
    | none => some fILLOP
    | some l =>
      if p.len != l + 1 then some fILLOP
      else if (t == 1 || t == 2) && !(f 33 3 && f 48 16) then some fILLOP
      else if (t == 7 || t == 8 || t == 10) && c.fn != 0 then some fPRIV
      else none

/-- R278: whether the sequencer may start a packet of a queue. -/
def queueOpen (s : State) (c : Ctx) (x : Queue) : Bool :=
  c.state == .running && (x.state == 0 || x.state == 1) && x.head != x.tail && !s.fe.restart && x.req.isNone && x.load == .done

/-- R278: whether a packet read may be started now: one with WAITPREV starts when DONE has reached it. -/
def mayStart (x : Queue) (p : Pkt) : Bool := !(pktWaits p.body && !x.started.isEmpty)

/-- R278: a packet started: HEAD passes it, and it is the latest in the order of starts. -/
def startPkt (s : State) (q : PktRef) (p : Pkt) : State :=
  (setQueue s q.ctx q.queue (fun y => Queue.advance { y with
    head := y.head + BitVec.ofNat 32 p.len, started := y.started ++ [{ p with seq := s.fe.seq }], outcomes := [] })).modFe
      (fun e => { e with turn := (q.ctx, q.queue), seq := e.seq + 1 })

/-- R278, R281: a packet in progress, or the next one of its queue started now, when its type is one of `mine`; HEAD passes it before
it has any effect. None when there is none, or it has ended at once. -/
def takePkt (s : State) (q : PktRef) (mine : Nat → Bool) : State × Option (Pkt × Ctx × Queue) :=
  match queueOf s q.ctx q.queue, s.ctxs[q.ctx]? with
  | some x, some c =>
    match pktOf s q with
    | some p => if s.fe.restart || x.req.isSome || !mine (pktType p.body) then (s, none) else (s, some (p, c, x))
    | none =>
      if !queueOpen s c x || x.head.toNat != q.slot then (s, none)
      else
        match packetAt s c x x.head.toNat (x.tail - x.head).toNat with
        | (s, .error none) => (s, none)
        | (s, .error (some e)) => (queueError s c x e.1 e.2, none)
        | (s, .ok none) => (s, none)
        | (s, .ok (some p)) =>
          if !mine (pktType p.body) || !mayStart x p then (s, none)
          else
            let s := startPkt s q p
            match pktRefused c p, pktOf s q, queueOf s q.ctx q.queue with
            | some st, _, _ => (completePkt s q st 0, none)
            | none, some p, some x => (s, some (p, c, x))
            | none, _, _ => (s, none)
  | _, _ => (s, none)

/-- The course of a packet: nothing when it is not in progress. -/
def pktExec (s : State) (q : PktRef) (t : Nat) (f : State → Pkt → Ctx → Queue → State) : Host.Outcome State Fault Refusal :=
  .next (match takePkt s q (· == t) with
  | (s, some (p, c, x)) => f s p c x
  | (s, none) => s)

/-- NOP_PACKET (R281): no effect; a packet of a reserved type ends with ILLOP here too. -/
def execNopPacket (q : PktRef) (s : State) : Host.Outcome State Fault Refusal :=
  .next (match takePkt s q (fun t => t == 0 || (pktLen t).isNone) with
  | (s, some _) => completePkt s q 0 0
  | (s, none) => s)

/-! ## LAUNCH, GRAPH and NODE (R32, R50, R282, R287, R288) -/

/-- R33, R288: a kernel descriptor's limits. -/
def declOk (d : Decl) : Bool :=
  decide (1 ≤ d.groups) && decide (d.groups ≤ 32) && decide (8 ≤ d.vregs) && decide (d.vregs ≤ 128) && decide (d.sregs ≤ 32) &&
    decide (4096 ≤ d.scratch) && decide (d.scratch ≤ 1048576) && decide (d.acc ≤ 16384) && decide (d.barriers ≤ 16) &&
    decide (d.channels ≤ 16) && decide (d.access < d.groups) && decide (d.spill ≤ 1048576) &&
    (!d.node || (decide (4 ≤ d.recSize) && decide (d.recSize ≤ 256) && d.recSize % 4 == 0 && decide (2048 + 32 * d.groups * d.recSize ≤ d.scratch)))

/-- R282: a loaded kernel descriptor read for a packet; none while a page request is open, a status otherwise. -/
def pktKernel (s : State) (q : PktRef) (c : Ctx) (x : Queue) (a : Nat) : State × Except (Option Nat) Decl :=
  match s.fe.kernels.find? (fun k => k.ctx == q.ctx && k.addr.toNat == a) with
  | none => (s, .error (some fILLOP))
  | some k =>
    match qRead s c x a 64 with
    | (s, .error none) => (s, .error none)
    | (s, .error (some code)) => (s, .error (some (if code == fPOISON then fPOISON else fXLATE)))
    | (s, .ok bs) => if declOk (declOf k bs) then (s, .ok (declOf k bs)) else (s, .error (some fILLOP))

/-- R282: the grid that a LAUNCH body describes. -/
def gridOf (q : PktRef) (p : Pkt) (d : Decl) (graph : Bool) : Grid :=
  { ctx := q.ctx, dimX := pktNat p.body 24 4, dimY := pktNat p.body 28 2, dimZ := pktNat p.body 30 2, cluster := 2 ^ pktNat p.body 32 1,
    decl := d, h := Vector.ofFn (fun i => BitVec.ofNat 64 (pktNat p.body (64 + 8 * i.val) 8)), spillN := pktNat p.body 36 4,
    spillBase := BitVec.ofNat 64 (pktNat p.body 40 8), next := p.step, redo := [], phase := 0, arrived := [], told := none, node := none, formed := [],
    pkt := some q, graph := graph, complete := false, drain := none, seq := p.seq, moved := false }

/-- R32, R282: the limits of a launch. -/
def launchLimits (p : Pkt) : Bool :=
  let n (off k : Nat) : Nat := pktNat p.body off k
  decide (1 ≤ n 24 4) && decide (1 ≤ n 28 2) && decide (1 ≤ n 30 2) && decide (n 24 4 * n 28 2 * n 30 2 ≤ 2 ^ 40) && decide (n 32 1 ≤ 4)

/-- R282: the grid that a started packet has made. -/
def gridMade (s : State) (q : PktRef) : Bool := s.grids.any (fun g => g.pkt == some q)

/-- R263, R282: a launch's checks in order, and its grid; while its context moves to another revision it passes to the target. Of
the body's addresses the kernel descriptor's is translated where it is read, and SPILLBASE here. -/
def launchPkt (graph : Bool) (q : PktRef) (s : State) (p : Pkt) (c : Ctx) (x : Queue) : State :=
  if gridMade s q then s
  else if c.moving then endMove (passLaunches s q.ctx) q.ctx
  else if !launchLimits p then completePkt s q fILLOP 0
  else
    match pktKernel s q c x (pktNat p.body 16 8) with
    | (s, .error none) => s
    | (s, .error (some code)) => completePkt s q code 0
    | (s, .ok d) =>
      let g := gridOf q p d graph
      if d.node then completePkt s q fILLOP 0
      else
        match qXlate s c x g.spillBase .read with
        | (s, .error none) => s
        | (s, .error (some _)) => completePkt s q fXLATE 0
        | (s, .ok _) =>
          if !couldFit s q.ctx c.desc.cores d (min g.cluster (gridTotal g)) then completePkt s q fNOFIT 0
          else { s with grids := s.grids ++ [g] }

/-- LAUNCH (R282). -/
def execLaunch (q : PktRef) (s : State) : Host.Outcome State Fault Refusal := pktExec s q 1 (launchPkt false q)

/-- GRAPH (R282, R287). -/
def execGraph (q : PktRef) (s : State) : Host.Outcome State Fault Refusal := pktExec s q 2 (launchPkt true q)

/-- NODE (R281, R287): a node registered; one already registered is replaced once it is quiescent. -/
def execNode (q : PktRef) (s : State) : Host.Outcome State Fault Refusal :=
  pktExec s q 3 (fun s p c x =>
    let index := pktNat p.body 16 2
    let timeout := pktNat p.body 18 2
    if decide (index > 4095) || decide (timeout > 10000) then completePkt s q fILLOP 0
    else
      match pktKernel s q c x (pktNat p.body 24 8) with
      | (s, .error none) => s
      | (s, .error (some code)) => completePkt s q code 0
      | (s, .ok d) =>
        if !d.node then completePkt s q fILLOP 0
        else
          match s.fe.nodes.find? (fun n => n.ctx == q.ctx && n.index == index) with
          | none => completePkt (registerNode s q.ctx index timeout d) q 0 0
          | some n =>
            if n.replace.isSome then s
            else s.modFe (fun f => { f with nodes := f.nodes.map (fun m =>
              if m.ctx == q.ctx && m.index == index then { m with replace := some (q, d) } else m) }))

/-! ## WAITCNT, CUT, STOP and RESUME (R164, R245, R256, R259) -/

/-- WAITCNT (R164, R281). -/
def execWaitcnt (q : PktRef) (s : State) : Host.Outcome State Fault Refusal :=
  pktExec s q 5 (fun s p c x =>
    let a := pktNat p.body 16 8
    if a % 8 != 0 then completePkt s q fALIGN 0
    else
      match qRead s c x a 8 with
      | (s, .error none) => s
      | (s, .error (some code)) => completePkt s q code 0
      | (s, .ok bs) => if leNat bs % 2 ^ 63 ≥ pktNat p.body 24 8 then completePkt s q 0 0 else s)

/-- CUT (R245, R256, R281): a cut of the queue's own context; its number is reported when it has committed. The step is one more than
the number. -/
def execCut (q : PktRef) (s : State) : Host.Outcome State Fault Refusal :=
  pktExec s q 6 (fun s p c _ =>
    if p.step == 0 then
      (if c.desc.chain == 0 then completePkt s q 0 0 else pktStep (requestCut s q.ctx) q (c.interval + 1))
    else if c.lastCommit + 1 ≥ p.step then completePkt s q 0 (p.step - 1)
    else s)

/-- The context that a STOP or RESUME names. -/
def targetCtx (s : State) (p : Pkt) : Option Nat := findCtx s (pktNat p.body 20 1) (pktNat p.body 16 4)

/-- Whether a context stands stopped for good: not on its way to a rollback, to other cores or through a HEAPQ. -/
def stoppedFast (c : Ctx) : Bool :=
  c.state == .stopped && c.cause != some .rollback && c.cause != some .heapq && c.cause != some .coreDisabled && c.chain.all Increment.committed

/-- STOP (R256): a pre-emption, complete when its increment has committed, with its cut number (log 70, DEDUCED); without a chain the
context is discarded. -/
def execStop (q : PktRef) (s : State) : Host.Outcome State Fault Refusal :=
  pktExec s q 7 (fun s p _ _ =>
    match targetCtx s p with
    | none => completePkt s q (if p.step == 0 then fILLOP else 0) 0
    | some ci =>
      match s.ctxs[ci]? with
      | none => s
      | some c =>
        if p.step == 0 then
          (if c.desc.chain == 0 && c.state == .stopped then completePkt (discardCtx s ci) q 0 0 else pktStep (requestPreempt s ci) q 1)
        else if stoppedFast c then completePkt s q 0 c.lastCommit
        else if c.state == .running && !c.preempt then requestPreempt s ci
        else s)

/-- R259: the descriptor with the placement a RESUME takes: as it stands then, else as last read (log 68, DEDUCED); false while it cannot be
read yet. -/
def resumeDesc (s : State) (ci : Nat) (c : Ctx) : State × Bool :=
  if c.state != .stopped then (s, true)
  else
    match tableEntry s c.fn c.pasid none (rootEntry s c.fn c.pasid) with
    | (s, .ok page) => (match readDesc s c.fn c.pasid page with
      | (s, .ok (some d)) => (takeDesc s ci d, true)
      | (s, .ok none) => (s, true)
      | (s, .error _) => (s, false))
    | (s, .wait) => (s, false)
    | (s, _) => (s, true)

/-- RESUME (R259, R260, R284): the checks, with the state on record as resuming; then the context brought back. -/
def execResume (q : PktRef) (s : State) : Host.Outcome State Fault Refusal :=
  pktExec s q 8 (fun s p _ _ =>
    match targetCtx s p with
    | none => completePkt s q (if s.ctxs.any (fun c => c.fn == pktNat p.body 20 1 && c.pasid == pktNat p.body 16 4) then fNOFIT else fILLOP) 0
    | some ci =>
      match s.ctxs[ci]? with
      | none => s
      | some c =>
        if p.step != 0 then
          (if c.state == .resuming then completePkt (restoreCtx s ci none) q 0 0 else completePkt s q 0 0)
        else
          match resumeDesc s ci c with
          | (s, false) => s
          | (s, true) =>
            let t := resumeFrom s ci ((s.ctxs[ci]?).getD c)
            match resumeStatus t ci ((t.ctxs[ci]?).getD c) with
            | 0 => pktStep (beginResume t ci) q 1
            | st => completePkt s q st 0)

/-! ## REGION (R189, R190) -/

/-- R190: the physical pages of a virtual range, those that translate; none while a walk cannot go on. -/
def pagesOf (s : State) (c : Ctx) (base len : Nat) : State × Option (List Nat) :=
  (List.range (len / 4096)).foldl (fun (r : State × Option (List Nat)) k =>
    match r with
    | (s, none) => (s, none)
    | (s, some l) =>
      match xlate s .front c (BitVec.ofNat 64 (base + 4096 * k)) .read false with
      | .ok (s, x) => (s, some (l ++ [x.pa / 4096 * 4096]))
      | .error (s, .hold _) => (s, none)
      | .error (s, _) => (s, some l)) (s, some [])

/-- R190: the written-back bytes in the order of step 2: by cache number, then by address. -/
def backOrder (l : List RemoteDirty) : List RemoteDirty :=
  let lt (a b : RemoteDirty) : Bool := decide (a.cache < b.cache) || (a.cache == b.cache && decide (a.pa < b.pa))
  l.foldl (fun r x => r.takeWhile (fun y => !lt x y) ++ [x] ++ r.dropWhile (fun y => !lt x y)) []

/-- R190: GSTAT.COHCONF set in every group of a context, saved groups included. -/
def setCohconf (s : State) (ci : Nat) : State :=
  { s with blocks := s.blocks.map (fun b => if b.ctx == ci && b.stat != .ended then
      { b with groups := b.groups.map (fun g => Group.mark { g with gstat := g.gstat ||| 2#32 } 0) } else b) }

/-- R190, R199: the GWCT at pod scope of a byte written back: of a remotely homed one no copy outlives the longest lease of the fabric
(notes/assumptions 78). -/
def gPod (s : State) (pa : Nat) : Nat := if isRemote s pa then max (gPkg s pa) (s.ft + s.fabric.leasef) else gFull s pa

/-- R190: steps 2 to 4 of a switch to hardware-coherent over the region's pages; the latest completion time of what is written. -/
def toCoherent (s : State) (ci : Nat) (c : Ctx) (pages : List Nat) (others : List RemoteDirty) : State × Nat :=
  let inside (pa : Nat) : Bool := pages.contains (pa / 4096 * 4096)
  let mine : List RemoteDirty := (s.mem.smDirty.filter inside).map (fun a => { cache := s.fabric.pkg, pa := a, val := cellGet s.mem.cells a })
  let l := backOrder (mine ++ others.filter (fun r => inside r.pa && r.cache != s.fabric.pkg))
  let s := match l.find? (fun x => l.any (fun y => y.pa == x.pa && y.cache != x.cache)) with
    | some x =>
      let s := setCohconf s ci
      let s := errRecord s ci x.pa 0 0 0xFF 0xFF 5
      devWrite s ci (c.desc.errlog.toNat + 8) (leBytes 8 x.pa)
    | none => s
  let (s, g) := l.foldl (fun (r : State × Nat) x =>
    let s := physWrite r.1 x.pa [x.val]
    (if isRemote s x.pa || region s x.pa == .host then s.send (.dirtyByte x.pa x.val) else s, max r.2 (gPod r.1 x.pa))) (s, s.ft)
  let gone (line : Nat) : Bool := inside (line * 128)
  let s : State := { s with cores := s.cores.map (fun k => { k with l1 := k.l1.filter (fun y => !gone y.line) }) }
  (s.modMem (fun m => { m with smDirty := m.smDirty.filter (fun a => !inside a), fab := m.fab.filter (fun f => !gone f.line) }), g)

/-- R190: accesses that have issued and wait for the switch go on under the region's new mapping type. -/
def retype (s : State) (pages : List Nat) (typ : Nat) : State :=
  let inside (pa : Nat) : Bool := pages.contains (pa / 4096 * 4096)
  s.modMem (fun m => { m with
    writes := m.writes.map (fun w => if inside w.pa && w.typ != 2 then { w with typ := typ } else w)
    reads := m.reads.map (fun r => if inside r.pa && r.typ != 2 then { r with typ := typ } else r) })

/-- R187, R190, R207: a switch to software-managed: the directory's entries recalled, of remotely homed lines that the package holds too;
owned host sectors written back, and Herd lines merged; whether nothing is left. R196 lists no message by which a package asks the directory
for a recall: the model's own stands for it (notes/assumptions 46, DESIGN CHOICE). -/
def toSoftware (s : State) (c : Cause) (pages : List Nat) (ask : Bool) : State × Bool :=
  let inside (line : Nat) : Bool := pages.contains (line * 128 / 4096 * 4096)
  let shared := s.mem.fabricBits.filter inside
  let held := (s.mem.fab.filter (fun f => inside f.line && f.st != .inv && !shared.contains f.line)).map FabLine.line
  let s := if ask then (shared ++ held).foldl (fun s l => askRecall s c.owner l) s else s
  let s := ((s.mem.sectors.filter (fun x => inside (x.addr / 2))).map (fun x => x.addr / 2)).eraseDups.foldl dropSectors s
  let s := (s.mem.herd.filter (fun h => inside h.line && !onFabric s (h.line * 128))).foldl (fun s h =>
    (lineReady s c (h.line * 128) 128 0 .read).1) s
  (s, !s.mem.fabricBits.any inside && !s.mem.herd.any (fun h => inside h.line) && !s.mem.fab.any (fun f => inside f.line && f.st != .inv))

/-- REGION (R190): a region switched between software-managed and hardware-coherent; accesses to it wait meanwhile. -/
def execRegion (q : PktRef) (others : List RemoteDirty) (s : State) : Host.Outcome State Fault Refusal :=
  pktExec s q 9 (fun s p c _ =>
    let base := pktNat p.body 16 8
    let len := pktNat p.body 24 8
    let side := pktNat p.body 32 1
    if base % 4096 != 0 || len % 4096 != 0 || decide (side > 1) then completePkt s q fILLOP 0
    else
      let finish (s : State) (pages : List Nat) : State :=
        completePkt (retype (s.modCtx q.ctx (fun c => { c with region := none })) pages (if side == 1 then 0 else 1)) q 0 0
      match pagesOf s c base len, p.step with
      | (s, none), _ => s
      | (s, some pages), 0 =>
        if c.region.isSome then s
        else
          let s := s.modCtx q.ctx (fun c => { c with region := some (base, len, side == 1) })
          if side == 1 then let r := toCoherent s q.ctx c pages others; pktStep r.1 q (r.2 + 2) else pktStep (toSoftware s (causeOf s q.ctx .other) pages true).1 q 1
      | (s, some pages), 1 => (match toSoftware s (causeOf s q.ctx .other) pages false with | (s, true) => finish s pages | (s, false) => s)
      | (s, some pages), g => if g < s.ft + 2 then finish s pages else s)

/-! ## INVAL and HEAPQ (R220, R295) -/

/-- R220: whether an invalidation names a context. -/
def AtsInval.names (x : AtsInval) (s : State) (ci : Nat) : Bool :=
  match s.ctxs[ci]? with | some c => x.all || (c.fn == x.fn && c.pasid == x.pasid) | none => false

/-- R220: an invalidation that comes: it awaits the operations issued so far, and what the engines and copies of the contexts that it names
have written so far. -/
def invalOpen (s : State) (fn pasid base len : Nat) (all : Bool) (pkt : Option PktRef) : AtsInval :=
  let x : AtsInval := { fn := fn, pasid := pasid, base := base, len := len, all := all, below := s.nextId, past := 0, lines := [], pkt := pkt }
  let bs := s.blocks.filter (fun b => x.names s b.ctx)
  { x with past := (bs.map Block.gOut).foldl max 0, lines := (bs.map Block.outLines).flatten }

/-- R220: whether the accesses that an invalidation awaits have all been performed: those numbered below its `below` of the contexts that
it names. A wait on a word is an access until it ends, and is awaited when the invalidation covers the word's address. -/
def accessesDone (s : State) (x : AtsInval) : Bool :=
  let of (ci : Nat) : Bool := x.names s ci
  let covers (va : Nat) : Bool := x.all || (decide (x.base ≤ va) && decide (va < x.base + x.len))
  decide (x.past < s.ft) && linesPassed s x.lines && s.blocks.all (fun b => !of b.ctx || (blockOps b).all (fun o => decide (x.below ≤ o.id) || !opOpen s o)) &&
    s.mem.monitors.all (fun q => q.far.isSome || decide (x.below ≤ q.born) || (match q.loc with | .scratch _ _ => true | _ => false) ||
      !of (partyCtx s q.party) || !covers q.va.toNat)

/-- INVAL (R220, R281): what it covers is dropped from the translation caches when it comes, and again, with what has been installed
since, when it completes. -/
def execInval (q : PktRef) (s : State) : Host.Outcome State Fault Refusal :=
  pktExec s q 10 (fun s p _ _ =>
    let pasid := pktNat p.body 16 4
    let fn := pktNat p.body 20 1
    let all := pktNat p.body 23 1 != 0
    let base := pktNat p.body 24 8 % 2 ^ 57
    let len := pktNat p.body 32 8
    let drop (s : State) : State := tlbDrop s fn pasid base len all
    match s.mem.invals.find? (fun x => x.pkt == some q) with
    | none =>
      if p.step == 0 then pktStep ((drop s).modMem (fun m => { m with invals := invalOpen s fn pasid base len all (some q) :: m.invals })) q 1 else s
    | some x =>
      if accessesDone s x then completePkt ((drop s).modMem (fun m => { m with invals := m.invals.filter (fun y => y.pkt != some q) })) q 0 0 else s)

/-- R295: bytes of a context's memory as its chain holds them, where its newest increments hold their page, and else as they are; none
while they cannot be read. -/
def savedRead (s : State) (c : Ctx) (l : Option (List (PieceKind × Nat))) (va n : Nat) : State × Option (List Byte) :=
  match l with
  | none => let r := devRead s .front c va n; (r.1, r.2.toOption)
  | some l =>
    match xlate s .front c (BitVec.ofNat 64 va) .read false with
    | .error (s, _) => (s, none)
    | .ok (s, x) =>
      match c.desc.cset.find? (fun e => decide (e.2 ≤ x.pa) && decide (x.pa < e.2 + 65536)) with
      | none => (s, some (ownRead s x.pa n))
      | some e =>
        let k := x.pa - e.2
        match findPiece l (.item (.page e.1) (k / 4096)) with
        | none => (s, some (ownRead s x.pa n))
        | some a => (s, some (physRead s (a + k % 4096) n))

/-- R295: the return and divergence entries of a stream that lie in the spill area: now, or in the chain. -/
def spilledRefs (s : State) (c : Ctx) (l : Option (List (PieceKind × Nat))) (v : View) : State × Option (List Nat) :=
  let at_ : List Nat := (List.range v.ctl.retSpill).map (retSpillAddr s v) ++
    ((List.range v.path.divSpill).map (fun k => [divSpillAddr s v k, divSpillAddr s v k + 8])).flatten
  at_.foldl (fun (st : State × Option (List Nat)) a =>
    match st with
    | (s, none) => (s, none)
    | (s, some r) => let x := savedRead s c l a 8; (x.1, x.2.map (fun bs => leNat bs :: r))) (s, some [])

/-- The addresses that a control part holds: PC, saved PC and return entries. -/
def Ctl.refs (c : Ctl) : List Nat := c.pc.toNat :: (if c.handler then [c.trapPc.toNat] else []) ++ c.ret.map BitVec.toNat

/-- R295: the code addresses that a block's streams hold in registers. -/
def blockRefs (b : Block) : List Nat :=
  b.bell.ctl.refs ++ (b.bell.k.toList.take 1).map BitVec.toNat ++ (b.groups.map (fun g =>
    (g.k.toList.take 1).map BitVec.toNat ++ (if g.split then [g.join.toNat] else []) ++
      ((if g.split then [g.path0, g.path1] else [g.path0]).map (fun p =>
        p.ctl.refs ++ (p.div.map (fun e => [e.start.toNat, e.join.toNat])).flatten)).flatten)).flatten

/-- R295: every code address that a context's blocks hold, those of its increments and pair snapshots included; none while a spilled entry
cannot be read. -/
def ctxRefs (s : State) (ci : Nat) (c : Ctx) : State × Option (List Nat) :=
  let l := chainPieces s c.recBase c.desc.chain
  let live := ((s.blocks.zipIdx).filter (fun x => x.1.ctx == ci && x.1.stat != .ended)).map (fun x => (x.2, x.1))
  let snaps := s.snaps.filter (fun x => live.any (fun y => y.1 == x.1))
  let saved := (c.chain.map Increment.blocks).flatten
  let some_ (x : Nat × Block) (from_ : Option (List (PieceKind × Nat))) : List (View × Option (List (PieceKind × Nat))) :=
    let t : State := { s with blocks := s.blocks.set x.1 x.2 }
    (partiesOf x.2 x.1).filterMap (fun p => (t.view p).map (fun v => (v, from_)))
  let views := (((live ++ snaps).map (fun x => some_ x none)) ++ (saved.map (fun x => some_ x (some l)))).flatten
  views.foldl (fun (st : State × Option (List Nat)) x =>
    match st with
    | (s, none) => (s, none)
    | (s, some r) => let y := spilledRefs s c x.2 x.1; (y.1, y.2.map (· ++ r)))
    (s, some (((live ++ snaps ++ saved).map (fun x => blockRefs x.2)).flatten))

/-- R295: the bitmap of the ranges that no address lies in. -/
def heapBits : Nat → List Byte → List Nat → Nat
  | 0, _, _ => 0
  | n + 1, bs, refs =>
    let base := leNat (bs.take 8)
    let len := leNat ((bs.drop 8).take 8)
    (if refs.any (fun a => decide (base ≤ a) && decide (a < base + len)) then 0 else 1) + 2 * heapBits n (bs.drop 16) refs

/-- HEAPQ (R295): the context stops, closes, the ranges are judged, and it goes on. -/
def execHeapq (q : PktRef) (s : State) : Host.Outcome State Fault Refusal :=
  pktExec s q 11 (fun s p c x =>
    let n := pktNat p.body 24 1
    let held := c.state == .stopped && c.cause == some .heapq
    let goOn (s : State) : State := retryCut (writeStatus (s.modCtx q.ctx (fun c => { c with state := .running, cause := none })) q.ctx) q.ctx
    if n > 32 then completePkt s q fILLOP 0
    else
      match qRead s c x (pktNat p.body 16 8) (16 * n) with
      | (s, .error none) => s
      | (s, .error (some code)) => completePkt (if held then goOn s else s) q code 0
      | (s, .ok bs) =>
        if p.step == 0 then (if c.state == .running then pktStep (beginStop s q.ctx .heapq) q 1 else s)
        else if c.state == .running then pktStep s q 0
        else if held then
          match ctxRefs s q.ctx c with
          | (s, some refs) => completePkt (goOn s) q 0 (heapBits n bs refs)
          | (s, none) => s
        else s)

/-! ## Patch bundles (R271 to R273) -/

/-- R272: the entries of a bundle: microaddress, its upper four bits, and the microword. -/
def patchEntries : Nat → List Byte → List (Nat × Nat × BitVec 112)
  | 0, _ => []
  | n + 1, bs =>
    (leNat (bs.take 2) % 4096, leNat (bs.take 2) / 4096, BitVec.ofNat 112 (leNat ((bs.drop 2).take 14))) :: patchEntries n (bs.drop 16)

/-- Whether a list holds no element twice. -/
def noTwice : List Nat → Bool
  | [] => true
  | x :: rest => !rest.contains x && noTwice rest

/-- R272: the result of a bundle: 0 ACCEPTED, 1 FORMAT, 2 BADSIG, 3 ROLLBACK. -/
def bundleResult (svn : Nat) (b : List Byte) : Nat :=
  let n := leNat ((b.drop 8).take 2)
  let es := patchEntries n (b.drop 16)
  if !(leNat (b.take 4) == 0x0F1EA7C4 && decide (1 ≤ n) && decide (n ≤ 256) && b.length == 16 * n + 80 && ((b.drop 10).take 6).all (· == 0) &&
      es.all (fun e => e.2.1 == 0) && noTwice (es.map Prod.fst)) then 1
  else if !Config.sigVerifies 0 (b.take (16 * n + 16)) (b.drop (16 * n + 16)) then 2
  else if leNat ((b.drop 4).take 4) < svn then 3
  else 0

/-- R313: a command of a master: one that is not the owner is answered NOTOWNER and does nothing; the owner's is noted. -/
def ownerDo (s : State) (m : Master) (f : State → State) : State :=
  if s.mgmt.owner == some m then f (s.modMgmt (fun g => { g with lastCmd := s.ft }))
  else s.modMgmt (fun g => { g with out := .notOwner :: g.out })

/-- R314: measurement block `k` (1 to 6) set. -/
def setMeas (s : State) (k : Nat) (d : List Byte) : State := s.modMgmt (fun g => { g with meas := g.meas.set (k - 1) d })

/-- R314: measurement block 6: the fuses, and the rollback counters of the images and of the patch bundles as they stand. -/
def measFuses (s : State) : State :=
  let k := s.mgmt.svns
  setMeas s 6 (sha256 (Config.romImage 6 ++ leBytes 4 k.1 ++ leBytes 4 k.2.1 ++ leBytes 4 k.2.2 ++ leBytes 4 s.fe.svn))

/-- R271: the microword that the sequencer executes at a microaddress: that of the patch RAM where it has an entry, else that of the control
store in boot ROM. What a microword does the spec does not give but in what the sequencer does. -/
def microword (s : State) (a : BitVec 12) : BitVec 112 :=
  match s.fe.patch.find? (fun e => e.1 == a.toNat) with
  | some e => e.2
  | none => Config.bootRom a

/-- PATCH_BUNDLE (R272, R273, R314): a bundle checked; an accepted one replaces the patch RAM and a sequencer restart begins. -/
def execPatchBundle (m : Master) (bundle : List Byte) (s : State) : Host.Outcome State Fault Refusal :=
  .next (ownerDo s m (fun s =>
    let r := bundleResult s.fe.svn bundle
    let s := s.modFe (fun f => { f with results := r :: f.results })
    if r != 0 then s
    else
      let n := leNat ((bundle.drop 8).take 2)
      measFuses (setMeas (s.modFe (fun f => { f with
        patch := (patchEntries n (bundle.drop 16)).map (fun e => (e.1, e.2.2)), svn := leNat ((bundle.drop 4).take 4), restart := true })) 5
        (sha256 bundle))))

/-- SEQUENCER_RESTART (R273, R278, R280): the restart is complete: every latch is read afresh, and HEAD, DONE and PROG are those of
each QCB. What could not be read then, or at a FLUSHQ, is read when it can be. -/
def execSequencerRestart (s : State) : Host.Outcome State Fault Refusal :=
  .next (if !s.fe.restart then reloadAll s
  else
    reloadAll (s.modFe (fun f => { f with
      restart := false, latches := f.latches.map (fun l => { l with recorded := false })
      queues := f.queues.map (fun x => if x.load == .done then { x with load := .restart } else x) })))

end Sys2Proof.Machine
end

