-- ==== Sys2Proof/Machine/EvLoad.lean ====
section
/-! DEFINITION. LOAD packets: code objects, relocations, veneers and brand tables (12_front_end R288 to R292). -/

namespace Sys2Proof.Machine

open Sys2Proof

/-! ## Code objects (R288) -/

/-- The bytes of a part of an image. -/
def slice (bs : List Byte) (off n : Nat) : List Byte := (bs.drop off).take n
/-- A little-endian field. -/
def field (bs : List Byte) (off n : Nat) : Nat := leNat (slice bs off n)
/-- R288: offset and size of section `k`: 0 .text, 1 .rodata, 2 .data, 3 brand table, 4 relocations, 5 bindings, 6 kernels, 7 symbols. -/
def secOf (img : List Byte) (k : Nat) : Nat × Nat := (field img (72 + 8 * k) 4, field img (76 + 8 * k) 4)
/-- The bytes of a section. -/
def secBytes (img : List Byte) (k : Nat) : List Byte := slice img (secOf img k).1 (secOf img k).2
/-- Whether all bytes are 0. -/
def zeroBytes (bs : List Byte) : Bool := bs.all (· == 0)

/-- R82: whether a .text offset is a run start. -/
def textRunStart (text : List Byte) (o : Nat) : Bool :=
  o % 4 == 0 && decide (o + 4 ≤ text.length) && (o == 0 || decide ((text.getD (o - 1) 0).toNat ≥ 128))

/-- R290: brand entries in strictly ascending order within .text. -/
def brandOk (size : Nat) : Option Nat → Nat → List Byte → Bool
  | _, 0, _ => true
  | lo, n + 1, bs =>
    let o := leNat (bs.take 4)
    (match lo with | some l => decide (l < o) | none => true) && o % 4 == 0 && decide (o + 4 ≤ size) && brandOk size (some o) n (bs.drop 8)

/-- R288: the 64 bytes of kernel descriptor `i`. -/
def kdesc (img : List Byte) (i : Nat) : List Byte := slice (secBytes img 6) (64 * i) 64

/-- R288, R289: header, sections, brand table order, entries and reserved fields. -/
def objFormat (img : List Byte) : Bool :=
  let text := secBytes img 0
  decide (256 ≤ img.length) && field img 0 4 == 0x48C0B1EC && field img 4 4 == 256 && zeroBytes (slice img 144 112) &&
    (List.range 8).all (fun k => decide ((secOf img k).1 + (secOf img k).2 ≤ img.length)) && (secOf img 0).2 % 4 == 0 &&
    (secOf img 3).2 % 8 == 0 && (secOf img 4).2 % 16 == 0 && (secOf img 5).2 % 8 == 0 && (secOf img 6).2 == 64 * field img 140 4 &&
    field img 136 4 % 4 == 0 && brandOk text.length none ((secOf img 3).2 / 8) (secBytes img 3) &&
    (List.range ((secOf img 5).2 / 8)).all (fun k => zeroBytes (slice (secBytes img 5) (8 * k + 2) 2)) &&
    (List.range (field img 140 4)).all (fun i =>
      let d := kdesc img i
      zeroBytes (slice d 30 2) && zeroBytes (slice d 36 28) && decide (field d 26 2 < 8) && textRunStart text (field d 4 4) &&
        textRunStart text (field d 8 4))

/-- R33, R288: every kernel descriptor within its limits. -/
def objResource (img : List Byte) : Bool :=
  (List.range (field img 140 4)).all (fun i => declOk (declOf { ctx := 0, addr := 0, text := 0, rodata := 0 } (kdesc img i)))

/-- R289: each required feature that the device lacks has a binding. -/
def objFeature (img : List Byte) : Bool :=
  (List.range 512).all (fun b =>
    !(field img 8 64).testBit b || Config.featmask.getLsbD b ||
      (List.range ((secOf img 5).2 / 8)).any (fun k => field (secBytes img 5) (8 * k) 2 == b))

/-! ## The loaded image (R290) -/

/-- The next multiple of 4 KiB. -/
def up4k (a : Nat) : Nat := (a / 4096 + if a % 4096 == 0 then 0 else 1) * 4096

/-- R290: where the parts of a loaded image lie. -/
structure Layout where
  dest : Nat
  textSize : Nat
  header : Nat
  rodata : Nat
  data : Nat
  brand : Nat
  kernels : Nat
  symbols : Nat
  stop : Nat
  deriving DecidableEq, Repr

/-- R290: the layout of an image at a destination whose brand table has `nb` entries. -/
def layoutOf (img : List Byte) (dest nb : Nat) : Layout :=
  let size (k : Nat) : Nat := (secOf img k).2
  let header := up4k (dest + size 0 + field img 136 4)
  let ro := up4k (header + 256)
  let data := up4k (ro + size 1)
  let brand := up4k (data + size 2)
  let kern := up4k (brand + 8 * nb)
  let syms := up4k (kern + size 6)
  { dest := dest, textSize := size 0, header := header, rodata := ro, data := data, brand := brand, kernels := kern, symbols := syms,
    stop := syms + size 7 }

/-- A load under way: its sections, its veneers' words, the .text words relocated, and the offsets at which veneers start. -/
structure Loading where
  text : List Byte
  rodata : List Byte
  data : List Byte
  veneer : List W32
  touched : List Nat
  starts : List Nat
  deriving DecidableEq, Repr

/-- Bytes put over others at an offset. -/
def putBytes (bs : List Byte) (off : Nat) (x : List Byte) : List Byte := bs.take off ++ x ++ bs.drop (off + x.length)

/-- R292: a veneer: s31 := the target by SLI and SLH, and BRX s31 (notes/assumptions 62). -/
def veneerWords (v : W64) : List W32 :=
  [encode (.opSli false 0x9F (v.extractLsb' 48 16)), encode (.opSlh false 0x9F (v.extractLsb' 32 16)),
   encode (.opSlh false 0x9F (v.extractLsb' 16 16)), encode (.opSlh false 0x9F (v.extractLsb' 0 16)), encode (.opBrx 0x9F)]

/-- R292: an offset in words from one address to another, when it is whole. -/
def wordsTo (src dst : Nat) : Option Int := let d : Int := (dst : Int) - (src : Int); if d % 4 == 0 then some (d / 4) else none

/-- R292: whether an IMM16 of an instruction reads signed; none when the word has no IMM16. -/
def immSigned (i : Instr) : Option Bool :=
  match i with
  | .opSli _ _ _ => some true
  | .opSlh _ _ _ => some false
  | .opSetm _ _ => some false
  | .opSysv _ _ _ => some false
  | .opCrd _ _ _ => some false
  | .opCwr _ _ _ => some false
  | .opTrap _ _ => some false
  | _ => none

/-- A relocated .text word stored. -/
def Loading.putWord (l : Loading) (off : Nat) (w : W32) : Loading :=
  { l with text := putBytes l.text off (leBytes 4 w.toNat), touched := off :: l.touched }

/-- R292: a relocation of type 1: the offset, or a veneer. The load status otherwise. -/
def relocB20 (lay : Layout) (room off v : Nat) (w : W32) (l : Loading) : Except Nat Loading :=
  let put (d : Int) : Loading := l.putWord off ((w &&& 0xFFF00000#32) ||| (BitVec.ofInt 20 d).setWidth 32)
  match decode w with
  | .opBra _ _ | .opCall _ _ =>
    let fits (t : Nat) : Option Int := (wordsTo (lay.dest + off) t).bind (fun d => if -524288 ≤ d ∧ d ≤ 524287 then some d else none)
    (match fits v with
    | some d => .ok (put d)
    | none =>
      let vo := lay.textSize + 4 * l.veneer.length
      let ws := veneerWords (BitVec.ofNat 64 v)
      if 4 * l.veneer.length + 4 * ws.length > room then .error 3
      else
        match fits (lay.dest + vo) with
        | some d => let l' := put d; .ok { l' with veneer := l.veneer ++ ws, starts := l.starts ++ [vo] }
        | none => .error 3)
  | _ => .error 1

/-- R292: relocations of types 2 and 3. -/
def relocBrd (lay : Layout) (target : Bool) (off v : Nat) (w : W32) (l : Loading) : Except Nat Loading :=
  match decode w with
  | .opBrd p t j =>
    (match wordsTo (lay.dest + off) v with
    | none => .error 3
    | some d =>
      if target then (if -512 ≤ d ∧ d ≤ 511 ∧ d ≠ 0 then .ok (l.putWord off (encode (.opBrd p (BitVec.ofInt 10 d) j))) else .error 3)
      else if 1 ≤ d ∧ d ≤ 1023 then .ok (l.putWord off (encode (.opBrd p t (BitVec.ofInt 10 d)))) else .error 3)
  | _ => .error 1

/-- R292: a relocation of type 4. -/
def relocImm (off : Nat) (v : Int) (w : W32) (l : Loading) : Except Nat Loading :=
  match immSigned (decode w) with
  | none => .error 1
  | some sg =>
    let ok := if sg then decide (-32768 ≤ v) && decide (v ≤ 32767) else decide (0 ≤ v) && decide (v ≤ 65535)
    if ok then .ok (l.putWord off ((w &&& 0xFFFF0000#32) ||| (BitVec.ofInt 16 v).setWidth 32)) else .error 3

/-- R292: 8 bytes of .rodata or .data. -/
def reloc64 (sec off v : Nat) (l : Loading) : Except Nat Loading :=
  if sec == 1 then .ok { l with rodata := putBytes l.rodata off (leBytes 8 v) }
  else if sec == 2 then .ok { l with data := putBytes l.data off (leBytes 8 v) }
  else .error 1

/-- R292: one relocation entry applied, or the load status. `start`: whether an address is a run start; an error of 256 and more: the word
before the address 256 less cannot be read yet. -/
def relocate (lay : Layout) (room : Nat) (sym : Nat → W64) (start : Nat → List Byte → Except Nat Bool) (r : List Byte) (l : Loading) : Except Nat Loading :=
  let off := field r 0 4
  let sec := field r 4 1
  let ty := field r 5 1
  let v := (sym (field r 8 4) + (BitVec.ofNat 32 (field r 12 4)).signExtend 64).toNat
  let size := if sec == 0 then l.text.length else if sec == 1 then l.rodata.length else l.data.length
  let w : W32 := BitVec.ofNat 32 (field l.text off 4)
  if decide (sec > 2) || field r 6 2 != 0 || decide (ty == 0) || decide (ty > 6) then .error 1
  else if ty ≤ 4 then
    if sec != 0 || off % 4 != 0 || decide (off + 4 > size) then .error 1
    else if ty == 1 then relocB20 lay room off v w l
    else if ty == 2 then relocBrd lay true off v w l
    else if ty == 3 then relocBrd lay false off v w l
    else relocImm off (BitVec.ofNat 64 v).toInt w l
  else if off + 8 > size then .error 1
  else if ty != 6 then reloc64 sec off v l
  else
    match start v l.text with
    | .ok true => reloc64 sec off v l
    | .ok false => .error 1
    | .error e => .error e

/-- R289, R292: the relocations in order; the first failure ends them. -/
def relocateAll (lay : Layout) (room : Nat) (sym : Nat → W64) (start : Nat → List Byte → Except Nat Bool) : Nat → List Byte → Loading → Except Nat Loading
  | 0, _, l => .ok l
  | n + 1, bs, l =>
    match relocate lay room sym start (bs.take 16) l with
    | .error e => .error e
    | .ok l => relocateAll lay room sym start n (bs.drop 16) l

/-! ## Brand tables (R101, R290) -/

/-- R101: BRAND over the words of a run, from its bytes. -/
def runBrand : Nat → List Byte → W32 → W32
  | 0, _, crc => crc
  | n + 1, bs, crc =>
    let w : W32 := BitVec.ofNat 32 (leNat (bs.take 4))
    if w.getLsbD 31 then crcWord crc w else runBrand n (bs.drop 4) (crcWord crc w)

/-- R81: the bytes that a run takes in .text. -/
def runBytes : Nat → List Byte → Nat
  | 0, _ => 0
  | n + 1, bs => if decide ((bs.getD 3 0).toNat ≥ 128) || bs.length ≤ 4 then 4 else 4 + runBytes n (bs.drop 4)

/-- R290: the brand table of a load: the entries of runs that hold a relocated word recomputed, and one for each veneer. -/
def brandTable (l : Loading) (old : List Byte) (n : Nat) (textSize : Nat) : List Byte :=
  let code := l.text ++ (l.veneer.map (fun w => leBytes 4 w.toNat)).flatten
  let brand (o : Nat) : W32 := runBrand (code.length / 4) (code.drop o) 0xFFFFFFFF#32
  ((List.range n).map (fun k =>
    let o := field old (8 * k) 4
    let len := runBytes (textSize / 4) (l.text.drop o)
    if l.touched.any (fun t => decide (o ≤ t) && decide (t < o + len)) then leBytes 4 o ++ leBytes 4 (brand o).toNat else slice old (8 * k) 8)).flatten ++
  (l.starts.map (fun o => leBytes 4 o ++ leBytes 4 (brand o).toNat)).flatten

/-! ## LOAD (R289) -/

/-- R290: the header of a loaded image: section offsets count from the destination; relocations and bindings are not there. -/
def loadedHeader (img : List Byte) (y : Layout) (nb : Nat) : List Byte :=
  let sec (a n : Nat) : List Byte := leBytes 4 (a - y.dest) ++ leBytes 4 n
  img.take 72 ++ sec y.dest y.textSize ++ sec y.rodata (secOf img 1).2 ++ sec y.data (secOf img 2).2 ++ sec y.brand (8 * nb) ++
    sec y.dest 0 ++ sec y.dest 0 ++ sec y.kernels (secOf img 6).2 ++ sec y.symbols (secOf img 7).2 ++ slice img 136 120

/-- R289: whether every page of a range may be written; none while a page request is open. -/
def roomFor (c : Ctx) (x : Queue) : Nat → Nat → State → State × Option Bool
  | 0, _, s => (s, some true)
  | n + 1, a, s =>
    match qXlate s c x (BitVec.ofNat 64 a) .write with
    | (s, .ok _) => roomFor c x n (a + 4096) s
    | (s, .error none) => (s, none)
    | (s, .error (some _)) => (s, some false)

/-- R290: the parts of an image written at its destination, and its kernels known. -/
def placeImage (s : State) (ci : Nat) (img : List Byte) (y : Layout) (l : Loading) (brand : List Byte) (nb : Nat) : State :=
  let w (s : State) (a : Nat) (bs : List Byte) : State := devWrite s ci a bs
  let s := w s y.dest l.text
  let s := w s (y.dest + y.textSize) ((l.veneer.map (fun x => leBytes 4 x.toNat)).flatten ++ List.replicate (field img 136 4 - 4 * l.veneer.length) 0)
  let s := w s y.header (loadedHeader img y nb)
  let s := w (w (w s y.rodata l.rodata) y.data l.data) y.brand brand
  let s := w (w s y.kernels (secBytes img 6)) y.symbols (secBytes img 7)
  let ks : List Kernel := (List.range (field img 140 4)).map (fun i =>
    { ctx := ci, addr := BitVec.ofNat 64 (y.kernels + 64 * i), text := BitVec.ofNat 64 y.dest, rodata := BitVec.ofNat 64 y.rodata })
  s.modFe (fun f => { f with
    kernels := ks ++ f.kernels.filter (fun k => k.ctx != ci || decide (k.addr.toNat + 64 ≤ y.dest) || decide (y.stop ≤ k.addr.toNat)) })

/-- R289, R290: an image in place; the packet's release at sys scope ends once the writes have passed, whose lines no lease can cover for
longer than 4,096 ns (R170, R171). -/
def imagePlaced (s : State) (q : PktRef) : State := pktStep { s with fresh := s.fresh + 1 } q (s.ft + 4104)

/-- R289: a code object that has been read: checked, relocated, copied and branded; the load status otherwise. -/
def loadObject (s : State) (q : PktRef) (c : Ctx) (x : Queue) (img : List Byte) (dest : Nat) : State :=
  let fail (s : State) (n : Nat) : State := completePkt s q 0 n
  if !objFormat img then fail s 1
  else if !objResource img then fail s 2
  else if !objFeature img then fail s 4
  else
    let nb := (secOf img 3).2 / 8
    let y := layoutOf img dest nb
    let l : Loading := { text := secBytes img 0, rodata := secBytes img 1, data := secBytes img 2, veneer := [], touched := [], starts := [] }
    let start (v : Nat) (text : List Byte) : Except Nat Bool :=
      if decide (dest ≤ v) && decide (v < dest + y.textSize) then .ok (textRunStart text (v - dest))
      else (ctxRunStart s .front c (BitVec.ofNat 64 v)).2.mapError (fun _ => 256 + v)
    match relocateAll y (field img 136 4) (Config.symbolValue s.fresh) start ((secOf img 4).2 / 16) (secBytes img 4) l with
    | .error n => if n < 256 then fail s n else (ctxRunStart s .front c (BitVec.ofNat 64 (n - 256))).1
    | .ok l =>
      let nb' := nb + l.starts.length
      let y := layoutOf img dest nb'
      match roomFor c x (up4k y.stop / 4096 - dest / 4096) (dest / 4096 * 4096) s with
      | (s, none) => s
      | (s, some false) => fail s 5
      | (s, some true) =>
        imagePlaced (placeImage s q.ctx img y l (brandTable l (secBytes img 3) nb y.textSize) nb') q

/-- LOAD (R289): the steps of a load; it completes after the release, when every lease granted before its writes has ended. -/
def execLoad (q : PktRef) (s : State) : Host.Outcome State Fault Refusal :=
  pktExec s q 4 (fun s p c x =>
    if p.step != 0 then
      (if p.step < s.ft && !s.mem.devq.any (fun w => match w.dest with | .va ci _ => ci == q.ctx | _ => false) then completePkt s q 0 0 else s)
    else
      match qRead s c x (pktNat p.body 16 8) (pktNat p.body 24 4) with
      | (s, .error none) => s
      | (s, .error (some code)) => completePkt s q code 0
      | (s, .ok img) => loadObject s q c x img (pktNat p.body 32 8))

end Sys2Proof.Machine
end

