-- ==== Sys2Proof/Machine/EvFault.lean ====
section
/-! DEFINITION. Page responses and invalidations (R220 to R223), protected arrays and degraded operation (R232 to R241), and reserved
encodings (R327 to R330). -/

namespace Sys2Proof.Machine

open Sys2Proof

/-! ## Page responses (R221, R222) -/

/-- R222, R225: an answer given to everything that waits on a request, which is open no longer; a matrix operation that has waited goes on
behind those that wait at its restart (R135). -/
def answerReq (s : State) (r : PageReq) (res : PrCode) : State :=
  let o : PageOutcome := { page := r.page, stage2 := r.stage2, write := r.write, res := res }
  let note (c : Ctl) : Ctl := if c.asked.contains r.id then { c with outcomes := c.outcomes ++ [o] } else c
  let blks : List Block := s.blocks.map (fun b => { b with
    bell := { b.bell with ctl := note b.bell.ctl }
    groups := b.groups.map (fun g => { g with path0 := { g.path0 with ctl := note g.path0.ctl }, path1 := { g.path1 with ctl := note g.path1.ctl } })
    mops := b.mops.map (fun m => if m.req == some r.id then { m with req := none, outcomes := m.outcomes ++ [o] } else m)
    reload := b.reload.map (fun m => if m.req == some r.id then { m with req := none, outcomes := m.outcomes ++ [o] } else m)
    copies := b.copies.map (fun m => if m.req == some r.id then { m with req := none, outcomes := m.outcomes ++ [o] } else m) })
  let waited : List (Nat × Nat) := ((s.blocks.zipIdx).map (fun (x : Block × Nat) =>
    (x.1.mops.filter (fun m => m.req == some r.id)).map (fun m => (x.2, m.id)))).flatten
  let s : State := { s with blocks := blks }
  let s := waited.foldl (fun s x => reenter s x.1 x.2) s
  let s := s.modMem (fun m => { m with
    pageReqs := m.pageReqs.filter (fun q => q.id != r.id)
    devq := m.devq.map (fun w => if w.req == some r.id then { w with req := none, outcomes := w.outcomes ++ [o] } else w) })
  s.modFe (fun f => { f with
    queues := f.queues.map (fun q => if q.req == some r.id then { q with req := none, outcomes := q.outcomes ++ [o] } else q)
    reqs := f.reqs.filter (fun x => x.2.2 != r.id)
    answers := f.answers ++ (f.reqs.filter (fun x => x.2.2 == r.id)).map (fun x => (x.1, x.2.1, o)) })

/-- R222: every open request of a function answered alike. -/
def answerAll (s : State) (fn : Nat) (res : PrCode) : State :=
  (s.mem.pageReqs.filter (fun r => r.fn == fn)).foldl (fun s r => answerReq s r res) s

/-- PAGE_RESPONSE (R222): the answer to the group index of a function. -/
def execPageResponse (fn idx : Nat) (code : PrCode) (s : State) : Host.Outcome State Fault Refusal :=
  .next (match s.mem.pageReqs.find? (fun r => r.fn == fn && r.idx == some idx) with
  | none => s.modFn fn (fun f => { f with prUnknown := f.prUnknown + 1 })
  | some r =>
    match code with
    | .failure => (answerAll s fn .failure).modFn fn (fun f => { f with priOn := false })
    | k => prPump (answerReq s r k) fn 512)

/-- PAGE_REQUEST_TIMEOUT (R222): a request without response within the function's timeout ends as an invalid one, and is recorded. -/
def execPageRequestTimeout (fn req : Nat) (s : State) : Host.Outcome State Fault Refusal :=
  .next (match s.mem.pageReqs.find? (fun r => r.id == req && r.fn == fn), s.fns[fn]? with
  | some r, some f =>
    if s.ft < r.opened + 1000000 * f.prtimeout then s
    else
      let s := prPump (answerReq s r .invalid) fn 512
      (match findCtx s fn r.pasid with
      | some ci => errRecord s ci r.page 0 0 0xFF 0xFF 6
      | none => s)
  | _, _ => s)

/-- PRI_REENABLE (R222). -/
def execPriReenable (fn : Nat) (s : State) : Host.Outcome State Fault Refusal :=
  .next (prPump (s.modFn fn (fun f => { f with priOn := true })) fn 512)

/-- PAGE_REQUEST_ALLOCATION (R221): the allocation of a function, and the queued requests that it allows. -/
def execPageRequestAllocation (fn n : Nat) (s : State) : Host.Outcome State Fault Refusal :=
  .next (prPump (s.modFn fn (fun f => { f with priAlloc := n })) fn 512)

/-- ATS_INVALIDATE (R220): covered translations are dropped; the completion is sent once every access that used one is performed. -/
def execAtsInvalidate (fn pasid base len : Nat) (all : Bool) (s : State) : Host.Outcome State Fault Refusal :=
  let mine (x : AtsInval) : Bool := x.pkt.isNone && x.fn == fn && x.pasid == pasid && x.base == base && x.len == len && x.all == all
  .next (match s.mem.invals.find? mine with
  | none =>
    (tlbDrop s fn pasid base len all).modMem (fun m => { m with invals := invalOpen s fn pasid base len all none :: m.invals })
  | some x =>
    if accessesDone s x then
      ((tlbDrop s fn pasid base len all).modMem (fun m => { m with invals := m.invals.filter (fun y => !mine y) })).send (.invalDone fn pasid)
    else s)

/-! ## Where an address is mapped (R213, R231, R239) -/

/-- R215, R216: the leaves of the tables of a stage from `table`, `lv` being one more than the level: input, size and output addresses. `tr`
gives the physical address of a table entry. -/
def leavesOf (s : State) (tr : Nat → Option Nat) : Nat → Nat → Nat → List (Nat × Nat × Nat)
  | 0, _, _ => []
  | lv + 1, base, table => ((List.range 512).map (fun i =>
      match tr (table + 8 * i) with
      | none => []
      | some pa =>
        let e := leNat (ownRead s pa 8)
        let a := base + i * 2 ^ (12 + 9 * lv)
        if !e.testBit 0 || entBad lv e then []
        else if e.testBit 1 then leavesOf s tr lv a (entOA e) else [(a, 2 ^ (12 + 9 * lv), entOA e)])).flatten

/-- The output that a list of leaves gives an input. -/
def leafOut (l : List (Nat × Nat × Nat)) (a : Nat) : Option Nat :=
  (l.find? (fun x => decide (x.1 ≤ a) && decide (a < x.1 + x.2.1))).map (fun x => x.2.2 + (a - x.1))

/-- R213, R217: whether the tables of a context map an address. -/
def mapsPa (s : State) (c : Ctx) (pa : Nat) : Bool :=
  let s2root := ((s.fns[c.fn]?).map Fn.s2root).getD 0
  let second := if s2root == 0 then [] else leavesOf s some 5 0 s2root
  let hit (l : List (Nat × Nat × Nat)) (a : Nat) : List Nat :=
    (l.filter (fun x => decide (x.2.2 ≤ a) && decide (a < x.2.2 + x.2.1))).map (fun x => x.1 + (a - x.2.2))
  let ias := if s2root == 0 then [pa] else hit second pa
  let first := if ias.isEmpty then [] else leavesOf s (if s2root == 0 then some else leafOut second) 5 0 c.desc.s1root
  ias.any (fun a => !(hit first a).isEmpty)

/-! ## Protected arrays (R232, R233) -/

/-- R232: the flagged classes of a word with its horizontal parity. -/
def flagged (w : W64) (h : Byte) : Byte :=
  (List.range 8).foldl (fun (f : Byte) j =>
    let p := (List.range 8).foldl (fun b k => b ^^ w.getLsbD (j + 8 * k)) false
    if p != h.getLsbD j then f ||| (1#8 <<< j) else f) 0

/-- The bits of a word that lie in classes. -/
def inClasses (w : W64) (f : Byte) : W64 :=
  (List.range 64).foldl (fun (r : W64) i => if f.getLsbD (i % 8) && w.getLsbD i then r ||| (1#64 <<< i) else r) 0

/-- R233: S of a column group as read. -/
def groupS (g : ColumnGroup) : W64 := g.words.foldl (· ^^^ ·) g.v

/-- R233: what a rebuild makes of each word: nothing, its corrected value, or poison. -/
inductive Rebuilt where
  | keep
  | fix (w : W64)
  | poison
  deriving DecidableEq, Repr

/-- R233: the rebuild of a column group. -/
def rebuild (g : ColumnGroup) : List Rebuilt :=
  let fl : List Byte := (g.words.zipIdx).map (fun x => flagged x.1 (g.hpar.getD x.2 0))
  let fv := flagged g.v g.vpar
  (g.words.zipIdx).map (fun x =>
    let f := fl.getD x.2 0
    if f == 0 then .keep
    else if (fl.zipIdx).any (fun y => y.2 != x.2 && (y.1 &&& f) != 0) || (fv &&& f) != 0 then .poison
    else .fix (x.1 ^^^ inClasses (groupS g) f))

/-- R233: whether any word of a column group, or its vertical word, is flagged. -/
def anyFlagged (g : ColumnGroup) : Bool :=
  (g.words.zipIdx).any (fun x => flagged x.1 (g.hpar.getD x.2 0) != 0) || flagged g.v g.vpar != 0

/-- R232: word `i` of a column group as the state holds it (notes/assumptions 50). -/
def arrGet (s : State) (a : ArrayRef) (i : Nat) : W64 :=
  match a with
  | .l2 pa => BitVec.ofNat 64 (leNat (ownRead s (pa / 512 * 512 + 8 * i) 8))
  | .scratch blk off => BitVec.ofNat 64 (leNat (scratchRead s blk (off / 512 * 512 + 8 * i) 8))
  | .acc blk row =>
    match s.block? blk with
    | some b => accGet b blk row (2 * i + 1) ++ accGet b blk row (2 * i)
    | none => 0
  | .vregs blk grp reg =>
    match (s.block? blk).bind (fun b => b.groups[grp]?) with
    | some g => g.vlane (reg / 4 * 4 + i / 16) (2 * (i % 16) + 1) ++ g.vlane (reg / 4 * 4 + i / 16) (2 * (i % 16))
    | none => 0
  | .chan blk ch entry =>
    match s.block? blk with
    | none => 0
    | some b =>
      let l := b.chans.getD ch []
      match if b.decl.chanMask.getLsbD ch then l[entry / 4 * 4 + i / 16]? else l[i]? with
      | some (.vec v) => lane v (2 * (i % 16) + 1) ++ lane v (2 * (i % 16))
      | some (.sc w) => w
      | none => 0
  | .sregs blk grp => match (s.block? blk).bind (fun b => b.groups[grp]?) with | some g => g.s.toList.getD i 0 | none => 0
  | .wregs blk => match s.block? blk with | some b => b.bell.w.toList.getD i 0 | none => 0
  | .herd line slot => BitVec.ofNat 64 (leNat (((((herdOf s line).bind (fun h => assocGet h.parts slot)).getD []).drop (8 * i)).take 8))
  | .herdSealed line slot =>
    BitVec.ofNat 64 (leNat (((((herdOf s line).bind (fun h => assocGet h.sealedParts slot)).getD []).drop (8 * i)).take 8))
  | .hbm line => if i < 16 then BitVec.ofNat 64 (leNat (physRead s (line * 128 + 8 * i) 8)) else 0
  | .tlb _ | .walk _ => 0

/-- R232: the horizontal parity of a word. -/
def hparOf (w : W64) : Byte := flagged w 0

/-- R232: the vertical word of a column group as the state holds it. -/
def verticalWord (s : State) (a : ArrayRef) : W64 := (List.range 64).foldl (fun v i => v ^^^ arrGet s a i) 0

/-- R232: a column group as the state holds it, free of errors: the parity bits and V are functions of its words, so that every write
of a word updates them in the same step. -/
def columnGroup (s : State) (a : ArrayRef) : ColumnGroup :=
  { words := (List.range 64).map (arrGet s a), hpar := (List.range 64).map (fun i => hparOf (arrGet s a i)), v := verticalWord s a,
    vpar := hparOf (verticalWord s a) }

/-- R232: word `i` of a column group written in the state (notes/assumptions 50). -/
def arrPut (s : State) (a : ArrayRef) (i : Nat) (w : W64) : State :=
  match a with
  | .l2 pa => s.modMem (fun m => { m with cells := cellsWrite m.cells (pa / 512 * 512 + 8 * i) (leBytes 8 w.toNat) })
  | .scratch blk off => s.modBlock blk (fun b => { b with scratch := cellsWrite b.scratch (off / 512 * 512 + 8 * i) (leBytes 8 w.toNat) })
  | .acc blk row => s.modBlock blk (fun b => { b with
      acc := assocSet (assocSet b.acc (row * 128 + 2 * i) (lo32 w)) (row * 128 + 2 * i + 1) (lo32 (w >>> 32)) })
  | .vregs blk grp reg => s.modGroup blk grp (fun g =>
      let r := reg / 4 * 4 + i / 16
      (g.setV r (laneBit (2 * (i % 16))) (fun _ => lo32 w)).setV r (laneBit (2 * (i % 16) + 1)) (fun _ => lo32 (w >>> 32)))
  | .chan blk ch entry => s.modBlock blk (fun b =>
      let l := b.chans.getD ch []
      if b.decl.chanMask.getLsbD ch then
        let e := entry / 4 * 4 + i / 16
        (match l[e]? with
        | some (.vec v) =>
          let k := 2 * (i % 16)
          let v := lanesOf (fun n => if n == k then lo32 w else if n == k + 1 then lo32 (w >>> 32) else lane v n)
          { b with chans := b.chans.set ch (l.set e (.vec v)) }
        | _ => b)
      else
        (match l[i]? with
        | some _ => { b with chans := b.chans.set ch (l.set i (.sc w)) }
        | none => b))
  | .sregs blk grp => s.modGroup blk grp (fun g => g.setS i w)
  | .wregs blk => s.modBell blk (fun b => b.setW i w)
  | .herd line slot => s.modMem (fun m => { m with herd := m.herd.map (fun h =>
      if h.line == line && decide (i < 16) then
        { h with parts := h.parts.map (fun p => if p.1 == slot then (p.1, p.2.take (8 * i) ++ leBytes 8 w.toNat ++ p.2.drop (8 * i + 8)) else p) }
      else h) })
  | .herdSealed line slot => s.modMem (fun m => { m with herd := m.herd.map (fun h =>
      let put (p : Nat × List Byte) : Nat × List Byte := if p.1 == slot then (p.1, p.2.take (8 * i) ++ leBytes 8 w.toNat ++ p.2.drop (8 * i + 8)) else p
      if h.line == line && decide (i < 16) then { h with sealedParts := h.sealedParts.map put } else h) })
  | .hbm line => if i < 16 then s.modMem (fun m => { m with cells := cellsWrite m.cells (line * 128 + 8 * i) (leBytes 8 w.toNat) }) else s
  | .tlb _ | .walk _ => s

/-- R233, R234: word `i` of a column group poisoned in the state. -/
def arrPoison (s : State) (a : ArrayRef) (i : Nat) : State :=
  match a with
  | .l2 pa => s.addPoison (.mem (pa / 512 * 64 + i))
  | .scratch blk off => s.addPoison (.scratch blk (off / 512 * 64 + i))
  | .acc blk row => (s.addPoison (.acc blk (row * 128 + 2 * i))).addPoison (.acc blk (row * 128 + 2 * i + 1))
  | .vregs blk grp reg =>
    let r := reg / 4 * 4 + i / 16
    (s.addPoison (.vlane blk grp r (2 * (i % 16)))).addPoison (.vlane blk grp r (2 * (i % 16) + 1))
  | .chan blk ch entry =>
    match s.block? blk with
    | none => s
    | some b =>
      if b.decl.chanMask.getLsbD ch then
        let e := entry / 4 * 4 + i / 16
        if e < (b.chans.getD ch []).length then (s.addPoison (.chan blk ch e (2 * (i % 16)))).addPoison (.chan blk ch e (2 * (i % 16) + 1)) else s
      else if i < (b.chans.getD ch []).length then s.addPoison (.chan blk ch i 0) else s
  | .sregs blk grp => if i < 32 then s.addPoison (.sreg blk grp i) else s
  | .wregs blk => s.addPoison (.wreg blk i)
  | .herd line slot => if i < 16 then s.addPoison (.herd line slot) else s
  | .herdSealed line slot => if i < 16 then s.addPoison (.herdSealed line slot) else s
  | .hbm line => if i < 16 then s.addPoison (.mem (16 * line + i)) else s
  | .tlb _ | .walk _ => s

/-- The block of an array, none for L2 and HBM. -/
def arrBlock (a : ArrayRef) : Option Nat :=
  match a with
  | .l2 _ | .herd _ _ | .herdSealed _ _ | .hbm _ | .tlb _ | .walk _ => none
  | .scratch blk _ => some blk
  | .acc blk _ => some blk
  | .vregs blk _ _ => some blk
  | .chan blk _ _ => some blk
  | .sregs blk _ => some blk
  | .wregs blk => some blk

/-- R231: a record in the logs of the contexts in which an address is mapped. -/
def recordAt (s : State) (pa code kind : Nat) : State :=
  ((s.ctxs.zipIdx).filter (fun x => x.1.state != .discarded && mapsPa s x.1 pa)).foldl
    (fun s x => errRecord s x.2 pa 0 code 0xFF 0xFF kind) s

/-- R231, R233: an array error recorded: in the block's context, or for L2 in the contexts in which the address is mapped. -/
def recordArray (s : State) (a : ArrayRef) : State :=
  match a with
  | .l2 pa => recordAt s (pa / 512 * 512) 0 2
  | .herd line _ | .herdSealed line _ => recordAt s (line * 128) 0 2
  | .hbm line => recordAt s (line * 128) 0 2
  | _ =>
    match (arrBlock a).bind s.block? with
    | some b => errRecord s b.ctx 0 b.lin 0 0xFF 0xFF 2
    | none => s

/-! ## Disabled cores (R240, R241) -/

/-- R240, R241: a core disabled: out of placement, counted, with a replacement request; its contexts stop to move its blocks. -/
def disableCore (s : State) (core : Nat) : State :=
  match s.cores[core]? with
  | none => s
  | some c =>
    if !c.enabled then s
    else
      let s := s.modCore core (fun c => { c with enabled := false })
      let s := s.modMgmt (fun m => { m with discores := m.discores + 1, replreq := true })
      ((s.ctxs.zipIdx).filter (fun x => x.1.state == .running && s.blocks.any (fun b => b.ctx == x.2 && b.core == core && b.stat == .resident))).foldl
        (fun s x => beginStop s x.2 .coreDisabled) s

/-- R240, R241: a poisoning of a core's arrays noted; more than 16 in one hour disable the core. -/
def notePoisoning (s : State) (a : ArrayRef) : State :=
  let s := s.modMgmt (fun m => { m with poisonev := true })
  match (arrBlock a).bind s.block? with
  | none => s
  | some b =>
    let s := s.modCore b.core (fun c => { c with poisonings := s.ft :: c.poisonings.filter (fun t => decide (s.ft < t + 3600000000000)) })
    match s.cores[b.core]? with
    | some c => if c.poisonings.length > 16 then disableCore s b.core else s
    | none => s

/-- R233: whether V of a column group is poisoned: a flagged word shares a class with it. -/
def rebuildV (g : ColumnGroup) : Bool :=
  (g.words.zipIdx).any (fun x => (flagged x.1 (g.hpar.getD x.2 0) &&& flagged g.v g.vpar) != 0)

/-- R233: a column group rebuilt: flagged words corrected or poisoned, V rebuilt or poisoned, and the rebuild recorded. -/
def rebuildGroup (s : State) (a : ArrayRef) (g : ColumnGroup) : State :=
  if !anyFlagged g then s
  else
    let r := (rebuild g).zipIdx
    let s := if rebuildV g then s.addPoison (.vword a) else if flagged g.v g.vpar != 0 then s.clearPoison (fun l => l == .vword a) else s
    let s := r.foldl (fun s x => match x.1 with
      | .keep => s
      | .fix w => arrPut s a x.2 w
      | .poison => arrPoison s a x.2) s
    let s := recordArray s a
    if r.any (fun x => x.1 == .poison) then notePoisoning s a else s

/-- R234: a line of HBM that its device-side ECC cannot correct marked as poisoned. -/
def eccPoison (s : State) (line : Nat) : State :=
  notePoisoning ((List.range 16).foldl (fun s k => s.addPoison (.mem (16 * line + k))) s) (.hbm line)

/-- PARITY_REBUILD (R232 to R234); for a line of HBM, a failure that its ECC cannot correct; a cache drops the entry, and has it again from
memory when it is next needed. -/
def execParityRebuild (arr : ArrayRef) (g : ColumnGroup) (s : State) : Host.Outcome State Fault Refusal :=
  .next (match arr with
  | .hbm line => eccPoison s line
  | .tlb n => s.modMem (fun m => { m with tlb := m.tlb.eraseIdx n })
  | .walk n => s.modMem (fun m => { m with walks := m.walks.eraseIdx n })
  | a => rebuildGroup s a g)

/-- SCRUB (R233): a group with flagged words is rebuilt; one with none flagged and S nonzero is poisoned whole. Caches have no column
groups. -/
def execScrub (arr : ArrayRef) (g : ColumnGroup) (s : State) : Host.Outcome State Fault Refusal :=
  .next (if arr.cached then s
  else if anyFlagged g then rebuildGroup s arr g
  else if groupS g != 0 then notePoisoning (recordArray ((List.range 64).foldl (fun s i => arrPoison s arr i) s) arr) arr
  else s)

/-- R235, R239: the lanes of an operation whose data of a line come as poison consume it; an s or w register leaves a deferred fault. -/
def poisonMiss (s : State) (p : Party) (line : Nat) (o : OutOp) : State :=
  let hit := (o.miss.filter (fun m => m.1 == line)).foldl (fun a m => a ||| m.2) 0#32
  if hit == 0 || o.pending.isEmpty then s
  else
    let left := o.pending.filter (fun x => !inMask hit x.1)
    let s := modOp s p o.id (fun o => { o with
      pending := left, miss := o.miss.filter (fun m => m.1 != line), dst := if left.isEmpty then .none else o.dst })
    let s := if left.isEmpty && o.cls == .lc && !o.stopped then completeOp s p o.id else s
    match o.dst with
    | .vreg _ _ => killFrom s p hit
    | d => addDeferred s p { cls := o.cls, side := o.side, code := fPOISON, addr := 0, lanes := 0, dst := d, write := false }

/-- R239, R302: what the streams of a core await of a line comes as poison. -/
def poisonStreams (s : State) (core line : Nat) : State :=
  let ps : List Party := ((s.blocks.zipIdx).map (fun (x : Block × Nat) => if x.1.core == core then partiesOf x.1 x.2 else [])).flatten
  ps.foldl (fun s p => (partyOps s p).foldl (fun s o => poisonMiss s p line o) s) s

/-- R239: a line poisoned on its way to a core: what the core's streams await of it, and the core's L1 copy. -/
def poisonAtCore (s : State) (core line : Nat) : State :=
  (poisonStreams s core line).modCore core (fun c => { c with l1 := c.l1.map (fun x => if x.line == line then { x with bad := true } else x) })

/-- DATA_CHECK_FAILURE (R239): a link resends up to three times; any other failure poisons the line from that hop onward, which is
recorded: at its home slice, or in what a core receives (notes/assumptions 51). Poison that a device behind a memory-tier port sends with a
line of its own marks the line (R301); no other device sends it. -/
def execDataCheckFailure (line : Nat) (hop : CheckHop) (failures : Nat) (s : State) : Host.Outcome State Fault Refusal :=
  .next (if hop.link && hop.device.isNone && decide (failures ≤ 3) then s
  else if hop.device.isSome && hop.device != tierDevice s (line * 128) then s
  else
    let s := match hop.core with
      | some c => poisonAtCore s c line
      | none => physPoisonWrite s (line * 128) 128
    (recordAt s (line * 128) 0 3).modMgmt (fun m => { m with poisonev := true }))

/-- ARRAY_ROW_FAILURE (R120, R131, R240): a row in use is disabled and the lowest spare row comes into use; without one the core is
disabled. The stream in the array stops there and re-enters. -/
def execArrayRowFailure (core row : Nat) (s : State) : Host.Outcome State Fault Refusal :=
  .next (match s.cores[core]? with
  | none => s
  | some c =>
    if c.rows[row]? != some .inUse then s
    else
      let rows := c.rows.set row .disabled
      match rows.findIdx? (· == .spare) with
      | some k =>
        let rows := rows.set k .inUse
        let s := stopStreams (s.modCore core (fun c => { c with rows := rows })) (fun b => b.core == core && b.stat == .resident)
        if rows.contains .spare then s else s.modMgmt (fun m => { m with replreq := true })
      | none => disableCore (s.modCore core (fun c => { c with rows := rows })) core)

/-! ## Reserved encodings (R327 to R330) -/

/-- R327, R328: the streams of a word's opcode, or of its copy-family member; none for OP 0x00 and the reserved majors. -/
def opStreams (w : W32) : Option Streams :=
  let op := (w.extractLsb' 24 7).toNat
  if op == 0 then none
  else if op ≤ 0x0C then some .gb
  else if op < 0x10 then none
  else if op ≤ 0x25 then some .g
  else if op < 0x30 then none
  else if op ≤ 0x38 then some .g
  else if op < 0x40 then none
  else if op ≤ 0x4F then some .gb
  else if op == 0x5C then some .gb
  else if op ≤ 0x5E then some .g
  else if op == 0x5F then none
  else if op ≤ 0x64 then some .g
  else if op == 0x6B then some .b
  else if op ≤ 0x6C then some .gb
  else if op == 0x6D then some .g
  else if op < 0x70 then none
  else if op == 0x71 || op == 0x77 then some .g
  else if op == 0x75 then some .b
  else if op ≤ 0x76 then some .gb
  else if op ≤ 0x7E then some .b
  else if (w.extractLsb' 0 3).toNat ≤ 2 then some .ba
  else some .gb

/-- R330: the feature bit that a word of an opcode needs, whatever its other fields. -/
def opFeat (v : View) (w : W32) : Option Nat :=
  let op := (w.extractLsb' 24 7).toNat
  let minmax := (w.extractLsb' 4 4).toNat == 2 || (w.extractLsb' 4 4).toNat == 3
  if op == 0x63 && v.ty == .f64 && minmax then some 10 else none

/-- RESERVED_ENCODING (R327 to R330): a word of no instruction: ILLOP, after the stream and feature checks of its opcode. -/
def execReservedEncoding (w : W32) (s : State) : Host.Outcome State Fault Refusal :=
  wordExec (.evReservedEncoding w) s
    (fun v => match opStreams w with
      | none => { streams := .gb, ok := false }
      | some st => { streams := st, feat := opFeat v w, ok := false })
    (fun _ => .done s .invalid)

end Sys2Proof.Machine
end

