-- ==== Sys2Proof/Machine/EvFabric.lean ====
section
/-! DEFINITION. The package's side of the fold directory and the Herd state (09_fold_herd R191 to R214), link keys and quarantine
(13_outside R303 to R305), fabric timeouts (R306), requests to export windows (R307, R308), and the pod's time and numbers (R10,
R23). A message that cannot take effect yet stands again at the end of the inbox. -/

namespace Sys2Proof.Machine

open Sys2Proof

/-! ## Supplying data (R191, R196, R197) -/

/-- A stimulus that cannot take effect yet, kept for later. -/
def putBack (s : State) (i : Instr) : State := { s with inbox := s.inbox ++ [i] }

/-- R196, R197: the line sent to a requester. Data for the only copy carry, as lease end and LEND, at least the latest end of the L1
leases that the supplier has granted on it (notes/assumptions 46, DESIGN CHOICE). -/
def sendData (s : State) (line requester : Nat) (t : Terms) (st : FState) : State :=
  let e := if st == .shared then 0 else leaseEnd s line
  s.sendFab t.owner (.pkg requester) (.data line requester (ownRead s (line * 128) 128) st (max t.leaseEnd e) t.invs (max t.lend e) t.floor (physPoison s (line * 128) 128))

/-- The state of a line in the package's L2 changed. -/
def modFab (s : State) (line : Nat) (f : FabLine → FabLine) : State := setFab s (f (fabOf s line))

/-- R191: the fabric bit of a line of this package set: its directory entry is not I. -/
def setFabric (s : State) (line : Nat) : State :=
  if isRemote s (line * 128) then s
  else s.modMem (fun m => { m with fabricBits := if m.fabricBits.contains line then m.fabricBits else line :: m.fabricBits })

/-- R247: a line that a cut recalled has come back. -/
def recallDone (s : State) (line : Nat) : State :=
  { s with ctxs := s.ctxs.map (fun c => { c with chain := c.chain.map (fun n => { n with recalls := n.recalls.filter (· != line) }) }) }

/-- R191, R199: the directory entry of a line of this package is I: the fabric bit is clear and the package holds no fabric copy; what it has
still to learn of a grant's shares stays, and so does a request of its own. -/
def clearFabric (s : State) (line : Nat) : State :=
  let left (f : FabLine) : Option FabLine :=
    if f.line != line then some f
    else if (f.req != 0 && f.req != 5) || f.acks != 0 || decide (s.ft ≤ f.gRemote) then
      some { f with st := .inv, req := if f.req == 5 then 0 else f.req }
    else none
  recallDone (unask (s.modMem (fun m => { m with fabricBits := m.fabricBits.filter (· != line), fab := m.fab.filterMap left })) line true) line

/-- R247: the context whose closing cut recalled a line: what comes back of it was written before that cut. -/
def recallPre (s : State) (line : Nat) : Option Nat :=
  ((s.ctxs.zipIdx).find? (fun x => x.1.chain.any (fun n => !n.closed && n.recalls.contains line))).map Prod.snd

/-- R203: the merge that a line held only in its home package needs before another package may have it; none while leases or an item
that is being saved keep it back. -/
def homeMerge (s : State) (line : Nat) : Option State :=
  match herdOf s line with
  | none => some s
  | some h =>
    if onFabric s (line * 128) then some s
    else if decide (s.ft < leaseEnd s line) || mergeHeld s h none then none
    else some (localMerge s line none)

/-- R197, R203: another package joins the holders of a line: the entry is H, and a home that holds partials joins too. Partials that a cut
has sealed are merged first (R247); none while leases keep them back. -/
def homeJoin (s : State) (line : Nat) : Option State :=
  match herdOf s line with
  | none => some (setFabric s line)
  | some h =>
    if onFabric s (line * 128) then some s
    else if h.sealedParts.isEmpty then some (fabAsk (setFabric s line) s.fabric.owner line 4 h.tag)
    else if s.ft < leaseEnd s line then none
    else
      let s := setFabric (mergeSealed s line) line
      some (if h.parts.isEmpty then s else fabAsk s s.fabric.owner line 4 h.tag)

/-! ## Export windows (R307, R308) -/

/-- R307: the local addresses of an export window. -/
def ExportWin.holds (w : ExportWin) (l n : Nat) : Bool := decide (w.base ≤ l) && decide (l + n ≤ w.base + w.size * 65536)

/-- R307: the right a request needs. -/
def reqRight : ReqKind → Nat
  | .read => 0
  | .write _ => 1
  | .atomic _ => 2
  | .watch .. => 0

/-- The bytes a request covers: a read asks for a line. -/
def reqSize : ReqKind → Nat
  | .read => 128
  | .write d => d.length
  | .atomic o => o.size
  | .watch w _ _ _ => w

/-- R307: the answer code to an owner that wants a right on some bytes: 0, PERM or WINREV. -/
def windowCode (s : State) (owner pa n right : Nat) : Nat :=
  let l := paLocal pa
  let at_ := s.fabric.windows.filter (fun w => w.state != 0 && w.holds l n)
  if owner == s.fabric.owner then 0
  else if at_.any (fun w => w.state == 1 && (w.any || w.importer == owner) && w.rights.getLsbD right) then 0
  else if at_.any (fun w => w.state == 2 || w.state == 3) then fWINREV
  else fPERM

/-! ## Supply (R197, R422) -/

/-- R422: whether a monitor stands on a line of this package. -/
def watched (s : State) (line : Nat) : Bool :=
  !isRemote s (line * 128) && s.mem.monitors.any (fun q => (match q.loc with | .mem _ => true | _ => false) && lineOf q.pa == line)

/-- R422: the state in which the home supplies a line: while a monitor stands on it, another package gets no E or M. -/
def homeGrant (s : State) (line : Nat) (st : FState) : FState :=
  if (st == .excl || st == .modified) && watched s line then .shared else st

/-- R307: the right that taking a line in a state needs: to read, to write, or to take part in its Herd state. -/
def stateRight (st : FState) : Nat := match st with | .shared => 0 | .herd => 2 | _ => 1

/-- HOMEDATA (R191, R197, R247, R307, R308): the home supplies a line, to an owner whom its windows let have it, and sets its fabric bit; a
request that is still queued when its window is revoked is refused like a new one. A grant of the only copy counts as a write of the line, held
like one while the page has still to be saved. -/
def execHomedata (line requester : Nat) (terms : Terms) (asked : FState) (s : State) : Host.Outcome State Fault Refusal :=
  .next (let again := Instr.evHomedata line requester terms asked
  let st := homeGrant s line asked
  let code := windowCode s terms.owner (line * 128) 128 (stateRight asked)
  if isRemote s (line * 128) || linkShut s terms.owner (dirOf s line) then s
  else if code != 0 then s.sendFab terms.owner (.pkg requester) (.answer requester (line * 128) code [])
  else if heldOn s line then putBack s again
  else if st == .herd then (homeJoin s line).getD (putBack s again)
  else if st != .shared && pageHeld s (line * 128) 128 none then putBack (notePage s (line * 128) 128 none) again
  else
    match homeMerge s line with
    | none => putBack (notePage s (line * 128) 128 none) again
    | some s =>
      let s := if st == .shared then s else markPages s (line * 128) 128 none
      setFabric (if st == .owned then s else sendData s line requester terms st) line)

/-- R307: whether the windows of the line's home let an owner have a line that this package is to supply. -/
def supplyCode (s : State) (line : Nat) (terms : Terms) (right : Nat) : Nat :=
  if isRemote s (line * 128) then 0 else windowCode s terms.owner (line * 128) 128 right

/-- FWDS (R197, R307): the owner supplies a shared copy and keeps the line in O. -/
def execFwds (line requester : Nat) (terms : Terms) (s : State) : Host.Outcome State Fault Refusal :=
  .next (let code := supplyCode s line terms 0
  if linkShut s terms.owner (dirOf s line) then s
  else if code != 0 then s.sendFab terms.owner (.pkg requester) (.answer requester (line * 128) code [])
  else if heldOn s line then putBack s (.evFwds line requester terms)
  else if (fabOf s line).owns then
    modFab (sendData s line requester terms .shared) line (fun f => { f with st := .owned })
  else s)

/-- FWDX (R197, R307, R422): the owner supplies the line and goes to I; the data carry the latest end of its L1 leases. A line of this package
on which a monitor stands is supplied in S, and stays. -/
def execFwdx (line : Nat) (supply : Supply) (s : State) : Host.Outcome State Fault Refusal :=
  .next (let code := supplyCode s line supply.terms 1
  if linkShut s supply.terms.owner (dirOf s line) then s
  else if code != 0 then s.sendFab supply.terms.owner (.pkg supply.requester) (.answer supply.requester (line * 128) code [])
  else if heldOn s line then putBack s (.evFwdx line supply)
  else if !(fabOf s line).owns then s
  else if watched s line then modFab (sendData s line supply.requester supply.terms .shared) line (fun f => { f with st := .owned })
  else modFab (sendData s line supply.requester supply.terms .modified) line (fun f => { f with st := .inv }))

/-! ## Answers (R196, R198, R199) -/

/-- R211: a set floor that FT has passed reads as 0. -/
def floorNow (s : State) (floor : Nat) : Nat := if floor < s.ft then 0 else floor

/-- R199, R422: what an answer that carries INVs, LEND and a floor makes of a line; acknowledgements that came before it count, and those still
due for an earlier grant stay due. A copy in S in answer to a request for ownership says that the home keeps E and M back. -/
def FabLine.granted (f : FabLine) (ft : Nat) (st : FState) (invs lend floor : Nat) : FabLine :=
  { f with st := st, req := 0, retryAt := 0, holdVer := 0, acks := f.acks + (invs - f.early), early := 0, lend := lend, grantAt := ft,
           gRemote := max (if f.early == 0 && f.acks == 0 then 0 else f.gRemote) (max lend floor + 50), waiters := []
           kept := if st == .shared && (f.req == 2 || f.req == 3) then some false else none }

/-- R305: whether an answer to a request of the package is dropped: it carries the request's owner index. -/
def answerShut (s : State) (line : Nat) : Bool := linkShut s (fabOf s line).owner (dirOf s line)

/-- GRANT (R197, R199): ownership, or the state H for a REDJ, without data. -/
def execGrant (line invs lend floor : Nat) (s : State) : Host.Outcome State Fault Refusal :=
  .next (let f := fabOf s line
  if !answerShut s line && (f.req == 3 || f.req == 4) then
    setFabric (setFab (unask s line false) (f.granted s.ft (if f.req == 4 then .herd else .modified) invs lend (floorNow s floor))) line
  else s)

/-- R189, R196: a line's bytes as they arrive; bytes that the package holds dirty under software management stay. -/
def putLine (s : State) (line : Nat) (bs : List Byte) : State :=
  evalMonitors (s.modMem (fun m => { m with
    cells := (bs.zipIdx).foldl (fun c (x : Byte × Nat) =>
      if m.smDirty.contains (line * 128 + x.2) then c else cellSet c (line * 128 + x.2) x.1) m.cells })) (line * 128) bs.length

/-- R422: whether the package has a monitor on a line of another package of which it holds no more than a copy: the home's word comes to it
without a request (notes/assumptions 73). -/
def farWatched (s : State) (line : Nat) (st : FState) : Bool :=
  isRemote s (line * 128) && st == .shared && !(fabOf s line).owns && (fabOf s line).st != .herd &&
    s.mem.monitors.any (fun q => (match q.loc with | .mem _ => true | _ => false) && lineOf q.pa == line)

/-- DATA (R196, R199, R308, R422): a line with its state and lease, or the error answer that stands in the place of it, or of a GRANT. -/
def execData (line : Nat) (bytes : List Byte) (st : FState) (leaseE invs lend floor code : Nat) (s : State) :
    Host.Outcome State Fault Refusal :=
  .next (let f := fabOf s line
  if (f.req == 0 && !farWatched s line st) || answerShut s line then s
  else if code != 0 && code != fPOISON then setFab s (f.failed s.ft code)
  else if decide (3 < f.req) then s
  else
    let s := putLine (unask s line false) line (bytes.take 128)
    let s := clearMemPoison s (line * 128) 128
    let s := if code == fPOISON then (List.range 16).foldl (fun s k => s.addPoison (.mem (line * 16 + k))) s else s
    setFabric (setFab (s.setPresent line) { f.granted s.ft st invs lend (floorNow s floor) with lease := leaseE }) line)

/-- INV (R198): a tracked sharer drops its copy; *t_ack* is the latest end of an L1 lease it granted on a copy it holds, and the arrival where
it has granted none that lasts (notes/assumptions 46, DESIGN CHOICE). -/
def execInv (line : Nat) (msg : InvMsg) (s : State) : Host.Outcome State Fault Refusal :=
  .next (let f := fabOf s line
  let ack (t : Nat) : State := s.sendFab msg.owner (.pkg msg.requester) (.ack line msg.requester t)
  if f.readable s.ft false && f.st == .shared then modFab (ack (max s.ft (leaseEnd s line))) line (fun f => { f with st := .inv })
  else ack s.ft)

/-- ACK (R199, R200): an acknowledgement enters *g_remote*; one that comes before its grant is kept. The aggregated one of an LREVOKE that
the package asked for completes that revocation. -/
def execAck (line : Nat) (ack : AckOf) (s : State) : Host.Outcome State Fault Refusal :=
  .next (let f := fabOf s line
  match ack with
  | .revoked => if asked s line false then setFab (unask s line false) { f with lend := 0 } else s
  | .sharer tAck =>
    if f.acks > 0 then setFab s { f with acks := f.acks - 1, gRemote := max f.gRemote (tAck + 50) }
    else if f.req != 0 then
      setFab s { f with early := f.early + 1, gRemote := max (if f.early == 0 then 0 else f.gRemote) (tAck + 50) }
    else s)

/-- LREVOKE (R200): an S copy and what the L1s hold of it go; the package acknowledges. -/
def execLrevoke (msg : RevokeMsg) (s : State) : Host.Outcome State Fault Refusal :=
  .next (let line := msg.line
  let ack (s : State) : State := s.sendFab msg.owner (dirOf s line) (.ackRevoke line)
  if (fabOf s line).st == .shared then
    let s := (List.range s.cores.length).foldl (fun s c => l1Drop s c line) s
    let s := s.modMem (fun m => { m with leases := m.leases.filter (fun p => p.1 != line) })
    modFab (ack s) line (fun f => { f with st := .inv })
  else ack s)

/-! ## Giving up a line (R205, R207, R209, R211) -/

/-- R205, R207, R247: HPART sent, with the package-tree value of the line's partials, and those freed. Partials that a cut has sealed go
alone, and the package joins the line's holders again for the later ones. The messages carry the owner index of what started the merge. -/
def sendPart (s : State) (owner line : Nat) : State :=
  let left (s : State) : State :=
    modFab (unask s line true) line (fun f => { f with st := .inv, req := if f.req == 5 then 0 else f.req, waiters := if f.req == 5 then [] else f.waiters })
  let part (s : State) (x : List Byte) (bad : Bool) : State := s.sendFab owner (dirOf s line) (.hpart line x bad)
  match herdOf s line with
  | none => left (part s [] false)
  | some h =>
    if h.sealedParts.isEmpty then left (herdFree (part s ((packageTree h.tag h.parts).getD []) (herdPoison s line)) line)
    else
      let slots := h.sealedParts.map Prod.fst
      let s := left (sealedFree (part s ((packageTree h.tag h.sealedParts).getD []) (sealedPoison s line slots)) line slots)
      if h.parts.isEmpty then s else fabAsk s owner line 4 h.tag

/-- R308: a line of a revoked window: what the package holds of it goes without write-back or merge, and it answers that it has nothing. -/
def dropRevoked (s : State) (owner line : Nat) : State :=
  let f := fabOf s line
  let s := (List.range s.cores.length).foldl (fun s c => l1Drop s c line) s
  let s := s.modMem (fun m => { m with leases := m.leases.filter (fun p => p.1 != line) })
  modFab (herdFree (s.sendFab owner (dirOf s line) (if f.st == .herd then .hpart line [] false else .wback line none)) line) line
    (fun f => { f with st := .inv })

/-- RECALL (R211, R308): an owner writes back and drops its copy; a holder sends its partial. For a revocation both drop what they hold. -/
def execRecall (msg : RecallMsg) (s : State) : Host.Outcome State Fault Refusal :=
  .next (let line := msg.line
  let f := fabOf s line
  if msg.reason == .revoked && (f.owns || f.st == .herd) then dropRevoked s msg.owner line
  else if heldOn s line then putBack s (.evRecall msg)
  else if f.owns then
    modFab ((unask s line true).sendFab msg.owner (dirOf s line) (.wback line (if f.st == .excl then none else some (ownRead s (line * 128) 128))))
      line (fun f => { f with st := .inv })
  else if f.st == .herd then sendPart s msg.owner line
  else s)

/-- HCOLL (R207): a holder sends HPART and frees its partials; `msg` numbers the merge. -/
def execHcoll (line : Nat) (msg : CollMsg) (s : State) : Host.Outcome State Fault Refusal :=
  .next (if (fabOf s line).st == .herd || (herdOf s line).isSome then sendPart s msg.owner line
  else modFab s line (fun f => { f with req := if f.req == 5 then 0 else f.req, waiters := if f.req == 5 then [] else f.waiters }))

/-- R308: whether a line of this package lies in a window that is being revoked, for an owner whose copies the revocation drops. -/
def revokedFor (s : State) (owner line : Nat) : Bool :=
  owner != s.fabric.owner && s.fabric.windows.any (fun w => w.state == 2 && w.holds (paLocal (line * 128)) 128)

/-- WBACK (R196, R247, R308): the home takes the data of a copy given up, but for one that a revocation drops. A line that a closing cut
recalled has come back, with what was written before that cut. -/
def execWback (line : Nat) (data : GivenUp) (s : State) : Host.Outcome State Fault Refusal :=
  .next (let pre := recallPre s line
  let nothing := data.bytes.isEmpty || revokedFor s data.owner line
  if isRemote s (line * 128) then s
  else if !nothing && pageHeld s (line * 128) 128 pre then
    putBack (notePage s (line * 128) 128 pre) (.evWback line data)
  else
    let s := if nothing then s else physWrite s (line * 128) (data.bytes.take 128) pre
    if data.idle then clearFabric s line else recallDone s line)

/-- MERGE_APPLY (R207): the merged value applied at the home as a held synchronisation write: local leases end or are revoked, and LEND
passes or is revoked, the one kept from a state S included. A lost holder poisons the merge (R209). -/
def execMergeApply (line tag : Nat) (fold : Option (List Byte)) (marks : MergeMarks) (s : State) : Host.Outcome State Fault Refusal :=
  .next (let pre := recallPre s line
  if isRemote s (line * 128) then s
  else
    let again := Instr.evMergeApply line tag fold { marks with lend := 0 }
    let s := if marks.lend == 0 then s else modFab s line (fun f => { f with lend := max f.lend marks.lend, grantAt := s.ft })
    let e := leaseEnd s line
    if pageHeld s (line * 128) 128 pre then putBack (notePage s (line * 128) 128 pre) again
    else if s.ft < e then
      putBack (if e > s.ft + 128 then
        let s := (List.range s.cores.length).foldl (fun s c => l1Drop s c line) s
        s.modMem (fun m => { m with leases := m.leases.filter (fun p => p.1 != line) })
      else s) again
    else if s.ft ≤ (fabOf s line).lend then putBack (askRevoke s s.fabric.owner line) again
    else
      let lost := s.fabric.lost.any (fun x => x.1 == line)
      let s := mergeHome s line tag fold (marks.poison || lost) pre
      clearFabric (s.modFab (fun f => { f with lost := f.lost.filter (fun x => x.1 != line) })) line)

/-- LOST_HOLDER_TIMEOUT (R209): a lost holder's partial counts as poisoned in the line's next merge. -/
def execLostHolderTimeout (line pkg : Nat) (s : State) : Host.Outcome State Fault Refusal :=
  .next (s.modFab (fun f => { f with lost := if f.lost.contains (line, pkg) then f.lost else (line, pkg) :: f.lost }))

/-- FABRIC_LEASE_EXPIRY (R195): an S copy whose lease has ended becomes I. -/
def execFabricLeaseExpiry (line : Nat) (s : State) : Host.Outcome State Fault Refusal :=
  .next (let f := fabOf s line
  if f.st == .shared && decide (f.lease ≤ s.ft) then setFab s { f with st := .inv } else s)

/-! ## Requests put off (R192, R193, R196, R306) -/

/-- A request in flight sent once more. -/
def reissue (s : State) (line : Nat) : State :=
  let f := fabOf s line
  (setFab s { f with retryAt := 0, holdVer := 0, reqAt := s.ft, sw := switchOf s line }).sendFab f.owner (dirOf s line) (reqMsg s line f.req f.tag)

/-- R192, R196: what the package has asked of the directory of a line and awaits: its request, and what it has asked beside. -/
def modAsked (s : State) (line : Nat) (f : FabLine → FabLine) (g : DirAsk → DirAsk) : State :=
  let s := if (fabOf s line).req == 0 then s else setFab s (f (fabOf s line))
  s.modMem (fun m => { m with asks := m.asks.map (fun a => if a.line == line then g a else a) })

/-- R193: the requests and asks that a test names sent once more. -/
def reissueAll (s : State) (f : FabLine → Bool) (g : DirAsk → Bool) : State :=
  let s := ((s.mem.fab.filter (fun x => x.req != 0 && f x)).map FabLine.line).foldl reissue s
  (s.mem.asks.filter g).foldl sendAsk s

/-- WAIT (R196, R306): what was asked is to be issued again after 1 µs, and a request's 4 ms start afresh. -/
def execWait (line : Nat) (s : State) : Host.Outcome State Fault Refusal :=
  .next (if answerShut s line then s
  else modAsked s line (fun f => { f with retryAt := s.ft + 1000, reqAt := s.ft }) (fun a => { a with retryAt := s.ft + 1000 }))

/-- WAIT_RETRY (R196): the delay has lapsed. -/
def execWaitRetry (line : Nat) (s : State) : Host.Outcome State Fault Refusal :=
  .next (reissueAll s (fun f => f.line == line && f.retryAt != 0 && decide (f.retryAt ≤ s.ft))
    (fun a => a.line == line && a.retryAt != 0 && decide (a.retryAt ≤ s.ft)))

/-- STALEMAP (R192): what was asked is held until the package's DIRMAP reaches a version. -/
def execStalemap (line version : Nat) (s : State) : Host.Outcome State Fault Refusal :=
  .next (if answerShut s line then s
  else if version ≤ s.fabric.dirmapVer then reissueAll s (fun f => f.line == line) (fun a => a.line == line)
  else modAsked s line (fun f => { f with holdVer := version }) (fun a => { a with holdVer := version }))

/-- R212: whether a line's state is reported in a census. -/
def FabLine.reported (f : FabLine) : Bool := f.owns || f.st == .herd

/-- DIRMAP_ADOPT (R193, R212): a newer DIRMAP adopted in one step: what is held for it and what a failed switch lost is issued again, and
the lines of the failed switches' buckets are reported, with an end marker. -/
def execDirmapAdopt (version : Nat) (changes : List (Nat × Nat)) (failed : List Nat) (s : State) : Host.Outcome State Fault Refusal :=
  .next (if version ≤ s.fabric.dirmapVer then s
  else
    let again (ver sw : Nat) : Bool := (ver != 0 && decide (ver ≤ version)) || failed.contains sw
    let told := s.mem.fab.filter (fun f => f.reported && failed.contains (switchOf s f.line))
    let tagOf (f : FabLine) : Nat := match herdOf s f.line with | some h => h.tag | none => f.tag
    let s := s.modFab (fun f => { f with
      dirmapVer := version, dirmap := changes.foldl (fun l x => assocSet l (x.1 % 4096) x.2) f.dirmap })
    let s := reissueAll s (fun f => again f.holdVer f.sw) (fun a => again a.holdVer a.sw)
    let s := told.foldl (fun s f => s.sendFab s.fabric.owner (dirOf s f.line) (.census f.line f.st (if f.st == .herd then tagOf f else 0))) s
    ((changes.map Prod.snd).eraseDups).foldl (fun s k => if failed.isEmpty then s else s.sendFab s.fabric.owner (.switch k) (.censusEnd version)) s)

/-- R213: what a package holds of a line, in any state, dropped; a request of its own that is in flight stays. -/
def dropLine (s : State) (line : Nat) : State :=
  let s := (List.range s.cores.length).foldl (fun s c => l1Drop s c line) (herdFree s line)
  let s := s.modMem (fun m => { m with leases := m.leases.filter (fun p => p.1 != line) })
  clearFabric (modFab s line (fun f => { f with st := .inv })) line

/-- CENSUS_POISON (R213): a line that the home poisons and every package drops: one with contradictory reports, or one whose owner is lost. The
first address of the former is logged in every context mapped there. -/
def execCensusPoison (msg : CensusMsg) (s : State) : Host.Outcome State Fault Refusal :=
  .next (let line := msg.line
  let s := if isRemote s (line * 128) then dropLine s line else dropLine (physPoisonWrite s (line * 128) 128) line
  if msg.lost || s.fabric.censusLog == some s.fabric.dirmapVer then s
  else (recordAt s (line * 128) 0 4).modFab (fun f => { f with censusLog := some f.dirmapVer }))

/-- FABRIC_TIMEOUT (R306): a request without an answer for 4 ms ends: the accesses that await it take poison (notes/assumptions
63). -/
def execFabricTimeout (line : Nat) (s : State) : Host.Outcome State Fault Refusal :=
  .next (let f := fabOf s line
  if f.req != 0 && f.retryAt == 0 && f.holdVer == 0 && decide (f.reqAt + 4000000 ≤ s.ft) then
    setFab s (f.failed s.ft fPOISON)
  else s)

/-! ## Requests to this package's memory (R307, R308) -/

/-- R173: the place of another package's step among what has arrived at a line. -/
def farPlace (s : State) (requester pa : Nat) (k : ReqKind) : Option HeldReq := s.mem.held.find? (fun h => h.far == some (requester, pa, k))

/-- R173: another package's step held at the slice, as a synchronisation write of it; the party that the place names is of no block. -/
def farHold (s : State) (owner requester pa : Nat) (k : ReqKind) : State :=
  if (farPlace s requester pa k).isSome then s
  else
    let h : HeldReq := { party := { blk := s.blocks.length, who := .bell }, op := s.nextId, line := lineOf pa, lanes := [], dst := .none, words := 0,
                         acks := [], seq := 0, obj := false, far := some (requester, pa, k) }
    holdWrite (askRevoke s owner (lineOf pa)) h

/-- R422: the monitor that another package's request has put on a word of this package. -/
def farWatch (s : State) (requester pa : Nat) (k : ReqKind) : Option Monitor := s.mem.monitors.find? (fun q => q.far == some (requester, pa, k))

/-- R165, R422: what another package's wait on a word puts there. -/
def farMonitor (requester pa : Nat) (k : ReqKind) (w cond : Nat) (sg : Bool) (v : W64) : Monitor :=
  { party := { blk := 2 ^ 64, who := .bell }, born := 0, loc := .mem (pa / 8), va := 0, pa := pa, width := w, cond := cond, signed := sg, v := v,
    counter := false, hit := none, far := some (requester, pa, k) }

/-- R165, R422: another package's wait on a word of this one: the word that satisfies its condition, now or when its monitor has found it; a
monitor put there, or awaited while the slice has none free. -/
def watchWord (s : State) (m : Monitor) (q : Option Monitor) : State × Option (Except Unit Nat) :=
  let w := leNat (ownRead s m.pa m.width)
  match q.bind Monitor.hit with
  | some x => (s, some (.ok x.toNat))
  | none =>
    if physPoison s m.pa m.width then (s, some (.error ()))
    else if q.isSome then (s, none)
    else if m.holds w then (s, some (.ok w))
    else if monitorMax ≤ monitorsOf s (sliceOf s (lineOf m.pa)) then (s, none)
    else (putMonitor s m, none)

/-- FABRIC_REQUEST (R173, R180, R307, R308, R422): a request of another package checked against the windows, and performed at the home or refused.
A step at its owner is held there like one of the package's own, and a wait on a word stands again until its monitor has found the word. -/
def execFabricRequest (owner requester pa : Nat) (k : ReqKind) (s : State) : Host.Outcome State Fault Refusal :=
  .next (let pa := if k == .read then pa / 128 * 128 else pa
  let line := lineOf pa
  let code := windowCode s owner pa (reqSize k) (reqRight k)
  let again := Instr.evFabricRequest owner requester pa k
  let answer (s : State) (code : Nat) (bs : List Byte) : State := s.sendFab owner (.pkg requester) (.answer requester pa code bs)
  let done (s : State) : State := s.modMem (fun m => { m with
    held := m.held.filter (fun h => h.far != some (requester, pa, k)), monitors := m.monitors.filter (fun q => q.far != some (requester, pa, k)) })
  if isRemote s pa then s
  else if linkShut s owner (.pkg requester) then done s
  else if code != 0 then answer (done s) code []
  else
    match k with
    | .atomic o =>
      let first := match farPlace s requester pa k with
        | some h => lineFirst s line h.seq && h.acks.isEmpty
        | none => !heldOn s line && !queuedOn s line
      if pageHeld s pa o.size none then putBack (notePage s pa o.size none) again
      else if !first || !syncReady s pa then putBack (farHold s owner requester pa k) again
      else
        match homeMerge s line with
        | none => putBack (farHold s owner requester pa k) again
        | some s =>
          match syncLane (done s) pa o none with
          | (s, some old) => answer s 0 old.1
          | (s, none) => answer s fPOISON []
    | _ =>
      if heldOn s line || (k != .read && queuedOn s line) then putBack s again
      else
        match homeMerge s line with
        | none => putBack s again
        | some s =>
          match k with
          | .write d =>
            if pageHeld s pa d.length none then putBack (notePage s pa d.length none) again else answer (physWrite s pa d) 0 []
          | .watch w cond sg v =>
            match watchWord s (farMonitor requester pa k w cond sg v) (farWatch s requester pa k) with
            | (s, some (.ok x)) => answer (done s) 0 (leBytes w x)
            | (s, some (.error _)) => answer (done s) fPOISON []
            | (s, none) => putBack s again
          | _ => if physPoison s pa 128 then answer s fPOISON [] else answer s 0 (ownRead s pa 128))

/-! ## Link keys and quarantine (R303, R305) -/

/-- R305: a tag failure counted; QTHRESH failures within 1 ms quarantine the owner on the link. -/
def LinkOwner.fail (x : LinkOwner) (ft qthresh : Nat) : LinkOwner :=
  let times := ft :: x.times.filter (fun t => decide (ft < t + 1000000))
  { x with tagfail := min (x.tagfail + 1) 0xFFFF, times := times, quarantined := x.quarantined || decide (times.length ≥ qthresh) }

/-- R303: whether a packet's tag verifies under the key that the link end holds for its epoch. -/
def tagVerifies (p : LinkPacket) (owner : Nat) (x : LinkOwner) : Bool :=
  match assocGet x.keys (p.epoch % 4) with
  | some k => p.tag == Config.gmac k (packetIv p.seq owner p.link) p.covered
  | none => false

/-- TAG_FAILURE (R303, R305): the receiver judges a packet. One in order whose tag verifies under a key it holds is accepted; a repeated
number is a link-level replay, dropped uncounted; every other mismatch is dropped, counted and reported. Of a quarantined owner
everything is dropped. -/
def execTagFailure (owner : Nat) (pkt : LinkPacket) (s : State) : Host.Outcome State Fault Refusal :=
  .next (let x := linkOf s owner pkt.link
  let e := pkt.epoch % 4
  let held := (assocGet x.keys e).isSome
  if x.quarantined then s
  else if held && decide (pkt.seq < x.nextSeq e) then s
  else if pkt.seq == x.nextSeq e && tagVerifies pkt owner x then
    modLink s owner pkt.link (fun x => { x with seqs := assocSet x.seqs e ((pkt.seq + 1) % 2 ^ 64) })
  else (modLink s owner pkt.link (fun x => x.fail s.ft s.fabric.qthresh)).send (.tagReport owner pkt.link))

/-- KEY_INSTALL (R303, R305): a key for an epoch, of which a link end holds at most two; its sequences start from 0. A new epoch lifts
a quarantine. -/
def execKeyInstall (owner link epoch : Nat) (s : State) : Host.Outcome State Fault Refusal :=
  .next (let e := epoch % 4
  let (k, s) := s.newId
  modLink s owner link (fun x =>
    let fresh := (assocGet x.keys e).isNone
    let ks := ((e, k) :: x.keys.filter (fun y => y.1 != e)).take 2
    let kept (l : List (Nat × Nat)) : List (Nat × Nat) := l.filter (fun p => ks.any (fun y => y.1 == p.1))
    { x with keys := ks, seqs := assocSet (kept x.seqs) e 0, sent := assocSet (kept x.sent) e 0,
             quarantined := x.quarantined && !fresh, times := if fresh then [] else x.times }))

/-! ## The pod (R10, R23, R195, R304) -/

/-- IEEE_1588_SYNC (R10): the time base follows the pod's; FT never decreases. -/
def execIeee1588Sync (t : Nat) (s : State) : Host.Outcome State Fault Refusal := .next { s with ft := max s.ft t }

/-- R23: memory under another package number: what stood under the old number stands under the new one. -/
def renumber (m : MemSys) (old new : Nat) : MemSys :=
  let mv (a : Nat) : Nat := if paPkg a == old then new * 2 ^ 46 + paLocal a else a
  { m with
    cells := m.cells.foldl (fun c x => cellSet c (mv x.1) x.2) []
    poison := m.poison.map (fun l => match l with | .mem d => .mem (mv (8 * d) / 8) | l => l)
    present := m.present.map (fun l => mv (128 * l) / 128) }

/-- POD_FORMATION (R10, R23, R195, R304): the fabric manager gives the package its number, its owner index, LEASEF (ns) and the
epoch: FT as counted from it. -/
def execPodFormation (pkg owner leaseF epoch : Nat) (s : State) : Host.Outcome State Fault Refusal :=
  .next (let n := pkg % 1024
  let s := if n == s.fabric.pkg then s else s.modMem (fun m => renumber m s.fabric.pkg n)
  let s := s.modFab (fun f => { f with
    pkg := n, inPod := true, owner := owner % 1024, leasef := max 2000 (min 500000 leaseF), epoch := epoch })
  { s with ft := max s.ft epoch })

end Sys2Proof.Machine
end

