-- ==== Sys2Proof/Machine/EvMgmt.lean ====
section
/-! DEFINITION. Register writes (R7, R274), the host link (R187, R297 to R300), the memory tier (R302), export windows (R307, R308),
management, ownership, attestation and boot (R311 to R314), the power limit (R28) and device reset (R8). -/

namespace Sys2Proof.Machine

open Sys2Proof

/-! ## Registers (R7, R241, R274, R300, R304, R305, R307, R313) -/

/-- R274, R300: a write to a function's register by software of the function; function 0 is the physical one. What a write outside a field's
range does is the model's choice (notes/assumptions 95): PASIDLIM is limited to 2^20, and the low bits of a table or ring address that are
not part of its field are dropped. -/
def writeFnReg (s : State) (m : Master) (fn off : Nat) (v : W64) : State :=
  let n := v.toNat
  if off == 0x000 then takeDoorbell s fn v
  else if off == 0x040 then s.modFn fn (fun f => { f with qroot := n / 4096 * 4096 })
  else if off == 0x048 then s.modFn fn (fun f => { f with pasidlim := min n (2 ^ 20) })
  else if off == 0x050 then (if fn == 0 then s.modFn 0 (fun f => { f with s2root := n / 4096 * 4096 }) else s)
  else if off == 0x058 then s.modFn fn (fun f => { f with evqbase := n / 4096 * 4096 + n % 32 })
  else if off == 0x064 then s.modFn fn (fun f => { f with evtail := n % 2 ^ 32 })
  else if off == 0x068 then flushQueues s fn v
  else if off == 0x070 then s.modFn fn (fun f => { f with flushaddr := n })
  else if off == 0x078 then s.modFn fn (fun f => { f with prtimeout := max 1 (min 10000 n) })
  else if off == 0x088 then
    let set (s : State) : State := s.modFn fn (fun f => { f with atomcap := lo32 v &&& 0x7F7F#32 })
    if fn == 0 then ownerDo s m set else set s
  else if fn == 0 && decide (0x1008 ≤ off) && decide (off ≤ 0x1200) && off % 8 == 0 then
    s.modFn ((off - 0x1000) / 8) (fun f => { f with s2root := n / 4096 * 4096 })   -- VF v is function v (log 67, DEDUCED)
  else s

/-- R307: an export window entry as written. -/
def windowEntry (v : BitVec 128) : ExportWin :=
  let n := v.toNat
  { importer := n / 2 ^ 100 % 1024, any := v.getLsbD 99, rights := v.extractLsb' 96 3, size := n / 2 ^ 64 % 2 ^ 32,
    base := n / 2 ^ 16 % 2 ^ 48 * 65536, state := n % 4 }

/-- R307: whether two windows overlap. -/
def ExportWin.meets (a b : ExportWin) : Bool :=
  decide (a.base < b.base + b.size * 65536) && decide (b.base < a.base + a.size * 65536)

/-- R307: the home lines of a window that the fabric shares. -/
def windowLines (s : State) (w : ExportWin) : List Nat :=
  s.mem.fabricBits.filter (fun l => w.holds (paLocal (l * 128)) 128)

/-- A management command answered. -/
def mgmtSay (s : State) (m : MgmtMsg) : State := s.modMgmt (fun g => { g with out := m :: g.out })

/-- R308: a valid window revoked: its requests are refused from now on, and its lines are recalled. -/
def revokeWindow (s : State) (i : Nat) : State :=
  match s.fabric.windows[i]? with
  | none => mgmtSay s .rejected
  | some w =>
    if w.state != 1 then mgmtSay s .rejected
    else
      let s := s.modFab (fun f => { f with windows := f.windows.set i { w with state := 2 } })
      mgmtSay ((windowLines s w).foldl (fun s l => askRecall s s.fabric.owner l) s) .accepted

/-- R307: an export window entry written. -/
def writeWindow (s : State) (i : Nat) (v : BitVec 128) : State :=
  match s.fabric.windows[i]? with
  | none => mgmtSay s .rejected
  | some old =>
    let w := windowEntry v
    let others := ((s.fabric.windows.zipIdx).filter (fun x => x.2 != i && x.1.state != 0)).map Prod.fst
    if w.state == 2 then revokeWindow s i
    else if w.state == 3 || (w.state == 0 && old.state == 2) || (w.state == 1 && (w.size == 0 || others.any (fun x => x.meets w))) then
      mgmtSay s .rejected
    else mgmtSay (s.modFab (fun f => { f with windows := f.windows.set i w })) .accepted

/-- R7, R274, R300: what a read of a function's register returns: a WO register reads as zero. DROPS, which a read clears, has an event of
its own. -/
def fnRegRead (s : State) (fn off : Nat) : Nat :=
  match s.fns[fn]? with
  | none => 0
  | some f =>
    if off == 0x040 then f.qroot
    else if off == 0x048 then f.pasidlim
    else if off == 0x050 then f.s2root
    else if off == 0x058 then f.evqbase
    else if off == 0x060 then f.evhead
    else if off == 0x064 then f.evtail
    else if off == 0x070 then f.flushaddr
    else if off == 0x078 then f.prtimeout
    else if off == 0x080 then f.drops
    else if off == 0x088 then f.atomcap.toNat
    else if fn == 0 && decide (0x1008 ≤ off) && decide (off ≤ 0x1200) && off % 8 == 0 then
      ((s.fns[(off - 0x1000) / 8]?).map Fn.s2root).getD 0
    else 0

/-- R313: a master as MGMTOWN codes it. -/
def masterCode : Option Master → Nat
  | none => 0
  | some .host => 1
  | some .board => 2
  | some .fabric => 3

/-- R313: MGMTOWN as read. -/
def mgmtown (g : Mgmt) : W32 :=
  BitVec.ofNat 32 (masterCode g.owner + masterCode g.succ * 4 + g.prio % 16 * 2 ^ 8 + g.epoch.toNat * 2 ^ 24)

/-- R120, R241: HEALTH as read. -/
def health (s : State) : W32 :=
  let spared := (s.cores.map (fun c => min 4 (c.rows.countP (· == .disabled)))).foldl (· + ·) 0
  BitVec.ofNat 32 ((if s.mgmt.replreq then 1 else 0) + (if s.mgmt.quar then 2 else 0) + (if s.mgmt.poisonev then 4 else 0) +
    min spared 512 * 2 ^ 11 + min s.mgmt.discores 128 * 2 ^ 21)

/-- R307: an export window entry as read. -/
def ExportWin.word (w : ExportWin) : Nat :=
  w.importer * 2 ^ 100 + (if w.any then 2 ^ 99 else 0) + w.rights.toNat * 2 ^ 96 + w.size * 2 ^ 64 + w.base / 65536 * 2 ^ 16 + w.state

/-- R7, R313: what a read of a register returns; every master may read. -/
def regRead (s : State) (r : RegRef) : Nat :=
  match r with
  | .fnReg fn off => fnRegRead s fn off
  | .vfS2root vf => ((s.fns[vf]?).map Fn.s2root).getD 0
  | .ownerIndex fn => ((s.fns[fn]?).map Fn.owner).getD 0
  | .exportWin i => ((s.fabric.windows[i]?).map ExportWin.word).getD 0
  | .health => (health s).toNat
  | .hdm port => if port == 0 then s.mgmt.hdm.1 else s.mgmt.hdm.2
  | .mgmtown => (mgmtown s.mgmt).toNat
  | .qthresh => s.fabric.qthresh
  | .savecost ctx => ((s.ctxs[ctx]?).map Ctx.savecost).getD 0

/-- REGISTER_WRITE (R7): a write to a register of a function or of management. A write of QTHRESH sets the low 8 bits, and one of 0 there is
ignored (notes/assumptions 95, DESIGN CHOICE). -/
def execRegisterWrite (m : Master) (r : RegRef) (v : BitVec 128) (s : State) : Host.Outcome State Fault Refusal :=
  .next (match r with
  | .fnReg fn off => writeFnReg s m fn off (v.setWidth 64)
  | .vfS2root vf => if vf == 0 then s else s.modFn vf (fun f => { f with s2root := v.toNat % 2 ^ 64 / 4096 * 4096 })
  | .ownerIndex fn => ownerDo s m (fun s => s.modFn fn (fun f => { f with owner := v.toNat % 1024 }))
  | .exportWin i => ownerDo s m (fun s => writeWindow s i v)
  | .health => ownerDo s m (fun s => s.modMgmt (fun g => { g with
      poisonev := g.poisonev && !v.getLsbD 2, replreq := g.replreq && !v.getLsbD 0 }))
  | .hdm port => ownerDo s m (fun s => s.modMgmt (fun g => { g with
      hdm := if port == 0 then (v.toNat, g.hdm.2) else (g.hdm.1, v.toNat) }))
  | .mgmtown | .savecost _ => s
  | .qthresh => ownerDo s m (fun s => if v.toNat % 256 == 0 then s else s.modFab (fun f => { f with qthresh := v.toNat % 256 })))

/-- REVOKE (R308). -/
def execRevoke (m : Master) (win : Nat) (s : State) : Host.Outcome State Fault Refusal := .next (ownerDo s m (fun s => revokeWindow s win))

/-- REVOKE_COMPLETE (R308): every recall is acknowledged: the window is revoked, and its lines have no directory entry. -/
def execRevokeComplete (win : Nat) (s : State) : Host.Outcome State Fault Refusal :=
  .next (match s.fabric.windows[win]? with
  | none => s
  | some w =>
    if w.state != 2 then s
    else
      let ls := windowLines s w
      (s.modFab (fun f => { f with windows := f.windows.set win { w with state := 3 } })).modMem (fun g => { g with
        asks := g.asks.filter (fun a => !ls.contains a.line)
        fabricBits := g.fabricBits.filter (fun l => !(ls.contains l && (fabOf s l).st == .inv)) }))

/-! ## The host link (R187, R297, R299, R300) -/

/-- R191, R203, R297: whether a host access to a line of the package's HBM may be performed now. -/
def hostReady (s : State) (fn pa : Nat) (wr : Bool) : State × Bool :=
  let line := lineOf pa
  if heldOn s line then (s, false)
  else if wr && pageHeld s pa 1 none then (notePage s pa 1 none, false)
  else if onFabric s pa then
    match fabReady s (fnCause s fn) pa 0 (if wr then .write else .read) with
    | (s, .go) => (s, true)
    | (s, _) => (s, false)
  else
    match homeMerge s line with
    | some s => (s, true)
    | none => (s, false)

/-- R23, R301: an address of this package's memory: HBM or the memory tier. -/
def packageMem (s : State) (pa : Nat) : Bool :=
  !isRemote s pa && (match region s pa with | .hbm _ => true | .tier _ => true | _ => false)

/-- R296: whether an access of CXL.mem lies in the HDM range; CXL.io reaches all of the package's memory. -/
def inHdm (s : State) (r : HostReq) (pa n : Nat) : Bool :=
  let h := s.mgmt.hdmRange
  !r.mem || (decide (h.1 ≤ paLocal pa) && decide (paLocal pa + n ≤ h.1 + min h.2 0x1000000000) && decide (paLocal pa + n ≤ 0xC000000000))

/-- HOST_MEM_ACCESS (R296, R297): a read or write of the package's memory from outside, at the home slices. R254 has system software
initialise a chain directory on the memory tier, so tier lines, which R301 makes package memory, are reached too by CXL.io (log 69, DEDUCED). -/
def execHostMemAccess (req : HostReq) (pa len : Nat) (wr : Option (List Byte)) (s : State) : Host.Outcome State Fault Refusal :=
  .next (let n := match wr with | some d => d.length | none => len
  if !(packageMem s pa && packageMem s (pa + n - 1) && inHdm s req pa n) then s
  else
    match (linePieces pa n).foldl (fun (r : State × Bool) p => if r.2 then hostReady r.1 req.fn p.1 wr.isSome else r) (s, true) with
    | (s, false) => putBack s (.evHostMemAccess req pa len wr)
    | (s, true) =>
      match wr with
      | some d => (physWrite s pa d).send (.answer req.fn pa 0 [])
      | none => if physPoison s pa n then s.send (.answer req.fn pa fPOISON []) else s.send (.answer req.fn pa 0 (physRead s pa n)))

/-- R300, R306: a fault of an AtomicOp's lane, deferred. -/
def atomicFault (s : State) (a : HostAtomic) (code : Nat) : State :=
  let (cls, side) := match findOp s a.party a.op with | some o => (o.cls, o.side) | none => (.ac, none)
  (opParties s a.party a.op).foldl (fun s q =>
    addDeferred s q { cls := cls, side := side, code := code, addr := a.va, lanes := laneBit a.lane, dst := a.dst, write := true }) s

/-- ATOMICOP_COMPLETION (R299, R300): the old value reaches its lane, and the write's time is the arrival; or the lane has a deferred
fault. -/
def execAtomicopCompletion (id : Nat) (st : CplStatus) (old : List Byte) (s : State) : Host.Outcome State Fault Refusal :=
  .next (match s.mem.atomics.find? (fun a => a.id == id) with
  | none => s
  | some a =>
    let s := s.modMem (fun m => { m with atomics := m.atomics.filter (fun x => x.id != id) })
    match st with
    | .unsupported => atomicFault s a fATOMUNS
    | .abort => atomicFault s a fPERM
    | .success =>
      let old := old.take a.req.size ++ List.replicate (a.req.size - old.length) 0#8
      let s := match a.req.apply old with
        | none => s
        | some now =>
          let s := hostPut s a.pa now
          (opParties s a.party a.op).foldl (fun s q => modOp s q a.op (fun o => { o with g := max o.g s.ft })) s
      deliverOld s a.party a.op a.dst a.words [(a.lane, some old)])

/-- The party whose outstanding operation of a number awaits data in flight. -/
def loadParty (s : State) (id : Nat) : Option Party :=
  ((s.blocks.zipIdx).map (fun (x : Block × Nat) => (partiesOf x.1 x.2).filter (fun p =>
    (partyOps s p).any (fun o => o.id == id && !o.pending.isEmpty)))).flatten.head?

/-- COMPLETION_TIMEOUT (R300, R306): an AtomicOp without a completion leaves its lane a deferred POISON; the lanes of a host read
without one consume poison. -/
def execCompletionTimeout (id : Nat) (s : State) : Host.Outcome State Fault Refusal :=
  .next (match s.mem.atomics.find? (fun a => a.id == id) with
  | some a =>
    let s := s.modMem (fun m => { m with atomics := m.atomics.filter (fun x => x.id != id) })
    deliverOld (atomicFault s a fPOISON) a.party a.op a.dst a.words [(a.lane, none)]
  | none =>
    match loadParty s id with
    | none => s
    | some p =>
      match findOp s p id with
      | none => s
      | some o =>
        let lanes := maskOf (fun l => o.pending.any (fun x => x.1 == l))
        let s := modOp s p id (fun o => { o with pending := [], miss := [] })
        let s := match o.dst with
          | .vreg _ _ => killFrom (noteArrived s p id lanes) p lanes
          | d => addDeferred s p { cls := o.cls, side := o.side, code := fPOISON, addr := 0, lanes := 0, dst := d, write := false }
        endLoad s p id)

/-- CXL_CACHE_SNOOP (R187): the host takes back a 64-byte sector: the device writes back the bytes it has written there and holds the
line no longer; `after`: bytes (offset, value) that the host then writes. -/
def execCxlCacheSnoop (sector : Nat) (after : List (Nat × Byte)) (s : State) : Host.Outcome State Fault Refusal :=
  .next (let a := sector * 64
  if region s a != .host then s
  else
    let mine := s.mem.sectors.filter (fun x => x.addr == sector && x.modified)
    let s := mine.foldl (fun s x => (List.range 64).foldl (fun s k =>
      if x.mask.getLsbD k then
        (s.modMem (fun m => { m with cells := cellSet m.cells (a + k) (x.bytes.getD k 0) })).send (.dirtyByte (a + k) (x.bytes.getD k 0))
      else s) s) s
    let s := s.modMem (fun m => { m with sectors := m.sectors.filter (fun x => x.addr != sector) })
    let s := (List.range s.cores.length).foldl (fun s c => l1Drop s c (a / 128)) s
    let s := s.modMem (fun m => { m with leases := m.leases.filter (fun p => p.1 != a / 128) })
    after.foldl (fun s x => hostPut s (a + x.1 % 64) [x.2]) s)

/-- FUNCTION_LEVEL_RESET (R8, R297): the function's contexts stop and are discarded without an increment; when all are, its registers
take their reset values. -/
def execFunctionLevelReset (fn : Nat) (s : State) : Host.Outcome State Fault Refusal :=
  .next (let mine := (s.ctxs.zipIdx).filter (fun (x : Ctx × Nat) => x.1.fn == fn && x.1.state != .discarded)
  let s := mine.foldl (fun s (x : Ctx × Nat) => if x.1.cause == some .flr then s else beginStop s x.2 .flr) s
  if !mine.isEmpty then putBack s (.evFunctionLevelReset fn)
  else
    let s := s.modFe (fun e => { e with
      latches := e.latches.filter (fun l => l.fn != fn), held := e.held.filter (fun x => x.1 != fn),
      suspended := e.suspended.filter (fun x => x.1 != fn), refused := e.refused.filter (fun x => x.1 != fn),
      reqs := e.reqs.filter (fun x => x.1 != fn), answers := e.answers.filter (fun x => x.1 != fn),
      walked := e.walked.filter (fun w => w.fn != fn) })
    let s := s.modMem (fun m => { m with
      pageReqs := m.pageReqs.filter (fun r => r.fn != fn), tlb := m.tlb.filter (fun t => t.fn != fn),
      walks := m.walks.filter (fun e => e.fn != fn), invals := m.invals.filter (fun x => x.fn != fn) })
    s.modFn fn (fun _ => Fn.reset))

/-! ## The memory tier (R302) -/

/-- R302: the increment that a context streams through a failed port given up: its items are marked again. -/
def dropStreaming (s : State) (ci : Nat) (c : Ctx) : State :=
  match streaming c with
  | none => s
  | some inc =>
    if c.state == .discarded || !tierLost s c.desc.chain then s
    else
      let s := s.modCtx ci (fun c => { c with
        chain := c.chain.filter (fun n => !n.closed || n.committed), cur := inc.items.foldl (fun l i => if l.contains i then l else i :: l) c.cur })
      inc.blocks.foldl (fun s x => s.modBlock x.1 (fun b => { b with
        newborn := b.newborn || x.2.newborn
        groups := b.groups.mapIdx (fun k g => { g with gran := g.gran ++ ((x.2.groups[k]?).map Group.gran).getD [] }) })) s

/-- A memory-tier port's link. -/
def setTier (s : State) (port : Nat) (down : Bool) : State :=
  s.modMem (fun m => { m with tierDown := if port == 0 then (down, m.tierDown.2) else (m.tierDown.1, down) })

/-- R302: the lines behind a port that operations still await, those in flight to a core's engines among them: their data come as poison. -/
def loseFlights (s : State) (port : Nat) : State :=
  let lost (line : Nat) : Bool := region s (line * 128) == .tier port
  let lines := (((s.blocks.zipIdx).map (fun (x : Block × Nat) => ((partiesOf x.1 x.2).map (fun p =>
    ((partyOps s p).map (fun o => o.miss.map Prod.fst)).flatten)).flatten)).flatten.filter lost).eraseDups
  let s := (List.range s.cores.length).foldl (fun s k => lines.foldl (fun s l => poisonStreams s k l) s) s
  { s with cores := s.cores.map (fun k => { k with fills := k.fills.filter (fun f => !lost f.line) }) }

/-- TIER_LINK_FAILURE (R302): accesses in flight through the port answer as poison, and increments that stream through it are given up. -/
def execTierLinkFailure (port : Nat) (s : State) : Host.Outcome State Fault Refusal :=
  .next (let s := loseFlights (setTier s port true) port
  (s.ctxs.zipIdx).foldl (fun s (x : Ctx × Nat) => dropStreaming s x.2 x.1) s)

/-- TIER_LINK_RESTORE (R302): cuts that waited for the port may be taken. -/
def execTierLinkRestore (port : Nat) (s : State) : Host.Outcome State Fault Refusal :=
  .next (let s := setTier s port false
  (s.ctxs.zipIdx).foldl (fun s (x : Ctx × Nat) => retryCut s x.2) s)

/-! ## Ownership (R312, R313) -/

/-- R312: the priority of a master. -/
def prioOf (s : State) : Master → Nat
  | .host => s.mgmt.prios.1
  | .board => s.mgmt.prios.2.1
  | .fabric => s.mgmt.prios.2.2

/-- R313: the device has a new owner. -/
def setOwner (s : State) (m : Master) : State :=
  let p := prioOf s m
  s.modMgmt (fun g => { g with owner := some m, prio := p, succ := none, epoch := g.epoch + 1, lastCmd := s.ft, election := none })

/-- R312: whether a claim beats another. -/
def beats (s : State) (a b : Claim) : Bool :=
  decide (prioOf s b.m < prioOf s a.m) || (prioOf s a.m == prioOf s b.m && decide (b.nonce.toNat < a.nonce.toNat))

/-- R312: an election whose 100 ms have passed ends: the claim that beats every other wins; equal claims all lose. -/
def endElection (s : State) : State :=
  match s.mgmt.election with
  | none => s
  | some l =>
    if s.ft < s.mgmt.electAt + 100000000 then s
    else
      match l.find? (fun c => l.all (fun d => d == c || beats s c d)) with
      | some c => setOwner s c.m
      | none => s.modMgmt (fun g => { g with election := none })

/-- CLAIM (R312): a claim while no master owns the device opens a 100 ms election or joins it; one that comes after the window finds the
election decided. -/
def execClaim (m : Master) (nonce : W32) (s : State) : Host.Outcome State Fault Refusal :=
  .next (let s := endElection s
  if s.mgmt.owner.isSome then mgmtSay s .notOwner
  else
    match s.mgmt.election with
    | none => s.modMgmt (fun g => { g with election := some [{ m := m, nonce := nonce }], electAt := s.ft })
    | some l => s.modMgmt (fun g => { g with election := some (l.filter (fun c => c.m != m) ++ [{ m := m, nonce := nonce }]) }))

/-- ELECTION_END (R312). -/
def execElectionEnd (s : State) : Host.Outcome State Fault Refusal := .next (endElection s)

/-- HANDOVER (R313): the owner names a successor. -/
def execHandover (m succ : Master) (s : State) : Host.Outcome State Fault Refusal :=
  .next (ownerDo s m (fun s => s.modMgmt (fun g => { g with succ := some succ, succAt := s.ft })))

/-- ACCEPT (R313): within 1 s the named successor becomes owner. -/
def execAccept (m : Master) (s : State) : Host.Outcome State Fault Refusal :=
  .next (if s.mgmt.owner.isSome && s.mgmt.succ == some m && decide (s.ft < s.mgmt.succAt + 1000000000) then setOwner s m
  else mgmtSay s .notOwner)

/-- HANDOVER_TIMEOUT (R313): without an ACCEPT within 1 s the old owner stays. -/
def execHandoverTimeout (s : State) : Host.Outcome State Fault Refusal :=
  .next (if s.mgmt.succ.isSome && decide (s.mgmt.succAt + 1000000000 ≤ s.ft) then s.modMgmt (fun g => { g with succ := none }) else s)

/-- OWNER_SILENCE (R313): an owner silent for 10 s loses ownership. -/
def execOwnerSilence (s : State) : Host.Outcome State Fault Refusal :=
  .next (if s.mgmt.owner.isSome && decide (s.mgmt.lastCmd + 10000000000 ≤ s.ft) then
    s.modMgmt (fun g => { g with owner := none, prio := 0, succ := none, epoch := g.epoch + 1 })
  else s)

/-! ## Attestation (R311, R314) -/

/-- GET_VERSION (R311): SPDM 1.2. -/
def execGetVersion (s : State) : Host.Outcome State Fault Refusal := .next (mgmtSay s (.version [(1, 2)]))

/-- GET_CAPABILITIES (R311): no sessions. -/
def execGetCapabilities (s : State) : Host.Outcome State Fault Refusal := .next (mgmtSay s (.capabilities false))

/-- NEGOTIATE_ALGORITHMS (R311): ECDSA P-256 and SHA-256 or nothing; `asym` and `hash` are the SPDM 1.2 masks that the requester
offers (notes/assumptions 65). -/
def execNegotiateAlgorithms (asym hash : Nat) (s : State) : Host.Outcome State Fault Refusal :=
  .next (mgmtSay s (.algorithms (asym.testBit 4 && hash.testBit 0)))

/-- GET_DIGESTS (R311): the digest of the certificate chain. -/
def execGetDigests (s : State) : Host.Outcome State Fault Refusal := .next (mgmtSay s (.digests [sha256 (Config.certificate 0)]))

/-- GET_CERTIFICATE (R311). -/
def execGetCertificate (slot off len : Nat) (s : State) : Host.Outcome State Fault Refusal :=
  .next (mgmtSay s (.certificate (((Config.certificate slot).drop off).take len)))

/-- CHALLENGE (R311): a signature over the nonce and the measurements. -/
def execChallenge (nonce : List Byte) (s : State) : Host.Outcome State Fault Refusal :=
  .next (mgmtSay s (.challenge (Config.sign (nonce ++ s.mgmt.meas.flatten))))

/-- GET_MEASUREMENTS (R314): blocks 1 to 6. -/
def execGetMeasurements (block : Nat) (s : State) : Host.Outcome State Fault Refusal :=
  .next (if block == 0 then mgmtSay s .rejected
  else
    match s.mgmt.meas[block - 1]? with
    | some d => mgmtSay s (.measurement block d)
    | none => mgmtSay s .rejected)

/-! ## Boot, power and reset (R8, R28, R314) -/

/-- R314: whether an image passes its checks. -/
def imageOk (i : BootImage) (svn : Nat) : Bool := Config.sigVerifies 1 i.data i.sig && decide (svn ≤ i.svn)

/-- R10, R23, R312: what a signed board configuration sets: outside a pod the package number, 0 when it assigns none, and the masters'
priorities. -/
def boardConfig (s : State) (cfg : List Byte) : State :=
  let n := (Config.boardPackage cfg).getD 0 % 1024
  let s := match Config.boardPrios cfg with | some p => s.modMgmt (fun g => { g with prios := p }) | none => s
  if s.fabric.inPod || n == s.fabric.pkg then s
  else (s.modMem (fun m => renumber m s.fabric.pkg n)).modFab (fun f => { f with pkg := n })

/-- BOOT (R314): the images are measured and checked; a failure leaves only the physical function, which runs no context. -/
def execBoot (fw link cfg : BootImage) (s : State) : Host.Outcome State Fault Refusal :=
  .next (let k := s.mgmt.svns
  let ok := imageOk fw k.1 && imageOk link k.2.1 && imageOk cfg k.2.2
  let s := measFuses (setMeas (setMeas (setMeas (setMeas s 1 (sha256 (Config.romImage 1))) 2 (sha256 fw.data)) 3 (sha256 link.data)) 4
    (sha256 cfg.data))
  let s := s.modMgmt (fun g => { g with bootfail := !ok })
  if ok then boardConfig s cfg.data else { s with fns := s.fns.take 1 })

/-- POWER_LIMIT (R28): the arithmetic clock of all cores is lowered together; no result changes. -/
def execPowerLimit (on : Bool) (s : State) : Host.Outcome State Fault Refusal := .next (s.modMgmt (fun g => { g with slowed := on }))

/-- R8, R272, R314: the device after a reset. Every field takes its reset value; the fused counters, what the memories hold and whether
a tier link is up are no fields with a reset value, and stay (notes/assumptions 11); so do stimuli that have not arrived yet. -/
def deviceReset (s : State) : State :=
  let kept := if s.fabric.pkg == 0 then s.mem else renumber s.mem s.fabric.pkg 0
  { State.reset with
    mem := { MemSys.reset with
      cells := kept.cells
      poison := kept.poison.filter (fun l => match l with | .mem _ => true | _ => false)
      tierDown := s.mem.tierDown }
    fe := { FrontEnd.reset with svn := s.fe.svn }
    mgmt := { Mgmt.reset with svns := s.mgmt.svns, hdmRange := s.mgmt.hdmRange }
    inbox := s.inbox }

/-- DEVICE_RESET (R8). -/
def execDeviceReset (s : State) : Host.Outcome State Fault Refusal := .next (deviceReset s)

end Sys2Proof.Machine
end

