-- ==== Sys2Proof/Machine/Dispatch.lean ====
section
/-! DEFINITION. The meaning of each instruction of the table: one arm per constructor (00_conventions, 14_encoding). -/

namespace Sys2Proof.Machine

open Sys2Proof

/-- What an instruction does in a state. -/
def exec (i : Instr) (s : State) : Host.Outcome State Fault Refusal :=
  match i with
  | .opNop e => Sys2Proof.Machine.execNop e s
  | .opSetm e imm => Sys2Proof.Machine.execSetm e imm s
  | .opGetm e d => Sys2Proof.Machine.execGetm e d s
  | .opSetmx e a => Sys2Proof.Machine.execSetmx e a s
  | .opSysv e d imm => Sys2Proof.Machine.execSysv e d imm s
  | .opCrd e d imm => Sys2Proof.Machine.execCrd e d imm s
  | .opCwr e a imm => Sys2Proof.Machine.execCwr e a imm s
  | .opTrap e imm => Sys2Proof.Machine.execTrap e imm s
  | .opRte e => Sys2Proof.Machine.execRte e s
  | .opYield e => Sys2Proof.Machine.execYield e s
  | .opCkpt e => Sys2Proof.Machine.execCkpt e s
  | .opChq e d c => Sys2Proof.Machine.execChq e d c s
  | .opAdd e d a b => Sys2Proof.Machine.execAdd e d a b s
  | .opSub e d a b => Sys2Proof.Machine.execSub e d a b s
  | .opMul e d a b => Sys2Proof.Machine.execMul e d a b s
  | .opMad e x y z => Sys2Proof.Machine.execMad e x y z s
  | .opMin e d a b => Sys2Proof.Machine.execMin e d a b s
  | .opMax e d a b => Sys2Proof.Machine.execMax e d a b s
  | .opAnd e d a b => Sys2Proof.Machine.execAnd e d a b s
  | .opOr e d a b => Sys2Proof.Machine.execOr e d a b s
  | .opXor e d a b => Sys2Proof.Machine.execXor e d a b s
  | .opShl e d a b => Sys2Proof.Machine.execShl e d a b s
  | .opShr e d a b => Sys2Proof.Machine.execShr e d a b s
  | .opSar e d a b => Sys2Proof.Machine.execSar e d a b s
  | .opSel e d a b => Sys2Proof.Machine.execSel e d a b s
  | .opMulh e d a b => Sys2Proof.Machine.execMulh e d a b s
  | .opCmp e c p a b => Sys2Proof.Machine.execCmp e c p a b s
  | .opMov e d a => Sys2Proof.Machine.execMov e d a s
  | .opAbs e d a => Sys2Proof.Machine.execAbs e d a s
  | .opNeg e d a => Sys2Proof.Machine.execNeg e d a s
  | .opNot e d a => Sys2Proof.Machine.execNot e d a s
  | .opRcp e d a => Sys2Proof.Machine.execRcp e d a s
  | .opRsq e d a => Sys2Proof.Machine.execRsq e d a s
  | .opSqrt e d a => Sys2Proof.Machine.execSqrt e d a s
  | .opExp2 e d a => Sys2Proof.Machine.execExp2 e d a s
  | .opLog2 e d a => Sys2Proof.Machine.execLog2 e d a s
  | .opSin e d a => Sys2Proof.Machine.execSin e d a s
  | .opCos e d a => Sys2Proof.Machine.execCos e d a s
  | .opRint e d a => Sys2Proof.Machine.execRint e d a s
  | .opClz e d a => Sys2Proof.Machine.execClz e d a s
  | .opPopc e d a => Sys2Proof.Machine.execPopc e d a s
  | .opBrev e d a => Sys2Proof.Machine.execBrev e d a s
  | .opClass e d a => Sys2Proof.Machine.execClass e d a s
  | .opCvt e d a t => Sys2Proof.Machine.execCvt e d a t s
  | .opCvtb e d a => Sys2Proof.Machine.execCvtb e d a s
  | .opCvtbGiven e d a => Sys2Proof.Machine.execCvtbGiven e d a s
  | .opUnpb e d a => Sys2Proof.Machine.execUnpb e d a s
  | .opBfe e x y z => Sys2Proof.Machine.execBfe e x y z s
  | .opBfi e x y z => Sys2Proof.Machine.execBfi e x y z s
  | .opShfl e d a b => Sys2Proof.Machine.execShfl e d a b s
  | .opShfx e d a b => Sys2Proof.Machine.execShfx e d a b s
  | .opShup e d a b => Sys2Proof.Machine.execShup e d a b s
  | .opShdn e d a b => Sys2Proof.Machine.execShdn e d a b s
  | .opVany e d a => Sys2Proof.Machine.execVany e d a s
  | .opVall e d a => Sys2Proof.Machine.execVall e d a s
  | .opVuni e d a => Sys2Proof.Machine.execVuni e d a s
  | .opVbal e d a => Sys2Proof.Machine.execVbal e d a s
  | .opGsum e d a => Sys2Proof.Machine.execGsum e d a s
  | .opGmin e d a => Sys2Proof.Machine.execGmin e d a s
  | .opGmax e d a => Sys2Proof.Machine.execGmax e d a s
  | .opGscan e d a => Sys2Proof.Machine.execGscan e d a s
  | .opPand e x y b => Sys2Proof.Machine.execPand e x y b s
  | .opPor e x y b => Sys2Proof.Machine.execPor e x y b s
  | .opPxor e x y b => Sys2Proof.Machine.execPxor e x y b s
  | .opPnot e x y => Sys2Proof.Machine.execPnot e x y s
  | .opPset e d a => Sys2Proof.Machine.execPset e d a s
  | .opPsetFirst e d a => Sys2Proof.Machine.execPsetFirst e d a s
  | .opPsetNz e d a => Sys2Proof.Machine.execPsetNz e d a s
  | .opPcnt e d a => Sys2Proof.Machine.execPcnt e d a s
  | .opSadd e d a b => Sys2Proof.Machine.execSadd e d a b s
  | .opSsub e d a b => Sys2Proof.Machine.execSsub e d a b s
  | .opSmul e d a b => Sys2Proof.Machine.execSmul e d a b s
  | .opSand e d a b => Sys2Proof.Machine.execSand e d a b s
  | .opSor e d a b => Sys2Proof.Machine.execSor e d a b s
  | .opSxor e d a b => Sys2Proof.Machine.execSxor e d a b s
  | .opSshl e d a b => Sys2Proof.Machine.execSshl e d a b s
  | .opSshr e d a b => Sys2Proof.Machine.execSshr e d a b s
  | .opSmin e d a b => Sys2Proof.Machine.execSmin e d a b s
  | .opSmax e d a b => Sys2Proof.Machine.execSmax e d a b s
  | .opSmov e d a => Sys2Proof.Machine.execSmov e d a s
  | .opScmp e c p a b => Sys2Proof.Machine.execScmp e c p a b s
  | .opSli e d imm => Sys2Proof.Machine.execSli e d imm s
  | .opSlh e d imm => Sys2Proof.Machine.execSlh e d imm s
  | .opSld e d a r h => Sys2Proof.Machine.execSld e d a r h s
  | .opSst e d a r h => Sys2Proof.Machine.execSst e d a r h s
  | .opLd e d a r h => Sys2Proof.Machine.execLd e d a r h s
  | .opSt e d a r h => Sys2Proof.Machine.execSt e d a r h s
  | .opLda e d a r h => Sys2Proof.Machine.execLda e d a r h s
  | .opStl e d a r h => Sys2Proof.Machine.execStl e d a r h s
  | .opLds e d a r => Sys2Proof.Machine.execLds e d a r s
  | .opSts e d a r => Sys2Proof.Machine.execSts e d a r s
  | .opLdacc e x y z => Sys2Proof.Machine.execLdacc e x y z s
  | .opStacc e x y z => Sys2Proof.Machine.execStacc e x y z s
  | .opPref e a r h => Sys2Proof.Machine.execPref e a r h s
  | .opTagq e d a => Sys2Proof.Machine.execTagq e d a s
  | .opTagw e d a => Sys2Proof.Machine.execTagw e d a s
  | .opTagx e d a => Sys2Proof.Machine.execTagx e d a s
  | .opFence e h => Sys2Proof.Machine.execFence e h s
  | .opWaitc e c n => Sys2Proof.Machine.execWaitc e c n s
  | .opWaitg e => Sys2Proof.Machine.execWaitg e s
  | .opAtom e d a o r => Sys2Proof.Machine.execAtom e d a o r s
  | .opRed e d a o r => Sys2Proof.Machine.execRed e d a o r s
  | .opCas e d a r => Sys2Proof.Machine.execCas e d a r s
  | .opCas128 e d a r => Sys2Proof.Machine.execCas128 e d a r s
  | .opAtom2 e d a o r => Sys2Proof.Machine.execAtom2 e d a o r s
  | .opRedh e d a t r => Sys2Proof.Machine.execRedh e d a t r s
  | .opMwait e d a c => Sys2Proof.Machine.execMwait e d a c s
  | .opLock e n o => Sys2Proof.Machine.execLock e n o s
  | .opUnlk e n => Sys2Proof.Machine.execUnlk e n s
  | .opBara e imm n => Sys2Proof.Machine.execBara e imm n s
  | .opBarw e imm => Sys2Proof.Machine.execBarw e imm s
  | .opBars e imm n => Sys2Proof.Machine.execBars e imm n s
  | .opHbar e h => Sys2Proof.Machine.execHbar e h s
  | .opBnew e x y => Sys2Proof.Machine.execBnew e x y s
  | .opBdel e y => Sys2Proof.Machine.execBdel e y s
  | .opBoa e x y => Sys2Proof.Machine.execBoa e x y s
  | .opBow e x y => Sys2Proof.Machine.execBow e x y s
  | .opPost e x y z => Sys2Proof.Machine.execPost e x y z s
  | .opBra p o => Sys2Proof.Machine.execBra p o s
  | .opBrd p t j => Sys2Proof.Machine.execBrd p t j s
  | .opBrx a => Sys2Proof.Machine.execBrx a s
  | .opCall p o => Sys2Proof.Machine.execCall p o s
  | .opRet p => Sys2Proof.Machine.execRet p s
  | .opDisp a => Sys2Proof.Machine.execDisp a s
  | .opWld e n b => Sys2Proof.Machine.execWld e n b s
  | .opMstr e n b => Sys2Proof.Machine.execMstr e n b s
  | .opMfence e d => Sys2Proof.Machine.execMfence e d s
  | .opMwaitb e n => Sys2Proof.Machine.execMwaitb e n s
  | .opMdrn e n => Sys2Proof.Machine.execMdrn e n s
  | .opMclr e r c => Sys2Proof.Machine.execMclr e r c s
  | .opMwin e g b l => Sys2Proof.Machine.execMwin e g b l s
  | .opCpy e x y => Sys2Proof.Machine.execCpy e x y s
  | .opCpy2d e x y => Sys2Proof.Machine.execCpy2d e x y s
  | .opCpyw e x => Sys2Proof.Machine.execCpyw e x s
  | .opCnta e x y => Sys2Proof.Machine.execCnta e x y s
  | .opCntw e x y => Sys2Proof.Machine.execCntw e x y s
  | .evSlotArbitration core slot => Sys2Proof.Machine.execSlotArbitration core slot s
  | .evBellwetherIssue core => Sys2Proof.Machine.execBellwetherIssue core s
  | .evLoadDataArrival p op => Sys2Proof.Machine.execLoadDataArrival p op s
  | .evStoreCompletion p op => Sys2Proof.Machine.execStoreCompletion p op s
  | .evWaitSatisfied p => Sys2Proof.Machine.execWaitSatisfied p s
  | .evHeldWritePerform line => Sys2Proof.Machine.execHeldWritePerform line s
  | .evRevocation core line => Sys2Proof.Machine.execRevocation core line s
  | .evTileLoaded blk op => Sys2Proof.Machine.execTileLoaded blk op s
  | .evBankReload blk op => Sys2Proof.Machine.execBankReload blk op s
  | .evStreamRow blk op => Sys2Proof.Machine.execStreamRow blk op s
  | .evDrainTile blk op => Sys2Proof.Machine.execDrainTile blk op s
  | .evBatchRetire blk => Sys2Proof.Machine.execBatchRetire blk s
  | .evEngineFault blk op code addr write => Sys2Proof.Machine.execEngineFault blk op code addr write s
  | .evCopyLine blk idx => Sys2Proof.Machine.execCopyLine blk idx s
  | .evCopyCompletion blk => Sys2Proof.Machine.execCopyCompletion blk s
  | .evLockGrant die num => Sys2Proof.Machine.execLockGrant die num s
  | .evHbarCompletion msg => Sys2Proof.Machine.execHbarCompletion msg s
  | .evBlockDispatch ctx => Sys2Proof.Machine.execBlockDispatch ctx s
  | .evSwapOut grid => Sys2Proof.Machine.execSwapOut grid s
  | .evSwapReturn blk => Sys2Proof.Machine.execSwapReturn blk s
  | .evBlockEnd blk => Sys2Proof.Machine.execBlockEnd blk s
  | .evGridComplete grid => Sys2Proof.Machine.execGridComplete grid s
  | .evGraphComplete grid => Sys2Proof.Machine.execGraphComplete grid s
  | .evNodeReplace ctx node => Sys2Proof.Machine.execNodeReplace ctx node s
  | .evGatherTimeout ctx node die => Sys2Proof.Machine.execGatherTimeout ctx node die s
  | .evSpillReturn ctx node die => Sys2Proof.Machine.execSpillReturn ctx node die s
  | .evDoorbell fn v => Sys2Proof.Machine.execDoorbell fn v s
  | .evReadAndMark latch => Sys2Proof.Machine.execReadAndMark latch s
  | .evFlushq fn v => Sys2Proof.Machine.execFlushq fn v s
  | .evDrops fn => Sys2Proof.Machine.execDrops fn s
  | .evRegisterWrite m r v => Sys2Proof.Machine.execRegisterWrite m r v s
  | .evNopPacket q => Sys2Proof.Machine.execNopPacket q s
  | .evLaunch q => Sys2Proof.Machine.execLaunch q s
  | .evGraph q => Sys2Proof.Machine.execGraph q s
  | .evNode q => Sys2Proof.Machine.execNode q s
  | .evLoad q => Sys2Proof.Machine.execLoad q s
  | .evWaitcnt q => Sys2Proof.Machine.execWaitcnt q s
  | .evCut q => Sys2Proof.Machine.execCut q s
  | .evStop q => Sys2Proof.Machine.execStop q s
  | .evResume q => Sys2Proof.Machine.execResume q s
  | .evRegion q others => Sys2Proof.Machine.execRegion q others s
  | .evInval q => Sys2Proof.Machine.execInval q s
  | .evHeapq q => Sys2Proof.Machine.execHeapq q s
  | .evPatchBundle m bundle => Sys2Proof.Machine.execPatchBundle m bundle s
  | .evStopRequest ctx cause => Sys2Proof.Machine.execStopRequest ctx cause s
  | .evClosure ctx => Sys2Proof.Machine.execClosure ctx s
  | .evCheckpointInterval ctx => Sys2Proof.Machine.execCheckpointInterval ctx s
  | .evCutTimePassed ctx core => Sys2Proof.Machine.execCutTimePassed ctx core s
  | .evCheckpointStream ctx => Sys2Proof.Machine.execCheckpointStream ctx s
  | .evSnatch ctx item sub => Sys2Proof.Machine.execSnatch ctx item sub s
  | .evIncrementCommit ctx => Sys2Proof.Machine.execIncrementCommit ctx s
  | .evRollback ctx => Sys2Proof.Machine.execRollback ctx s
  | .evSavecostUpdate ctx => Sys2Proof.Machine.execSavecostUpdate ctx s
  | .evComparePoint blk => Sys2Proof.Machine.execComparePoint blk s
  | .evThirdRun blk => Sys2Proof.Machine.execThirdRun blk s
  | .evPageResponse fn idx code => Sys2Proof.Machine.execPageResponse fn idx code s
  | .evPageRequestTimeout fn req => Sys2Proof.Machine.execPageRequestTimeout fn req s
  | .evAtsInvalidate fn pasid base len all => Sys2Proof.Machine.execAtsInvalidate fn pasid base len all s
  | .evParityRebuild arr g => Sys2Proof.Machine.execParityRebuild arr g s
  | .evScrub arr g => Sys2Proof.Machine.execScrub arr g s
  | .evDataCheckFailure line hop failures => Sys2Proof.Machine.execDataCheckFailure line hop failures s
  | .evArrayRowFailure core row => Sys2Proof.Machine.execArrayRowFailure core row s
  | .evFwds line requester terms => Sys2Proof.Machine.execFwds line requester terms s
  | .evFwdx line supply => Sys2Proof.Machine.execFwdx line supply s
  | .evHomedata line requester terms st => Sys2Proof.Machine.execHomedata line requester terms st s
  | .evGrant line invs lend floor => Sys2Proof.Machine.execGrant line invs lend floor s
  | .evData line bytes st leaseEnd invs lend floor code => Sys2Proof.Machine.execData line bytes st leaseEnd invs lend floor code s
  | .evInv line msg => Sys2Proof.Machine.execInv line msg s
  | .evAck line ack => Sys2Proof.Machine.execAck line ack s
  | .evRecall msg => Sys2Proof.Machine.execRecall msg s
  | .evHcoll line msg => Sys2Proof.Machine.execHcoll line msg s
  | .evLrevoke msg => Sys2Proof.Machine.execLrevoke msg s
  | .evWait line => Sys2Proof.Machine.execWait line s
  | .evWaitRetry line => Sys2Proof.Machine.execWaitRetry line s
  | .evStalemap line version => Sys2Proof.Machine.execStalemap line version s
  | .evDirmapAdopt version changes failed => Sys2Proof.Machine.execDirmapAdopt version changes failed s
  | .evFabricLeaseExpiry line => Sys2Proof.Machine.execFabricLeaseExpiry line s
  | .evMergeApply line tag fold marks => Sys2Proof.Machine.execMergeApply line tag fold marks s
  | .evLostHolderTimeout line pkg => Sys2Proof.Machine.execLostHolderTimeout line pkg s
  | .evTagFailure owner pkt => Sys2Proof.Machine.execTagFailure owner pkt s
  | .evKeyInstall owner link epoch => Sys2Proof.Machine.execKeyInstall owner link epoch s
  | .evFabricTimeout line => Sys2Proof.Machine.execFabricTimeout line s
  | .evHostMemAccess req pa len wr => Sys2Proof.Machine.execHostMemAccess req pa len wr s
  | .evAtomicopCompletion id st old => Sys2Proof.Machine.execAtomicopCompletion id st old s
  | .evFunctionLevelReset fn => Sys2Proof.Machine.execFunctionLevelReset fn s
  | .evTierLinkFailure port => Sys2Proof.Machine.execTierLinkFailure port s
  | .evTierLinkRestore port => Sys2Proof.Machine.execTierLinkRestore port s
  | .evRevoke m win => Sys2Proof.Machine.execRevoke m win s
  | .evRevokeComplete win => Sys2Proof.Machine.execRevokeComplete win s
  | .evClaim m nonce => Sys2Proof.Machine.execClaim m nonce s
  | .evHandover m succ => Sys2Proof.Machine.execHandover m succ s
  | .evAccept m => Sys2Proof.Machine.execAccept m s
  | .evNegotiateAlgorithms asym hash => Sys2Proof.Machine.execNegotiateAlgorithms asym hash s
  | .evGetCertificate slot off len => Sys2Proof.Machine.execGetCertificate slot off len s
  | .evChallenge nonce => Sys2Proof.Machine.execChallenge nonce s
  | .evGetMeasurements block => Sys2Proof.Machine.execGetMeasurements block s
  | .evBoot fw link cfg => Sys2Proof.Machine.execBoot fw link cfg s
  | .evPowerLimit on => Sys2Proof.Machine.execPowerLimit on s
  | .evReservedEncoding w => Sys2Proof.Machine.execReservedEncoding w s
  | .evRevisionMove ctx target featmask => Sys2Proof.Machine.execRevisionMove ctx target featmask s
  | .evCxlCacheSnoop sector after => Sys2Proof.Machine.execCxlCacheSnoop sector after s
  | .evCompletionTimeout id => Sys2Proof.Machine.execCompletionTimeout id s
  | .evPriReenable fn => Sys2Proof.Machine.execPriReenable fn s
  | .evPageRequestAllocation fn n => Sys2Proof.Machine.execPageRequestAllocation fn n s
  | .evIeee1588Sync t => Sys2Proof.Machine.execIeee1588Sync t s
  | .evPodFormation pkg owner leaseF epoch => Sys2Proof.Machine.execPodFormation pkg owner leaseF epoch s
  | .evWback line data => Sys2Proof.Machine.execWback line data s
  | .evFabricRequest owner requester pa k => Sys2Proof.Machine.execFabricRequest owner requester pa k s
  | .evCensusPoison msg => Sys2Proof.Machine.execCensusPoison msg s
  | .opExit => Sys2Proof.Machine.execExit s
  | .opDone => Sys2Proof.Machine.execDone s
  | .evSequencerRestart => Sys2Proof.Machine.execSequencerRestart s
  | .evElectionEnd => Sys2Proof.Machine.execElectionEnd s
  | .evHandoverTimeout => Sys2Proof.Machine.execHandoverTimeout s
  | .evOwnerSilence => Sys2Proof.Machine.execOwnerSilence s
  | .evGetVersion => Sys2Proof.Machine.execGetVersion s
  | .evGetCapabilities => Sys2Proof.Machine.execGetCapabilities s
  | .evGetDigests => Sys2Proof.Machine.execGetDigests s
  | .evDeviceReset => Sys2Proof.Machine.execDeviceReset s

end Sys2Proof.Machine
end

