-- ==== Sys2Proof/Machine/Fetch.lean ====
section
/-! DEFINITION. The issue of a word (R20, R81, R84 to R86, R90, R215, R306): its fetch, the registers it must not touch before their
data have arrived, the deferred faults it delivers, and where a word is put so that the next step runs it. -/

namespace Sys2Proof.Machine

open Sys2Proof

/-! ## What stands before the issue of a word -/

/-- R102, R221, R291: the page that a brand map needs before a word that ends a run may judge it. -/
def brandPage (s : State) (v : View) : State × Option Wait :=
  match ctxOf s v.b with
  | none => (s, none)
  | some c =>
    match brandFind s (.instr v.b.core) c v.ctl.runStart with
    | (s, .error (.hold w)) => (s, some w)
    | (s, .error (.need st2 page wr absent)) =>
      (match needCode v.ctl.outcomes st2 page wr absent with
      | some _ => (s, none)
      | none =>
        match pageRequest s c.fn c.pasid st2 page wr with
        | (s, some id) => (s, some (.page [id]))
        | (s, none) => (s, none))
    | (s, _) => (s, none)

/-- R229, R291: whether a word may end a run. -/
def endsRun (i : Instr) (w : W32) : Bool := w.getLsbD 31 || (match i with | .opRte _ => true | _ => false)

/-- R306: the lanes whose registers a word may read: those in ACTIVE; every lane for a shuffle, whose sources are its readers' choice, and
for a block-format word its own. -/
def lanesRead (v : View) (i : Instr) : W32 :=
  match i with
  | .opShfl .. | .opShfx .. | .opShup .. | .opShdn .. => 0xFFFFFFFF#32
  | .opUnpb .. => 0x1F#32
  | .opCvtbGiven .. => v.active ||| 0x10#32
  | .opSel .. => v.live
  | _ => v.active

/-- R86, R90, R306: what stands before the issue of a fetched word: the wait for data, a deferred fault that it delivers, or the
page of a brand map; none when it may issue. A path parks for a load that has missed in its home slice; for another result it stalls. -/
def holdWord (s : State) (v : View) (i : Instr) (w : W32) : State × Option State :=
  match awaited v i with
  | some o => (s, some (park s v.p (if missed s o then .load o.id else .data o.id)))
  | none =>
    let reads := if v.suppressed then [] else (operands v i).1
    match takeDeferred s v (fun d => reads.any (fun f => touches v f d.dst) && (d.lanes == 0 || lanesRead v i &&& d.lanes != 0)) with
    | some (s, x) => (s, some (raise s v x))
    | none =>
      if v.isBell || !endsRun i w then (s, none)
      else
        match brandPage s v with
        | (s, some k) => (s, some (park s v.p k))
        | (s, none) => (s, none)

/-- What the issue of the party that holds the core comes to: the instruction to run, or the state when none runs. -/
inductive Issued where
  | run (i : Instr) (s : State)
  | stay (s : State)

/-- R20, R85, R86: the word of a party fetched and, when nothing holds it, handed over for its effect. -/
def issueParty (s : State) (p : Party) : Issued :=
  match s.view p with
  | none => .stay { s with cur := none }
  | some v =>
    if !blockRuns s v.b || v.ctl.ended then .stay { s with cur := none }
    else
      match fetchWord s v with
      | .error s => .stay s
      | .ok (s, w) =>
        match holdWord s v (decode w) w with
        | (_, some s) => .stay s
        | (s, none) => .run (decode w) s

/-! ## Which unit issues next (R20, R85) -/

/-- The issue units with a ready candidate: core × 9 + slot, 8 for the bellwether pipeline; a slot that a stalled run keeps has that run's
path alone. -/
def readyUnits (s : State) : List Nat :=
  let kept (u : Nat) : Bool := u % 9 == 8 || !(slotPaths s (u / 9) (u % 9)).any (fun x => x.1.keep) || !(slotReady s (u / 9) (u % 9)).isEmpty
  List.filter kept ((s.blocks.zipIdx).map (fun (b, k) =>
    if !blockRuns s b then []
    else
      (if !b.bell.ctl.ended && b.bell.ctl.wait == .ready then [b.core * 9 + 8] else []) ++
      ((b.groups.zipIdx).filter (fun (x : Group × Nat) => !x.1.retired && (livePaths x.1).any (fun sec =>
        (x.1.path sec).ctl.wait == .ready && (startsAwaiting s { blk := k, who := .path x.2 sec }).isNone))).map
        (fun x => b.core * 9 + x.2 % 8))).flatten

/-- The next unit in turn, of 128 cores with 9 each. -/
def nextUnit (s : State) : Option Nat :=
  (readyUnits s).foldl (fun (h : Option Nat) u =>
    let far (x : Nat) : Nat := (x + 1152 - s.unit % 1152) % 1152
    match h with
    | none => some u
    | some x => if far u < far x then some u else some x) none

/-- The event of a unit's arbitration. -/
def unitEvent (u : Nat) : Instr := if u % 9 == 8 then .evBellwetherIssue (u / 9) else .evSlotArbitration (u / 9) (u % 9)

/-! ## A word placed for the next step -/

/-- R216: a page-table or leaf entry: V, A and D set with more bits. -/
def tableWord (oa bits : Nat) : List Byte := leBytes 8 (oa + 0x61 + bits)

/-- The physical base of a package's local memory. -/
def localBase (s : State) : Nat := s.fabric.pkg * 2 ^ 46

/-- R216, R291: the tables of the placed context: its first GiB mapped to the first GiB of HBM, readable, writable and executable; its
brand map, with one range of one word. -/
def placedTables (s : State) (w : W32) : List Host.Cell :=
  let base := localBase s
  let m := cellsWrite s.mem.cells (base + 0x1000) (tableWord (base + 0x2000) 2)
  let m := cellsWrite m (base + 0x2000) (tableWord (base + 0x3000) 2)
  let m := cellsWrite m (base + 0x3000) (tableWord base 0x1C)
  let m := cellsWrite m (base + 0x20000) (leBytes 8 1)
  let m := cellsWrite m (base + 0x20020) (leBytes 8 0x10000 ++ leBytes 4 4 ++ leBytes 4 1 ++ leBytes 8 0x21000)
  let m := cellsWrite m (base + 0x21000) (leBytes 4 0 ++ leBytes 4 (crcWord 0xFFFFFFFF#32 w).toNat)
  cellsWrite m (base + 0x10000) (bytesOfWord w)

/-- The descriptor of the placed context. -/
def placedDesc (s : State) : CtxDesc :=
  { s1root := localBase s + 0x1000, lease := 256, ckptms := 0, cores := 0xFF#128, lkbase := 0x30000, lklim := 64, slottag := 0,
    statusrec := 0x40000, swap := (0x50000, 0x10000), spillheap := (0x60000, 0x10000), staging := 0x70000, pairarea := 0x80000, chain := 0,
    cset := [], errlog := 0x90000, lkphys := Vector.replicate 4 0, botable := 0xA0000, brmap := 0x20000 }

/-- The resources of the placed block. -/
def placedDecl : Decl :=
  { groups := 1, vregs := 128, sregs := 32, scratch := 0x10000, acc := 128, barriers := 16, channels := 16, chanMask := 0xFF00#16,
    access := 1, spill := 4096, idem := false, paired := false, node := false, recSize := 4, bellEntry := 0x10000,
    groupEntry := 0x10000, dispatch := 0 }

/-- The grid of the placed block. -/
def placedGrid (ci : Nat) : Grid :=
  { ctx := ci, dimX := 1, dimY := 1, dimZ := 1, cluster := 1, decl := placedDecl, h := Vector.replicate 8 0, spillN := 1,
    spillBase := 0xB0000, next := 1, redo := [], phase := 0, arrived := [], told := none, node := none, formed := [], pkt := none, graph := false,
    complete := false, drain := none, seq := 0, moved := false }

/-- A context with one block at the start of its first run, on core 0, whose first word is `w`; the party that may run the word holds
the issue. -/
def placeProgram (s : State) (w : W32) : State :=
  let ci := s.ctxs.length
  let gi := s.grids.length
  let blk := s.blocks.length
  let g := placedGrid ci
  let c := Ctx.start 0 0x1000 s.ft (placedDesc s)
  let bell := (opStreams w == some .b) || (opStreams w == some .ba)
  { s with
    mem := { s.mem with cells := placedTables s w }
    ctxs := s.ctxs ++ [c]
    grids := s.grids ++ [g]
    blocks := s.blocks ++ [Block.start s ci gi 0 0 0 g [] none]
    cur := some { blk := blk, who := if bell then .bell else .path 0 false }
    engineTurn := false }

/-- The physical address of the word that the next step fetches, when a party holds the issue and its fetch goes through. -/
def nextFetchPa (s : State) : Option Nat :=
  match s.cur with
  | none => none
  | some p =>
    match s.view p with
    | none => none
    | some v =>
      if s.engineTurn || !blockRuns s v.b || v.ctl.ended || v.ctl.pc.toNat % 4 != 0 then none
      else
        match xlateOne s v v.ctl.pc .fetch with
        | .ok (t, l) => if onFabric t l.pa || region t l.pa == .host then none else some l.pa
        | .error _ => none

/-- A word stored where the next step fetches: at the PC of the party that holds the issue, or, when none does, as the first word of a
program placed for it. -/
def placeWord (s : State) (w : W32) : State :=
  match nextFetchPa s with
  | some pa => s.modMem (fun m => { m with cells := cellsWrite m.cells pa (bytesOfWord w) })
  | none => placeProgram s w

end Sys2Proof.Machine
end

