-- ==== Sys2Proof/Machine/Internal.lean ====
section
/-! DEFINITION. What the device's own engines may do next: the events whose conditions hold in a state, from which a step takes one
(notes/assumptions 2). An outside stimulus is none of them: those stand in the inbox. -/

namespace Sys2Proof.Machine

open Sys2Proof

/-! ## Streams and their operations (R90, R91, R173, R176) -/

/-- R91: the waiting parties of a block whose conditions hold. -/
def dueWaits (s : State) (x : Block × Nat) : List Instr :=
  if !blockRuns s x.1 then []
  else
    (partiesOf x.1 x.2).filterMap (fun p =>
      match s.view p with
      | some v => if !v.ctl.ended && v.ctl.wait != .ready && s.cur != some p && (waitHolds s v || (bowAsks s v).isSome) then
        some (.evWaitSatisfied p) else none
      | none => none)

/-- R90, R176: the arrivals and completions that a party's operations await. -/
def dueOps (s : State) (p : Party) (ops : List OutOp) : List Instr :=
  ops.filterMap (fun o =>
    if !o.pending.isEmpty then some (.evLoadDataArrival p o.id)
    else if opPerformed s o || s.mem.writes.any (fun w => w.op == o.id && writeMay s w) then some (.evStoreCompletion p o.id)
    else none)

/-- R221, R252: the writes of the device's own that have waited. -/
def dueDevice (s : State) : List Instr := if devDue s then [.evStoreCompletion { blk := 0, who := .bell } s.nextId] else []

/-- R90, R176: those of a block. -/
def dueBlockOps (s : State) (x : Block × Nat) : List Instr :=
  dueOps s { blk := x.2, who := .bell } x.1.bell.ops ++
    ((x.1.groups.zipIdx).map (fun (y : Group × Nat) => dueOps s { blk := x.2, who := .path y.2 false } y.1.ops)).flatten

/-- R90, R173: the queued reads that may be performed. -/
def dueReads (s : State) : List Instr :=
  (s.mem.reads.filter (readMay s)).map (fun r => .evLoadDataArrival r.party r.op)

/-- R173: held synchronisation writes: revocations, and writes that nothing holds back. -/
def dueHeld (s : State) : List Instr :=
  (s.mem.held.map (fun h => h.acks.map (fun c => Instr.evRevocation c h.line))).flatten ++
    (s.mem.held.filter (fun h => !h.lanes.isEmpty && lineFirst s h.line h.seq && syncReady s (h.line * 128) &&
      !h.lanes.any (fun r => regionBars s (partyCtx s h.party) r.va))).map (fun h => .evHeldWritePerform h.line)

/-- R155, R157: locks that a resume has still to bind, and free locks that are asked for. -/
def dueLocks (s : State) : List Instr :=
  (if s.ctxs.any (fun c => !c.rebind.isEmpty) then [.evLockGrant 0 0] else []) ++
  (s.mem.locks.filter (fun l => l.holder.isNone && !l.queue.isEmpty)).map (fun l => .evLockGrant l.die l.num)

/-! ## Engines (R128, R131, R141, R162) -/

/-- R131: the events of the matrix operations of a block. -/
def dueMops (s : State) (x : Block × Nat) : List Instr :=
  if !x.1.reload.isEmpty then
    (if blockRuns s x.1 && x.1.reload.all (fun r => r.req.isNone) then [.evBankReload x.2 0] else [])
  else if x.1.mops.isEmpty && x.1.retired == x.1.bell.mbatch then []
  else
    (x.1.mops.map (fun o =>
      if o.performed || o.req.isSome || (engOp s x.2 o.id).isNone then []
      else
        match o.kind with
        | .wld .. => [Instr.evTileLoaded x.2 o.id]
        | .mstr .. => [.evBankReload x.2 o.id, .evStreamRow x.2 o.id]
        | .mdrn .. => [.evDrainTile x.2 o.id]
        | .mclr .. => [])).flatten ++ [.evBatchRetire x.2]

/-- R162: the copies that the Mule works on, and the completion of the oldest. -/
def dueCopies (s : State) (x : Block × Nat) : List Instr :=
  ((x.1.copies.take 4).filter (fun c => (muleEntry s x.2 c.idx).isSome)).map (fun c => .evCopyLine x.2 c.idx) ++
    (match x.1.copies with
    | c :: _ => if c.done && decide (c.g < s.ft) && c.req.isNone then [.evCopyCompletion x.2] else []
    | [] => [])

/-! ## Blocks, grids and nodes (R46 to R57, R264 to R268, R286, R287) -/

/-- R54, R57, R266, R268: the events of a block. -/
def dueBlock (s : State) (x : Block × Nat) : List Instr :=
  (if swapReady s x || !(swapAsks s x).isEmpty then [.evSwapReturn x.2] else []) ++
    (if blockFinished s x.1 x.2 && (pairPassed x.1 || !x.1.locks.all HeldLock.written) then [.evBlockEnd x.2] else []) ++
    (match x.1.pair with
    | some p => if p.primary && x.1.stat == .resident then [.evComparePoint x.2, .evThirdRun x.2] else []
    | none => [])

/-- R34, R49, R55, R57, R287: the events of a grid. -/
def dueGrid (s : State) (x : Grid × Nat) : List Instr :=
  (if x.1.arrived.isEmpty || (x.1.told == some x.1.phase && !linkShut s (ownerOf s x.1.ctx) .barriers) then [] else
    [.evHbarCompletion { grid := x.2, pod := false }]) ++
    (if x.1.complete || allDispatched x.1 then [] else [.evBlockDispatch x.1.ctx]) ++
    (if x.1.complete then [] else [.evSwapOut x.2]) ++
    (if !x.1.complete && x.1.node.isNone && allDispatched x.1 && gridDrained s x.2 then [.evGridComplete x.2] else []) ++
    (if x.1.graph && x.1.complete && (x.1.pkt.bind (pktOf s)).isSome then [.evGraphComplete x.2] else [])

/-- R286, R287: the events of nodes and gatherers. -/
def dueNodes (s : State) : List Instr :=
  (s.fe.nodes.filter (fun n => n.replace.isSome && !s.fe.restart)).map (fun n => .evNodeReplace n.ctx n.index) ++
    ((s.fe.gathers.filter (fun g => !g.recs.isEmpty || !g.spilled.isEmpty)).map (fun g => Instr.evGatherTimeout g.ctx g.node g.die)) ++
    ((s.fe.gathers.filter (fun g => !g.spilled.isEmpty)).map (fun g => Instr.evSpillReturn g.ctx g.node g.die))

/-! ## Contexts (R242 to R258) -/

/-- R252: the item of a context's streaming increment that a held write has waited for longest. -/
def dueSnatches (s : State) (ci : Nat) (c : Ctx) : List Instr :=
  match streaming c with
  | none => []
  | some inc =>
    match (snatchPiece inc).map Piece.what with
    | some (.item i sub) => if tierUp s c then [.evSnatch ci i sub] else []
    | _ => []

/-- R245, R246: the next core that a cut stops. -/
def cutCore (s : State) (c : Ctx) : Option Nat :=
  match c.cutTime, c.cutCores with
  | some t, _ => if c.state == .running && decide (t < s.ft) then (List.range 128).find? (fun k => c.desc.cores.getLsbD k) else none
  | none, k :: _ => some k
  | none, [] => none

/-- R244, R247: whether the closure of a stop or of a cut has anything to do. -/
def closureDue (s : State) (ci : Nat) (c : Ctx) : Bool :=
  match closing c with
  | some inc => (closureReady s ci c inc.below && inc.recalls.all (fun l => !s.mem.fabricBits.contains l)) || !backsDone s inc.unlks
  | none => c.state == .stopping && c.cause != some .cut && c.cause != some .preempt && (closureReady s ci c s.nextId || !(backsOf s ci).isEmpty) &&
      (c.cause != some .coreDisabled || !c.cutWant || (evacCut s ci c).isSome)

/-- R240, R242, R245, R251, R253, R257: the events of a context. -/
def dueCtx (s : State) (x : Ctx × Nat) : List Instr :=
  let c := x.1
  (if closureDue s x.2 c then [.evClosure x.2] else []) ++
    (if c.nextCkpt != 0 && decide (c.nextCkpt ≤ s.ft) && c.state == .running then [.evCheckpointInterval x.2] else []) ++
    (match cutCore s c with | some k => [.evCutTimePassed x.2 k] | none => []) ++
    (match streaming c with
    | some inc =>
      if !tierUp s c then [] else if inc.pieces.isEmpty then [.evIncrementCommit x.2]
      else if (nextPiece s (chainPort s c)).map Prod.fst == some x.2 then [.evCheckpointStream x.2] else []
    | none => []) ++
    dueSnatches s x.2 c ++
    (if (c.state == .stopped || c.state == .resuming) && c.cause == some .rollback then [.evRollback x.2] else []) ++
    (if c.state == .running && s.blocks.any (fun b => b.ctx == x.2 && b.stat == .resident &&
        (match s.cores[b.core]? with | some k => !k.enabled | none => true)) then [.evStopRequest x.2 .coreDisabled] else [])

/-! ## The front end (R273, R278 to R281) -/

/-- R281: the event of a packet by its type. -/
def pktEventOf (q : PktRef) (t : Nat) : Instr :=
  match t with
  | 1 => .evLaunch q
  | 2 => .evGraph q
  | 3 => .evNode q
  | 4 => .evLoad q
  | 5 => .evWaitcnt q
  | 6 => .evCut q
  | 7 => .evStop q
  | 8 => .evResume q
  | 9 => .evRegion q []
  | 10 => .evInval q
  | 11 => .evHeapq q
  | _ => .evNopPacket q

/-- R278, R494: the event that starts the packet at a queue's HEAD, with the queue's priority; none when it may not start. In a pod a
REGION packet to hardware-coherent starts by a stimulus, which brings what the other packages' caches hold dirty (R190). -/
def headEvent (s : State) (x : Queue) : Option (Nat × Instr) :=
  match s.ctxs[x.ctx]? with
  | none => none
  | some c =>
    if !queueOpen s c x then none
    else
      let q : PktRef := { ctx := x.ctx, queue := x.queue, slot := x.head.toNat }
      match packetAt s c x x.head.toNat (x.tail - x.head).toNat with
      | (_, .ok none) => none
      | (t, .error none) => if ((queueOf t x.ctx x.queue).bind Queue.req).isSome then some (x.prio, .evNopPacket q) else none
      | (_, .error (some _)) => some (x.prio, .evNopPacket q)
      | (_, .ok (some p)) =>
        let t := pktType p.body
        if !mayStart x p || (t == 9 && s.fabric.inPod && pktNat p.body 32 1 == 1) then none
        else some (x.prio, pktEventOf q t)

/-- R278: how far a queue stands behind the one that had the sequencer's last turn. -/
def turnsBehind (s : State) (x : Queue) : Nat :=
  let key (a : Nat × Nat) : Nat := a.1 * 256 + a.2
  let d := key (x.ctx, x.queue)
  let last := key s.fe.turn
  if last < d then d - last else d + (s.ctxs.length + 1) * 256 - last

/-- R278: the packet that the sequencer starts next: of the highest priority, and among equals of the queue whose turn it is. -/
def dueHeads (s : State) : List Instr :=
  let l := s.fe.queues.filterMap (fun x => (headEvent s x).map (fun e => (e.1, turnsBehind s x, e.2)))
  (l.foldl (fun (h : Option (Nat × Nat × Instr)) x =>
    match h with
    | none => some x
    | some y => if y.1 < x.1 || (x.1 == y.1 && x.2.1 < y.2.1) then some x else some y) none).toList.map (fun x => x.2.2)

/-- R278: packets started and not complete, but for launches whose grid is made and slots that stand for what cannot be read. -/
def dueStarted (s : State) : List Instr :=
  (s.fe.queues.map (fun x => (x.started.filter (fun p => !p.complete)).filterMap (fun p =>
    let q : PktRef := { ctx := x.ctx, queue := x.queue, slot := p.slot }
    if gridMade s q || p.len == 0 then none else some (pktEventOf q (pktType p.body))))).flatten

/-- R280: the latches that the sequencer has to read. -/
def dueLatches (s : State) : List Instr :=
  ((s.fe.latches.zipIdx).filter (fun x => (!x.1.recorded || x.1.tail != x.1.seen) &&
    !queueSuspended s x.1.fn x.1.pasid x.1.queue)).map (fun x => .evReadAndMark x.2)

/-- R273 to R281: the events of the front end. -/
def dueFront (s : State) : List Instr :=
  if s.mgmt.bootfail then []
  else if s.fe.restart then [.evSequencerRestart]
  else (if reloadDue s then [.evSequencerRestart] else []) ++ dueLatches s ++ dueHeads s ++ dueStarted s

/-! ## Memory system, fabric and management (R195, R196, R220, R222, R306, R312, R313) -/

/-- R195, R196, R306: the events of lines shared through the fabric. -/
def dueFabric (s : State) : List Instr :=
  (s.mem.fab.map (fun f =>
    (if f.st == .shared && decide (f.lease ≤ s.ft) then [Instr.evFabricLeaseExpiry f.line] else []) ++
    (if f.req != 0 && f.retryAt != 0 && decide (f.retryAt ≤ s.ft) then [.evWaitRetry f.line] else []) ++
    (if f.req != 0 && f.retryAt == 0 && decide (f.reqAt + 4000000 ≤ s.ft) then [.evFabricTimeout f.line] else []))).flatten ++
  (s.mem.asks.filter (fun a => a.retryAt != 0 && decide (a.retryAt ≤ s.ft))).map (fun a => .evWaitRetry a.line)

/-- R220, R222: invalidations under way, and page requests that have had no answer in time. -/
def duePages (s : State) : List Instr :=
  (s.mem.invals.filter (fun x => x.pkt.isNone && accessesDone s x)).map
    (fun x => .evAtsInvalidate x.fn x.pasid x.base x.len x.all) ++
  (s.mem.pageReqs.filter (fun r => match s.fns[r.fn]? with
    | some f => decide (r.opened + 1000000 * f.prtimeout ≤ s.ft)
    | none => false)).map (fun r => .evPageRequestTimeout r.fn r.id)

/-- R312, R313: the times of management. -/
def dueMgmt (s : State) : List Instr :=
  (if s.mgmt.election.isSome && decide (s.mgmt.electAt + 100000000 ≤ s.ft) then [.evElectionEnd] else []) ++
    (if s.mgmt.succ.isSome && decide (s.mgmt.succAt + 1000000000 ≤ s.ft) then [.evHandoverTimeout] else []) ++
    (if s.mgmt.owner.isSome && decide (s.mgmt.lastCmd + 10000000000 ≤ s.ft) then [.evOwnerSilence] else [])

/-! ## The next event -/

/-- Every event of the device's own engines whose condition holds. -/
def internals (s : State) : List Instr :=
  let bs := (s.blocks.zipIdx).filter (fun x => x.1.stat != .ended)
  ((s.blocks.zipIdx).map (dueBlockOps s)).flatten ++
    (bs.map (fun x => dueWaits s x ++ dueMops s x ++ dueCopies s x ++ dueBlock s x)).flatten ++
    dueReads s ++ dueHeld s ++ dueDevice s ++ dueLocks s ++
    ((s.grids.zipIdx).map (dueGrid s)).flatten ++ dueNodes s ++
    (((s.ctxs.zipIdx).filter (fun x => x.1.state != .discarded)).map (dueCtx s)).flatten ++
    dueFront s ++ dueFabric s ++ duePages s ++ dueMgmt s

/-- The turn among the events that may happen. -/
def pickDue (s : State) : Option Instr :=
  let l := internals s
  l[s.ft / 4 % max l.length 1]?

/-- The event that the device's engines do next: SAVECOST when a context's time for it has come (R258), and otherwise each of those that
may happen in turn. -/
def nextInternal (s : State) : Option Instr :=
  let k := s.ft / 2 % 32768
  match s.ctxs[k]? with
  | some c => if c.state != .discarded then some (.evSavecostUpdate k) else pickDue s
  | none => pickDue s

/-- The outside stimulus that a step takes: the oldest. -/
def takeStimulus (s : State) : Option (Instr × State) :=
  match s.inbox with
  | i :: rest => some (i, { s with inbox := rest })
  | [] => none

/-! ## A step (notes/assumptions 2) -/

/-- R20, R85: the turn of the streams: the word of the party that holds the issue, or the arbitration of the next unit with a ready
candidate. -/
def issueTurn (s : State) : Issued :=
  match s.cur with
  | some p => issueParty s p
  | none =>
    match nextUnit s with
    | some u => .run (unitEvent u) { s with unit := (u + 1) % 1152 }
    | none => .stay s

/-- The turn of the engines and of the outside world, which take it one after the other; when neither has anything to do it passes to
the streams. -/
def engineTurnOf (s : State) : Issued :=
  let stim : Option Issued := (takeStimulus s).map (fun x => .run x.1 x.2)
  let own : Option Issued := (nextInternal s).map (fun i => .run i s)
  match (if s.ft / 2 % 2 == 1 then stim.or own else own.or stim) with
  | some r => r
  | none => issueTurn s

/-- One nanosecond of the device: the streams and the engines have it in turn. -/
def turn (s : State) : Issued :=
  if s.engineTurn then engineTurnOf { s with ft := s.ft + 1, engineTurn := false }
  else issueTurn { s with ft := s.ft + 1, engineTurn := true }

end Sys2Proof.Machine
end

