-- ==== Sys2Proof/Machine/Step.lean ====
section
/-! DEFINITION. One step of the device, and where the word that it fetches next is put. -/

namespace Sys2Proof.Machine

open Sys2Proof

/-- One step: FT advances by a nanosecond, and what has the turn runs (R10, R20, R85; notes/assumptions 2). -/
def step (s : State) : Host.Outcome State Fault Refusal :=
  match turn s with
  | .run i t => exec i t
  | .stay t => .next t

/-- The word `w` stored where the next step fetches its instruction; a state in which no party holds the issue gets a program whose
first word it is (notes/assumptions 9). -/
def State.withFetchWord (s : State) (nbits w : Nat) : State :=
  placeWord s (BitVec.ofNat 32 (w % 2 ^ nbits))

end Sys2Proof.Machine
end

