-- ==== Sys2Proof/WellFormed.lean ====
section
/-! DEFINITION. Which terms of `Instr` stand for something of the device: the ranges that the spec gives the numbers in events. Every
term of an instruction word is one, since each field holds what its bits can (R315). -/

namespace Sys2Proof

/-- R13: a core number. -/
def coreOk (core : Nat) : Bool := decide (core < 128)
/-- R13: a die number. -/
def dieOk (die : Nat) : Bool := decide (die < 4)
/-- R296: a function number. -/
def functionOk (fn : Nat) : Bool := decide (fn < 65)
/-- R281: a node index. -/
def nodeOk (node : Nat) : Bool := decide (node < 4096)
/-- R307: an export window. -/
def windowOk (win : Nat) : Bool := decide (win < 256)
/-- R33: a stream of a block of at most 32 groups. -/
def partyOk (p : Party) : Bool := match p.who with | .bell => true | .path g _ => decide (g < 32)
/-- R275, R277: a queue number of 8 bits and a ring index of 32. -/
def pktOk (q : PktRef) : Bool := decide (q.queue < 256) && decide (q.slot < 4294967296)

/-- Whether an instruction is well formed. -/
def Instr.wellFormed (i : Instr) : Bool :=
  match i with
  | .opNop .. | .opSetm .. | .opGetm .. | .opSetmx .. | .opSysv .. | .opCrd .. | .opCwr .. | .opTrap .. | .opRte .. | .opYield ..
  | .opCkpt .. | .opChq .. | .opAdd .. | .opSub .. | .opMul .. | .opMad .. | .opMin .. | .opMax .. | .opAnd .. | .opOr ..
  | .opXor .. | .opShl .. | .opShr .. | .opSar .. | .opSel .. | .opMulh .. | .opCmp .. | .opMov .. | .opAbs .. | .opNeg ..
  | .opNot .. | .opRcp .. | .opRsq .. | .opSqrt .. | .opExp2 .. | .opLog2 .. | .opSin .. | .opCos .. | .opRint .. | .opClz ..
  | .opPopc .. | .opBrev .. | .opClass .. | .opCvt .. | .opCvtb .. | .opCvtbGiven .. | .opUnpb .. | .opBfe .. | .opBfi ..
  | .opShfl .. | .opShfx .. | .opShup .. | .opShdn .. | .opVany .. | .opVall .. | .opVuni .. | .opVbal .. | .opGsum ..
  | .opGmin .. | .opGmax .. | .opGscan .. | .opPand .. | .opPor .. | .opPxor .. | .opPnot .. | .opPset .. | .opPsetFirst ..
  | .opPsetNz .. | .opPcnt .. | .opSadd .. | .opSsub .. | .opSmul .. | .opSand .. | .opSor .. | .opSxor .. | .opSshl ..
  | .opSshr .. | .opSmin .. | .opSmax .. | .opSmov .. | .opScmp .. | .opSli .. | .opSlh .. | .opSld .. | .opSst .. | .opLd ..
  | .opSt .. | .opLda .. | .opStl .. | .opLds .. | .opSts .. | .opLdacc .. | .opStacc .. | .opPref .. | .opTagq .. | .opTagw ..
  | .opTagx .. | .opFence .. | .opWaitc .. | .opWaitg .. | .opAtom .. | .opRed .. | .opCas .. | .opCas128 .. | .opAtom2 ..
  | .opRedh .. | .opMwait .. | .opLock .. | .opUnlk .. | .opBara .. | .opBarw .. | .opBars .. | .opHbar .. | .opBnew ..
  | .opBdel .. | .opBoa .. | .opBow .. | .opPost .. | .opBra .. | .opBrd .. | .opBrx .. | .opCall .. | .opRet .. | .opDisp ..
  | .opWld .. | .opMstr .. | .opMfence .. | .opMwaitb .. | .opMdrn .. | .opMclr .. | .opMwin .. | .opCpy .. | .opCpy2d ..
  | .opCpyw .. | .opCnta .. | .opCntw .. | .evHeldWritePerform .. | .evTileLoaded .. | .evBankReload .. | .evStreamRow ..
  | .evDrainTile .. | .evBatchRetire .. | .evEngineFault .. | .evCopyLine .. | .evCopyCompletion .. | .evHbarCompletion ..
  | .evBlockDispatch .. | .evSwapOut .. | .evSwapReturn .. | .evBlockEnd .. | .evGridComplete .. | .evGraphComplete ..
  | .evRegisterWrite .. | .evPatchBundle .. | .evStopRequest .. | .evClosure .. | .evCheckpointInterval ..
  | .evCheckpointStream .. | .evSnatch .. | .evIncrementCommit .. | .evRollback .. | .evSavecostUpdate .. | .evComparePoint ..
  | .evThirdRun .. | .evParityRebuild .. | .evScrub .. | .evDataCheckFailure .. | .evFwds .. | .evFwdx .. | .evHomedata ..
  | .evGrant .. | .evInv .. | .evAck .. | .evRecall .. | .evHcoll .. | .evLrevoke .. | .evWait .. | .evWaitRetry ..
  | .evStalemap .. | .evDirmapAdopt .. | .evFabricLeaseExpiry .. | .evMergeApply .. | .evLostHolderTimeout .. | .evTagFailure ..
  | .evKeyInstall .. | .evFabricTimeout .. | .evAtomicopCompletion .. | .evClaim .. | .evHandover .. | .evAccept ..
  | .evNegotiateAlgorithms .. | .evGetCertificate .. | .evChallenge .. | .evGetMeasurements .. | .evBoot .. | .evPowerLimit ..
  | .evRevisionMove .. | .evCxlCacheSnoop .. | .evCompletionTimeout .. | .evIeee1588Sync .. | .evPodFormation ..
  | .evFabricRequest .. | .evCensusPoison .. | .opExit .. | .opDone .. | .evSequencerRestart .. | .evElectionEnd ..
  | .evHandoverTimeout .. | .evOwnerSilence .. | .evGetVersion .. | .evGetCapabilities .. | .evGetDigests .. | .evDeviceReset .. => true
  | .evSlotArbitration core slot => coreOk core && decide (slot < 8)
  | .evBellwetherIssue core => coreOk core
  | .evLoadDataArrival p _ => partyOk p
  | .evStoreCompletion p _ => partyOk p
  | .evWaitSatisfied p => partyOk p
  | .evRevocation core _ => coreOk core
  | .evLockGrant die num => dieOk die && decide (num < 4096)
  | .evNodeReplace _ node => nodeOk node
  | .evGatherTimeout _ node die => nodeOk node && dieOk die
  | .evSpillReturn _ node die => nodeOk node && dieOk die
  | .evDoorbell fn _ => functionOk fn
  | .evReadAndMark latch => decide (latch < 4096)
  | .evFlushq fn _ => functionOk fn
  | .evDrops fn => functionOk fn
  | .evNopPacket q => pktOk q
  | .evLaunch q => pktOk q
  | .evGraph q => pktOk q
  | .evNode q => pktOk q
  | .evLoad q => pktOk q
  | .evWaitcnt q => pktOk q
  | .evCut q => pktOk q
  | .evStop q => pktOk q
  | .evResume q => pktOk q
  | .evRegion q _ => pktOk q
  | .evInval q => pktOk q
  | .evHeapq q => pktOk q
  | .evCutTimePassed _ core => coreOk core
  | .evPageResponse fn _ _ => functionOk fn
  | .evPageRequestTimeout fn _ => functionOk fn
  | .evAtsInvalidate fn _ _ _ _ => functionOk fn
  | .evArrayRowFailure core row => coreOk core && decide (row < 196)
  | .evData _ bytes _ _ _ _ _ _ => decide (bytes.length = 128)
  | .evHostMemAccess r _ _ _ => functionOk r.fn
  | .evFunctionLevelReset fn => functionOk fn
  | .evTierLinkFailure port => decide (port < 2)
  | .evTierLinkRestore port => decide (port < 2)
  | .evRevoke _ win => windowOk win
  | .evRevokeComplete win => windowOk win
  | .evReservedEncoding w => decode w == .evReservedEncoding w
  | .evPriReenable fn => functionOk fn
  | .evPageRequestAllocation fn _ => functionOk fn
  | .evWback _ d => d.bytes.isEmpty || decide (d.bytes.length = 128)

/-- Whether an instruction is an event of the device or of the outside world; the others are words that a stream issues. -/
def Instr.isEvent (i : Instr) : Bool :=
  match i with
  | .opNop .. | .opSetm .. | .opGetm .. | .opSetmx .. | .opSysv .. | .opCrd .. | .opCwr .. | .opTrap .. | .opRte .. | .opYield ..
  | .opCkpt .. | .opChq .. | .opAdd .. | .opSub .. | .opMul .. | .opMad .. | .opMin .. | .opMax .. | .opAnd .. | .opOr ..
  | .opXor .. | .opShl .. | .opShr .. | .opSar .. | .opSel .. | .opMulh .. | .opCmp .. | .opMov .. | .opAbs .. | .opNeg ..
  | .opNot .. | .opRcp .. | .opRsq .. | .opSqrt .. | .opExp2 .. | .opLog2 .. | .opSin .. | .opCos .. | .opRint .. | .opClz ..
  | .opPopc .. | .opBrev .. | .opClass .. | .opCvt .. | .opCvtb .. | .opCvtbGiven .. | .opUnpb .. | .opBfe .. | .opBfi ..
  | .opShfl .. | .opShfx .. | .opShup .. | .opShdn .. | .opVany .. | .opVall .. | .opVuni .. | .opVbal .. | .opGsum ..
  | .opGmin .. | .opGmax .. | .opGscan .. | .opPand .. | .opPor .. | .opPxor .. | .opPnot .. | .opPset .. | .opPsetFirst ..
  | .opPsetNz .. | .opPcnt .. | .opSadd .. | .opSsub .. | .opSmul .. | .opSand .. | .opSor .. | .opSxor .. | .opSshl ..
  | .opSshr .. | .opSmin .. | .opSmax .. | .opSmov .. | .opScmp .. | .opSli .. | .opSlh .. | .opSld .. | .opSst .. | .opLd ..
  | .opSt .. | .opLda .. | .opStl .. | .opLds .. | .opSts .. | .opLdacc .. | .opStacc .. | .opPref .. | .opTagq .. | .opTagw ..
  | .opTagx .. | .opFence .. | .opWaitc .. | .opWaitg .. | .opAtom .. | .opRed .. | .opCas .. | .opCas128 .. | .opAtom2 ..
  | .opRedh .. | .opMwait .. | .opLock .. | .opUnlk .. | .opBara .. | .opBarw .. | .opBars .. | .opHbar .. | .opBnew ..
  | .opBdel .. | .opBoa .. | .opBow .. | .opPost .. | .opBra .. | .opBrd .. | .opBrx .. | .opCall .. | .opRet .. | .opDisp ..
  | .opWld .. | .opMstr .. | .opMfence .. | .opMwaitb .. | .opMdrn .. | .opMclr .. | .opMwin .. | .opCpy .. | .opCpy2d ..
  | .opCpyw .. | .opCnta .. | .opCntw .. | .opExit .. | .opDone .. | .evReservedEncoding .. => false
  | .evSlotArbitration .. | .evBellwetherIssue .. | .evLoadDataArrival .. | .evStoreCompletion .. | .evWaitSatisfied ..
  | .evHeldWritePerform .. | .evRevocation .. | .evTileLoaded .. | .evBankReload .. | .evStreamRow .. | .evDrainTile ..
  | .evBatchRetire .. | .evEngineFault .. | .evCopyLine .. | .evCopyCompletion .. | .evLockGrant .. | .evHbarCompletion ..
  | .evBlockDispatch .. | .evSwapOut .. | .evSwapReturn .. | .evBlockEnd .. | .evGridComplete .. | .evGraphComplete ..
  | .evNodeReplace .. | .evGatherTimeout .. | .evSpillReturn .. | .evDoorbell .. | .evReadAndMark .. | .evFlushq .. | .evDrops ..
  | .evRegisterWrite .. | .evNopPacket .. | .evLaunch .. | .evGraph .. | .evNode .. | .evLoad .. | .evWaitcnt .. | .evCut ..
  | .evStop .. | .evResume .. | .evRegion .. | .evInval .. | .evHeapq .. | .evPatchBundle .. | .evStopRequest .. | .evClosure ..
  | .evCheckpointInterval .. | .evCutTimePassed .. | .evCheckpointStream .. | .evSnatch .. | .evIncrementCommit ..
  | .evRollback .. | .evSavecostUpdate .. | .evComparePoint .. | .evThirdRun .. | .evPageResponse .. | .evPageRequestTimeout ..
  | .evAtsInvalidate .. | .evParityRebuild .. | .evScrub .. | .evDataCheckFailure .. | .evArrayRowFailure .. | .evFwds ..
  | .evFwdx .. | .evHomedata .. | .evGrant .. | .evData .. | .evInv .. | .evAck .. | .evRecall .. | .evHcoll .. | .evLrevoke ..
  | .evWait .. | .evWaitRetry .. | .evStalemap .. | .evDirmapAdopt .. | .evFabricLeaseExpiry .. | .evMergeApply ..
  | .evLostHolderTimeout .. | .evTagFailure .. | .evKeyInstall .. | .evFabricTimeout .. | .evHostMemAccess ..
  | .evAtomicopCompletion .. | .evFunctionLevelReset .. | .evTierLinkFailure .. | .evTierLinkRestore .. | .evRevoke ..
  | .evRevokeComplete .. | .evClaim .. | .evHandover .. | .evAccept .. | .evNegotiateAlgorithms .. | .evGetCertificate ..
  | .evChallenge .. | .evGetMeasurements .. | .evBoot .. | .evPowerLimit .. | .evRevisionMove .. | .evCxlCacheSnoop ..
  | .evCompletionTimeout .. | .evPriReenable .. | .evPageRequestAllocation .. | .evIeee1588Sync .. | .evPodFormation ..
  | .evWback .. | .evFabricRequest .. | .evCensusPoison .. | .evSequencerRestart .. | .evElectionEnd .. | .evHandoverTimeout ..
  | .evOwnerSilence .. | .evGetVersion .. | .evGetCapabilities .. | .evGetDigests .. | .evDeviceReset .. => true

end Sys2Proof
end

