-- ==== Sys2Proof/Safety.lean ====
section
/-! DEFINITION. What counts as a safe state and a safe run of the device, and the conditions that the statements about it speak of. -/

namespace Sys2Proof

open Sys2Proof.Machine

/-! ## Safe states and runs -/

/-- Every outside stimulus that waits is an event, not a word, and stands for something of the device. -/
def Machine.State.stimuliOk (s : State) : Prop := ∀ i ∈ s.inbox, i.isEvent = true ∧ i.wellFormed = true

/-- The memories are in canonical form: pod memory, and the scratchpad of each block and of each pair snapshot. -/
def Machine.State.memoriesOk (s : State) : Prop :=
  Memory.wf s.mem.cells = true ∧ (∀ b ∈ s.blocks, Memory.wf b.scratch = true) ∧ ∀ x ∈ s.snaps, Memory.wf x.2.scratch = true

/-- R13, R296, R307: 128 cores, 65 functions, 256 export windows. -/
def Machine.State.sizesOk (s : State) : Prop :=
  s.cores.length = 128 ∧ s.fns.length = 65 ∧ s.fabric.windows.length = 256

/-- A step that the model carries through: neither a fault of the model nor a refusal. -/
def Machine.State.goesOn (s : State) : Prop := ∃ t, step s = .next t

/-- A run of `n` steps that the model carries through. -/
def Machine.State.runs (s : State) (n : Nat) : Prop := ∃ t, core.run n s = .next t

namespace Machine

/-! ## A word at its issue (R330) -/

/-- R330, R67: the party that holds the issue sees `v`; the word `i` passes the checks of its decoding in their order (STREAM, FEAT, the
field checks with the end of its run, LATCH); no bellwether guard suppresses it where one may. -/
def Admitted (s : State) (v : View) (i : Instr) (n : Need) : Prop :=
  s.cur = some v.p ∧ s.view v.p = some v ∧ streamOk v n.streams = true ∧
    (∀ b, n.feat = some b → Config.featmask.getLsbD b = true) ∧ n.ok = true ∧ endOk v (encode i) = true ∧
    latchesOk v n.lats = true ∧ (n.guarded = true → v.suppressed = false)

/-- R41: a destination that pushes has room behind its channel's entries. -/
def HasRoom (v : View) (d : BitVec 8) : Prop := ∀ c, pushOf d = some c → (v.b.chans.getD c []).length < chanDepth

/-- The instruction completes with its own effect `a`, which leaves `t` and the latch `l`; the word retires and its stream goes on with
the next word. -/
def Completes (i : Instr) (s : State) (v : View) (a : Act) : Prop :=
  ∃ t l, a = .done t l ∧ exec i s = .next (retire t v (encode i) l (v.ctl.pc + 4))

/-! ## Lane words -/

/-- R41, R87, R340: a lane word over ACTIVE, admitted, with readable sources and room for its push, writes its function's value in
each lane of ACTIVE of its destination, and retires. -/
def LaneWordCompletes (i : Instr) (ok : View → Bool) (ops : View → List (BitVec 8 × Nat)) (d : BitVec 8) (dn : View → Nat)
    (f : View → List Fetched → Nat → Nat) : Prop :=
  ∀ s v t w fts,
    Admitted s v i { streams := .g, feat := laneFeat v, ok := ok v && laneDstOk v (dn v) d, lats := (ops v).map Prod.fst } →
    fetchOps s v (ops v) (pushOf d) (fun v fts => diesOf s v v.active fts (ops v)) = .ok (t, w, fts) → HasRoom w d →
    Completes i s v (laneFinish t w d (dn w) w.active (f w fts))

/-- R342: a two-source lane operation over some types. -/
def TwoSourceCompletes (mk : Bool → BitVec 8 → BitVec 8 → BitVec 8 → Instr) (tys : Ty → Bool) (op : Ty → Rm → Nat → Nat → Nat) : Prop :=
  ∀ e d a b, LaneWordCompletes (mk e d a b) (fun v => tys v.ty && arithSrcOk v true a && arithSrcOk v true b)
    (fun v => [(a, tyRegs v.ty), (b, tyRegs v.ty)]) d (fun v => tyRegs v.ty)
    (fun v fts l => place v.ty (op v.ty v.rm (opndAt v v.ty fts 0 l) (opndAt v v.ty fts 1 l)))

/-- R449: a lane shift, whose count is a 32-bit source. -/
def ShiftCompletes (mk : Bool → BitVec 8 → BitVec 8 → BitVec 8 → Instr) (op : Ty → Nat → Nat → Nat) : Prop :=
  ∀ e d a b, LaneWordCompletes (mk e d a b) (fun v => tyInt v.ty && arithSrcOk v false a && laneSrcOk v 1 true false b)
    (fun v => [(a, tyRegs v.ty), (b, 1)]) d (fun v => tyRegs v.ty)
    (fun v fts l => place v.ty (op v.ty (opndAt v v.ty fts 0 l) (rawAt v 1 fts 1 l)))

/-- R340: a unary lane operation over some types. -/
def UnaryCompletes (mk : Bool → BitVec 8 → BitVec 8 → Instr) (tys : Ty → Bool) (op : Ty → Rm → Nat → Nat) : Prop :=
  ∀ e d a, LaneWordCompletes (mk e d a) (fun v => tys v.ty && arithSrcOk v true a) (fun v => [(a, tyRegs v.ty)]) d
    (fun v => tyRegs v.ty) (fun v fts l => op v.ty v.rm (opndAt v v.ty fts 0 l))

/-- R235, R454: the lanes that a shuffle's poison kills: a lane consumes its own lane of B and the lane of A that it reads, unless that is
dead. -/
def shuffleDies (s : State) (src : Nat → Nat → Nat) (n : Nat) (a b : BitVec 8) (v : View) (fts : List Fetched) : W32 :=
  diesOf s v v.active (fts.drop 1) [(b, 1)] |||
    maskOf (fun l => inMask v.active l &&
      inMask (diesOf s v 0xFFFFFFFF#32 (fts.take 1) [(a, n)]) (src l (rawAt v 1 fts 1 l % 32)) &&
      !inMask v.g.dead (src l (rawAt v 1 fts 1 l % 32)))

/-- R236, R454: DEADREAD set when a lane of ACTIVE reads a dead lane. -/
def noteDeadRead (s : State) (v : View) (read : Nat → Nat) : State :=
  if laneList.any (fun l => inMask v.active l && inMask v.g.dead (read l)) then
    s.modGroup v.p.blk v.gi (fun g => { g with gstat := g.gstat ||| 1#32 })
  else s

/-- R454: a shuffle: `src l n` is the lane that lane `l` reads for B's value `n` modulo 32; a dead lane reads as 0. -/
def ShuffleCompletes (mk : Bool → BitVec 8 → BitVec 8 → BitVec 8 → Instr) (src : Nat → Nat → Nat) : Prop :=
  ∀ e d a b s v t w fts,
    Admitted s v (mk e d a b)
      { streams := .g, feat := laneFeat v, lats := [a, b],
        ok := copySrcOk v a && shuffleOk v b && laneDstOk v (tyRegs v.ty) d } →
    fetchOps s v [(a, tyRegs v.ty), (b, 1)] (pushOf d) (shuffleDies s src (tyRegs v.ty) a b) = .ok (t, w, fts) → HasRoom w d →
    Completes (mk e d a b) s v
      (laneFinish (noteDeadRead t w (fun l => src l (rawAt w 1 fts 1 l % 32))) w d (tyRegs v.ty) w.active
        (fun l => if inMask w.g.dead (src l (rawAt w 1 fts 1 l % 32)) then 0
          else rawAt w (tyRegs v.ty) fts 0 (src l (rawAt w 1 fts 1 l % 32))))

/-- R475: a vote over the live set; `bal` names a mask result, the others 0 or 1. -/
def VoteCompletes (mk : Bool → BitVec 8 → BitVec 8 → Instr) (op : W32 → W32 → W32) (bal : Bool) : Prop :=
  ∀ e d a s v,
    Admitted s v (mk e d a) { streams := .g, ok := isPred a && (isPred d || isS d || laneDstOk v 1 d) } → HasRoom v d →
    Completes (mk e d a) s v (voteFinish s v d (op (v.g.pred (a.toNat % 16)) v.live) bal)

/-- R395: a group reduction, to an s register or to the lanes of ACTIVE. -/
def ReductionCompletes (mk : Bool → BitVec 8 → BitVec 8 → Instr) (op : Nat) : Prop :=
  ∀ e d a s v t w fts,
    Admitted s v (mk e d a)
      { streams := .g, feat := laneFeat v, lats := [a],
        ok := tyArith v.ty && arithSrcOk v true a && (isS d || laneDstOk v (tyRegs v.ty) d) } →
    fetchOps s v [(a, tyRegs v.ty)] (pushOf d) (fun u fts => diesOf s u u.active fts [(a, tyRegs v.ty)]) = .ok (t, w, fts) →
    HasRoom w d →
    Completes (mk e d a) s v
      (if isS d then sregFinish t w (d.toNat % 32) (BitVec.ofNat 64 (place w.ty (redTree op w.ty w.rm (treeIns w w.active fts))))
       else laneFinish t w d (tyRegs w.ty) w.active (fun _ => place w.ty (redTree op w.ty w.rm (treeIns w w.active fts))))

/-- R429: a predicate word of two predicate fields. -/
def PredicateCompletes (i : Instr) (x y : BitVec 8) (op : Group → W32) : Prop :=
  ∀ s v, Admitted s v i { streams := .g, ok := isPred x && isPred y } →
    Completes i s v (predFinish s v (x.toNat % 16) v.active (op v.g))

/-- R437: a PSET from a path-wide value. -/
def PsetCompletes (mk : Bool → BitVec 8 → BitVec 8 → Instr) (op : W64 → W32) : Prop :=
  ∀ e d a s v t w fts,
    Admitted s v (mk e d a) { streams := .g, ok := isPred d && sSrcOk v false a, lats := [a] } →
    fetchOps s v [(a, 0)] none (fun _ _ => 0) = .ok (t, w, fts) →
    Completes (mk e d a) s v (predFinish t w (d.toNat % 16) w.active (op ((fts.map (sval w)).getD 0 0)))

/-! ## Scalar words -/

/-- R448: a scalar word of a path or of the bellwether. -/
def ScalarCompletes (i : Instr) (srcs : List (BitVec 8)) (d : BitVec 8) (f : List W64 → W64) : Prop :=
  ∀ s v t w fts,
    Admitted s v i { streams := .gb, ok := srcs.all (sSrcOk v true) && sDstOk v true d, lats := srcs } →
    fetchOps s v (srcs.map (fun x => (x, 0))) (pushOf d) (fun _ _ => 0) = .ok (t, w, fts) → HasRoom w d →
    Completes i s v (scalarFinish t w d (f (fts.map (sval w))))

/-- R448: a two-source scalar word. -/
def Scalar2Completes (mk : Bool → BitVec 8 → BitVec 8 → BitVec 8 → Instr) (op : W64 → W64 → W64) : Prop :=
  ∀ e d a b, ScalarCompletes (mk e d a b) [a, b] d (fun xs => op (xs.getD 0 0) (xs.getD 1 0))

/-! ## Lane memory words (R224, R225, R227) -/

/-- R224, R225, R227: nothing stands against a lane memory word: every lane of ACTIVE is aligned, a new operation finds its counter below
1,023, each lane not yet performed has a target and is made, and a word that has waited for pages has nothing left on its way. -/
def JobGoes (s : State) (v : View) (j : LaneJob) : Prop :=
  (∀ l < 32, inMask v.active l = true → (j.addr l).toNat % j.align = 0) ∧
    (v.ctl.openOp = none → counterFull s v.p j.cls = false) ∧
    ∃ u ts, resolveAll j.resolve (jobStart s v j).2 (laneList.filter (inMask (v.active &&& ~~~v.perf))) =
        (u, ts.map (fun x => (x.1, LRes.goes x.2))) ∧
      (j.perform u (jobStart s v j).1 ts).1.cur.isSome = true ∧
      (∀ x ∈ (j.perform u (jobStart s v j).1 ts).2, laneMade x.2 = true) ∧
      (v.ctl.replays = true →
        let r := j.perform u (jobStart s v j).1 ts
        jobFlying (lateLanes (commitLanes r.1 v (jobStart s v j).1 j.dst r.2) v j r.2) v (jobStart s v j).1 = false)

/-- R266, R267: a word makes its own access and nobody else's: its block is not paired, or the word is never forwarded. -/
def ActsHere (v : View) (how : Fwd) : Prop := v.b.pair = none ∨ how = .no

/-- R401: a lane load completes. `how`: how a paired block forwards it (R267); `scr`: it may reserve copy-ring slots (R160). -/
def LaneLoadCompletes (i : Instr) (ok : Bool) (d a : BitVec 8) (sr : BitVec 5) (scr bypass fill acq : Bool) (how : Fwd)
    (addr : View → List Fetched → Nat → W64) (resolve : View → State → W64 → State × LRes) : Prop :=
  ∀ s v t w fts,
    Admitted s v i { streams := .g, feat := laneFeat v, ok := ok && byteTy v && loadDstOk v d && offsetOk v a, lats := [a] } →
    ActsHere v how →
    fetchLanes s v [(a, 1), (sField v sr, 0)] = .ok (t, w, fts) →
    (scr = true → (resvLanes w (addr w fts)).length ≤ ringFree w.b) →
    JobGoes t w (loadJob w d (addr w fts) bypass fill acq (resolve w)) →
    Completes i s v (laneJob s t w (loadJob w d (addr w fts) bypass fill acq (resolve w)))

/-- R462: a lane store completes; `fence`: the scope whose FENCE condition it needs first (R465). -/
def LaneStoreCompletes (i : Instr) (ok : Bool) (d a : BitVec 8) (sr : BitVec 5) (how : Fwd) (fence : Option Nat)
    (addr : View → List Fetched → Nat → W64) (resolve : View → List Fetched → State → W64 → State × LRes)
    (perform : View → State → Nat → List (Nat × Tgt) → (Nat → List Byte) → State × List (Nat × LOut)) : Prop :=
  ∀ s v t w fts,
    Admitted s v i { streams := .g, feat := laneFeat v, ok := ok && byteTy v && copySrcOk v d && offsetOk v a, lats := [a, d] } →
    ActsHere v how →
    (∀ sc, fence = some sc → v.ctl.openOp = none → fenceWait s v sc = none) →
    fetchLanes s v [(a, 1), (sField v sr, 0), (d, tyRegs v.ty)] = .ok (t, w, fts) →
    ∃ u, u = fenceOver t w (fence.getD 0) ∧
      (JobGoes u w (storeJob w (addr w fts) (resolve w fts) (fun s id ts => perform w s id ts (storeBytes w fts))) →
        Completes i s v (laneJob s u w (storeJob w (addr w fts) (resolve w fts) (fun s id ts => perform w s id ts (storeBytes w fts)))))

/-- R345 to R350: an atomic word completes. -/
def AtomicCompletes (i : Instr) (scope : Nat) (feat : View → Option Nat) (ok : View → Bool) (a : BitVec 8)
    (srcs : View → List (BitVec 8 × Nat)) (align : View → Nat) (cls : Cls) (dst : View → Dst) (words : List Byte → List W32)
    (op : View → List Fetched → Nat → SyncOp) : Prop :=
  ∀ s v t w fts,
    Admitted s v i { streams := .g, feat := feat v, ok := decide (scope ≤ 5) && vregsOk v 2 a && ok v, lats := (srcs v).map Prod.fst } →
    ActsHere v (syncFwd scope) →
    fetchLanes s v (srcs v ++ [(a, 2)]) = .ok (t, w, fts) →
    JobGoes t w (atomJob w scope a (align w) cls (dst w) words (op w fts)) →
    Completes i s v (laneJob s t w (atomJob w scope a (align w) cls (dst w) words (op w fts)))

/-! ## Single accesses (R456) -/

/-- R225, R456: a path's one access goes through: its address is aligned, and translates to a place of memory. -/
def Reaches (s : State) (v : View) (va : W64) (n : Nat) (acc : Acc) (t : State) (l : Leaf) : Prop :=
  va.toNat % n = 0 ∧ ∃ a, memTgt s v va acc = (t, .goes (.mem l a))

/-! ## Branch-row words (R81, R93 to R101) -/

/-- The branch-row word `i` retires with its effect `t`, and its stream goes on at `pc`; `fold` enters BRAND, and `post` is what the word
makes of the group when its run ends. -/
def Leaves (i : Instr) (s : State) (v : View) (t : State) (pc : W64) (fold : W32) (post : Group → Group) : Prop :=
  exec i s = .next (retire t v (encode i) .invalid pc fold post)

/-! ## Checks before the field checks (R330) -/

/-- R330: a word passes the stream and feature checks of its decoding, steps 1 to 3; only the FP64 atomic minimum and maximum need a
feature that the device lacks. -/
def earlyOk (v : View) (i : Instr) : Bool :=
  match i with
  | .opCrd _ _ r | .opCwr _ _ r => streamOk v ((cregStream r.toNat).getD .gb)
  | .opAtom _ _ _ o _ | .opRed _ _ _ o _ | .opAtom2 _ _ _ o _ => streamOk v .g && aopFeat o.toNat v != some 10
  | i => (match opStreams (encode i) with | some st => streamOk v st | none => true) && (opFeat v (encode i)).isNone

/-! ## What a register word leaves unchanged -/

/-- The words whose effect is on the registers, predicates, latches and channels of their stream alone: NOP, GETM, CRD, CHQ, the lane
row, shuffles, votes, reductions, the predicate words and the scalar row. -/
def registerWord : Instr → Bool
  | .opNop .. | .opGetm .. | .opCrd .. | .opChq .. | .opAdd .. | .opSub .. | .opMul .. | .opMad .. | .opMin .. | .opMax .. | .opAnd ..
  | .opOr .. | .opXor .. | .opShl .. | .opShr .. | .opSar .. | .opSel .. | .opMulh .. | .opCmp .. | .opMov .. | .opAbs .. | .opNeg ..
  | .opNot .. | .opRcp .. | .opRsq .. | .opSqrt .. | .opExp2 .. | .opLog2 .. | .opSin .. | .opCos .. | .opRint .. | .opClz ..
  | .opPopc .. | .opBrev .. | .opClass .. | .opCvt .. | .opCvtb .. | .opCvtbGiven .. | .opUnpb .. | .opBfe .. | .opBfi ..
  | .opShfl .. | .opShfx .. | .opShup .. | .opShdn .. | .opVany .. | .opVall .. | .opVuni .. | .opVbal .. | .opGsum .. | .opGmin ..
  | .opGmax .. | .opGscan .. | .opPand .. | .opPor .. | .opPxor .. | .opPnot .. | .opPset .. | .opPsetFirst .. | .opPsetNz ..
  | .opPcnt .. | .opSadd .. | .opSsub .. | .opSmul .. | .opSand .. | .opSor .. | .opSxor .. | .opSshl .. | .opSshr .. | .opSmin ..
  | .opSmax .. | .opSmov .. | .opScmp .. | .opSli .. | .opSlh .. => true
  | _ => false

/-- The predicate that a register word writes, as a field of the predicate class. -/
def predDst : Instr → Option (BitVec 8)
  | .opCmp _ _ p _ _ | .opScmp _ _ p _ _ => some (0xB#4 ++ p)
  | .opPand _ d _ _ | .opPor _ d _ _ | .opPxor _ d _ _ | .opPnot _ d _ | .opPset _ d _ | .opPsetFirst _ d _ | .opPsetNz _ d _ => some d
  | _ => none

/-- The destination fields of a register word with the vector registers each names. -/
def wordDsts (v : View) (i : Instr) : List Span := (operands v i).2 ++ ((predDst i).map (fun f => (f, 0))).toList

/-- R11, R115, R451: the lanes in which a register word may change its vector destination. -/
def wordLanes (v : View) (i : Instr) : W32 :=
  match i with
  | .opSel .. => v.live
  | .opCvtb .. | .opCvtbGiven .. => 0x1F#32
  | _ => v.active

/-- Whether a field names vector register `r`. -/
def namesV (r : Nat) (f : Span) : Bool := decide (f.1.toNat < 0x80) && decide (f.1.toNat ≤ r) && decide (r < f.1.toNat + f.2)
/-- Whether a field names s register `r`. -/
def namesS (r : Nat) (f : Span) : Bool := isS f.1 && f.1.toNat % 32 == r
/-- Whether a field names predicate `r`. -/
def namesP (r : Nat) (f : Span) : Bool := isPred f.1 && f.1.toNat % 16 == r

/-- The group `h` differs from `g` as a register word may make it differ: in its destinations, in the path `sec` after its word `w`, in
the marks of R248, and, for a shuffle (R236), in DEADREAD. -/
def GroupFrame (g h : Group) (sec : Bool) (i : Instr) (v : View) : Prop :=
  (∀ r l, (wordDsts v i).any (namesV r) = false ∨ inMask (wordLanes v i) l = false → h.vlane r l = g.vlane r l) ∧
  (∀ r, (wordDsts v i).any (namesS r) = false → h.s.toList.getD r 0 = g.s.toList.getD r 0) ∧
  (∀ r, (wordDsts v i).any (namesP r) = false ∨ r = 0 → h.pred r = g.pred r) ∧
  (h.gstat = g.gstat ∨ h.gstat = g.gstat ||| 1#32) ∧
  h.path (!sec) = g.path (!sec) ∧ (∃ l, h.path sec = (g.path sec).step (encode i) l ((g.path sec).ctl.pc + 4)) ∧
  h = { g with v := h.v, s := h.s, p := h.p, gstat := h.gstat, gran := h.gran, path0 := h.path0, path1 := h.path1 }

/-- The bellwether `c` differs from `b` as a register word may make it differ: in its destinations and its control part. -/
def BellFrame (b c : Bell) (i : Instr) (v : View) : Prop :=
  (∀ r, (wordDsts v i).any (fun f => f.1.toNat == r) = false → c.w.toList.getD r 0 = b.w.toList.getD r 0) ∧
  (∀ r, (wordDsts v i).any (namesP r) = false ∨ r = 0 → c.q.getLsbD r = b.q.getLsbD r) ∧
  c.ctl.ret = b.ctl.ret ∧ c.ctl.retSpill = b.ctl.retSpill ∧ c.ctl.mine = b.ctl.mine ∧ c.ctl.pend = b.ctl.pend ∧
  c = { b with w := c.w, q := c.q, ctl := c.ctl }

/-- R60, R236: a register word `i` of the stream of `v` leaves the rest of the device as it was: memory, every other block, and in its
block every other group, the channels it does not name, and what its own stream does not name as a destination. -/
def RegisterFrame (s t : State) (v : View) (i : Instr) : Prop :=
  t = { s with blocks := t.blocks, cur := t.cur, mem := { s.mem with poison := t.mem.poison } } ∧
  t.blocks.length = s.blocks.length ∧ (∀ k, k ≠ v.p.blk → t.block? k = s.block? k) ∧
  ∃ b, t.block? v.p.blk = some b ∧ b = { v.b with groups := b.groups, bell := b.bell, chans := b.chans } ∧
    (∀ k, ((operands v i).1 ++ wordDsts v i).any (fun f => chanOf f.1 == some k) = false → b.chans.getD k [] = v.b.chans.getD k []) ∧
    (v.isBell = true → b.groups = v.b.groups ∧ BellFrame v.b.bell b.bell i v) ∧
    (v.isBell = false → b.bell = v.b.bell ∧ (∀ k, k ≠ v.gi → b.groups[k]? = v.b.groups[k]?) ∧
      ∃ g, b.groups[v.gi]? = some g ∧ GroupFrame v.g g v.sec i v)

/-! ## What a lane access leaves unchanged in memory -/

/-- The memory after `r` agrees with that of `u` but for bytes that `stored` names: pod memory outside lines that hold herd updates
(which an access to the line merges, R207), and every scratchpad. -/
def MemoryFrame (u r : State) (mem : Nat → Prop) (scr : Nat → Nat → Prop) : Prop :=
  (∀ x, herdOf u (lineOf x) = none → ¬ mem x → ownRead r x 1 = ownRead u x 1) ∧
  ∀ k b c, u.block? k = some b → r.block? k = some c → ∀ x, ¬ scr k x → cellGet c.scratch x = cellGet b.scratch x

/-- The bytes of pod memory that lanes store to: `n l` bytes of lane `l`. -/
def lanesHit (ts : List (Nat × Tgt)) (n : Nat → Nat) (x : Nat) : Prop :=
  ∃ y ∈ ts, ∃ l a, y.2 = .mem l a ∧ l.pa ≤ x ∧ x < l.pa + n y.1

/-- The bytes of scratchpads that lanes store to. -/
def lanesHitScr (ts : List (Nat × Tgt)) (n : Nat → Nat) (k x : Nat) : Prop :=
  ∃ y ∈ ts, ∃ off own, y.2 = .scr k off own ∧ off ≤ x ∧ x < off + n y.1

/-- R186: the bytes of the path's own earlier posted stores to the lines that its lanes store to, which are handed on first. -/
def lanesHand (u : State) (p : Party) (ts : List (Nat × Tgt)) (n : Nat → Nat) (x : Nat) : Prop :=
  ∃ q ∈ u.mem.posted, q.party = p ∧ q.pa ≤ x ∧ x < q.pa + q.bytes.length ∧
    ∃ y ∈ ts, ∃ l a, y.2 = .mem l a ∧ 0 < n y.1 ∧ lineOf l.pa = lineOf q.pa

/-- R401, R462: a lane load or store with E clear completes, and changes no byte of memory but those that `n` and its lanes' targets
name, and those that the path has stored before and a store of the same line hands on; its translations stand in `u`. -/
def LaneAccessFrame (i : Instr) (s t : State) (w : View) (j : LaneJob) (n : Nat → Nat) : Prop :=
  ∀ u ts, JobGoes t w j →
    resolveAll j.resolve (jobStart t w j).2 (laneList.filter (inMask (w.active &&& ~~~w.perf))) = (u, ts.map (fun x => (x.1, LRes.goes x.2))) →
    ∃ r, exec i s = .next r ∧ MemoryFrame u r (fun x => lanesHit ts n x ∨ lanesHand u w.p ts n x) (lanesHitScr ts n)

end Machine

end Sys2Proof
end

