-- ==== Sys2Proof/Certificates/Slice0/Obligations.lean ====
section
/-! DEFINITION. The statements for the provers. -/

open Sys2Proof Sys2Proof.Machine

/-- R315, R316, R326 to R329: encoding what a word decodes to gives the word back: no bit of a word is dropped. -/
def Obligations.EncodeOfDecode : Prop := ∀ w : W32, encode (decode w) = w

/-- R315, R316, R326 to R329: every instruction word of the opcode table is read back from its encoding with all its operands. -/
def Obligations.DecodeOfEncode : Prop := ∀ i : Instr, i.wellFormed = true → i.isEvent = false → decode (encode i) = i

/-- R315, R327 to R329: the words that the spec prints, and words that it reserves. -/
def Obligations.PrintedWordsDecode : Prop :=
  decode 0x01000000#32 = .opNop false ∧ decode 0x03810000#32 = .opGetm false 0x81#8 ∧ decode 0x08000012#32 = .opTrap false 0x12#16 ∧
  decode 0x17010203#32 = .opOr false 1#8 2#8 3#8 ∧ decode 0x18010203#32 = .opXor false 1#8 2#8 3#8 ∧
  decode 0x1B0102E4#32 = .opSar false 1#8 2#8 0xE4#8 ∧ decode 0x36B3B120#32 = .opPand false 0xB3#8 0xB1#8 2#4 ∧
  decode 0x4C9F4000#32 = .opSli false 0x9F#8 0x4000#16 ∧ decode 0x4D9F0A40#32 = .opSlh false 0x9F#8 0x0A40#16 ∧
  decode 0x4A004700#32 = .opSmov false 0#8 0x47#8 ∧ decode 0xF6000000#32 = .opExit ∧ decode 0x89000000#32 = .opRte true ∧
  decode 0#32 = .evReservedEncoding 0#32 ∧ decode 0x76000000#32 = .evReservedEncoding 0x76000000#32 ∧
  decode 0x01000001#32 = .evReservedEncoding 0x01000001#32

/-- R20, R85, R86, R215: when a stream holds the issue, its word is fetched and nothing holds it back, the step runs exactly what the word
decodes to; the fetched word is the four bytes at the PC, little-endian, as memory holds them then (notes/assumptions 81: R293 lets a core
keep a line; the model keeps none). Where this rests on the model's own choices: notes/assumptions 2, 81. -/
def Obligations.StepRunsTheDecodedWord : Prop :=
  (∀ s v s' u w t, s.engineTurn = false → s.cur = some v.p → s' = { s with ft := s.ft + 1, engineTurn := true } →
    s'.view v.p = some v → blockRuns s' v.b = true → v.ctl.ended = false →
    fetchWord s' v = .ok (u, w) → holdWord u v (decode w) w = (t, none) → step s = exec (decode w) t) ∧
  (∀ s v u l r, v.ctl.pc.toNat % 4 = 0 → xlateOne s v v.ctl.pc .fetch = .ok (u, l) →
    lineReady u (v.cause u) l.pa 4 l.typ .read = (r, .go) → physPoison r l.pa 4 = false →
    fetchWord s v = .ok (r, BitVec.ofNat 32 (leNat (ownRead r l.pa 4)))) ∧
  (∀ s v w, awaited v (decode w) = none → (if v.isBell then v.b.bell.deferred else v.g.deferred) = [] →
    w.getLsbD 31 = false → (∀ e, decode w ≠ .opRte e) → holdWord s v (decode w) w = (s, none))

/-- R10: from a state whose waiting stimuli are events of the device, every step goes on: no instruction stops the model. Where this rests
on the model's own choices: notes/assumptions 2, 10. -/
def Obligations.EveryStepGoesOn : Prop := ∀ s : State, s.stimuliOk → s.goesOn

/-- R5, R168: every step keeps the memories in their canonical form. Where this rests on the model's own choices: notes/assumptions 8. -/
def Obligations.StepKeepsMemories : Prop := ∀ s t : State, s.memoriesOk → step s = .next t → t.memoriesOk

/-- R10, R13, R274, R296, R300, R305, R307, R313: the device right after reset. Where this rests on the model's own choices:
notes/assumptions 2, 3, 4, 5, 6, 7, 8. -/
def Obligations.ResetState : Prop :=
  State.reset.memoriesOk ∧ State.reset.sizesOk ∧ State.reset.stimuliOk ∧
  (∀ f ∈ State.reset.fns, f.qroot = 0 ∧ f.pasidlim = 0 ∧ f.s2root = 0 ∧ f.evqbase = 0 ∧ f.evhead = 0 ∧ f.evtail = 0 ∧ f.flushaddr = 0 ∧
    f.prtimeout = 1000 ∧ f.drops = 0 ∧ f.atomcap = 0x7F#32) ∧
  State.reset.fabric.qthresh = 8 ∧ State.reset.fabric.leasef = 20000 ∧ (∀ w ∈ State.reset.fabric.windows, w.state = 0) ∧
  State.reset.fe.patch = [] ∧ State.reset.mgmt.owner = none ∧ State.reset.blocks = [] ∧ State.reset.ctxs = [] ∧
  ∀ a, cellGet State.reset.mem.cells a = 0

/-- R228, R472: trap entry of a path and of a bellwether, and what the handler flag does to the path's latches. The BSAVE of a bellwether,
which has no BRAND, is the model's choice: notes/assumptions 14. -/
def Obligations.TrapEntry : Prop :=
  (∀ s v x, s.view v.p = some v → v.isBell = false → v.g.tbase ≠ 0 → v.ctl.handler = false →
    ∃ u k1, (raise s v x).view v.p = some u ∧ (raise s v x).cur = none ∧
      u.g.k.toList = [v.ctl.pc, k1, x.k2, v.path.mask ++ v.g.mode.setWidth 32, x.lanes.setWidth 64] ++
        v.g.k.toList.drop 5 ∧
      k1.extractLsb' 32 32 = (if x.next && !v.ctl.inRun then 0xFFFFFFFF#32 else v.path.brand) ∧
      k1.extractLsb' 29 3 = 0 ∧ k1.extractLsb' 24 5 = BitVec.ofNat 5 v.ctl.runPos ∧ k1.extractLsb' 18 6 = 0 ∧
      k1.extractLsb' 16 2 = BitVec.ofNat 2 x.slot ∧ k1.getLsbD 15 = x.engine ∧ k1.getLsbD 14 = x.write ∧ k1.getLsbD 13 = x.stage2 ∧
      k1.extractLsb' 8 5 = BitVec.ofNat 5 (lowLane x.lanes) ∧ k1.extractLsb' 0 8 = BitVec.ofNat 8 x.code ∧
      u.g.mode = 0 ∧ u.ctl.handler = true ∧ u.ctl.pc = v.g.tbase + BitVec.ofNat 64 (64 * x.code) ∧
      u.ctl.runPos = 0 ∧ u.ctl.inRun = false ∧ u.path.brand = 0xFFFFFFFF#32 ∧
      u.path.mask = v.path.mask ∧ u.path.div = v.path.div ∧ u.path.divSpill = v.path.divSpill ∧
      u.ctl.ret = v.ctl.ret ∧ u.ctl.retSpill = v.ctl.retSpill ∧ u.path.latches = v.path.latches ∧
      u.g.path (!v.sec) = v.g.path (!v.sec) ∧ u.g.v = v.g.v ∧ u.g.s = v.g.s ∧ u.g.p = v.g.p) ∧
  (∀ s v x, s.view v.p = some v → v.isBell = true → v.b.bell.tbase ≠ 0 → v.ctl.handler = false →
    ∃ u k1, (raise s v x).view v.p = some u ∧ (raise s v x).cur = none ∧
      u.b.bell.k.toList = [v.ctl.pc, k1, x.k2, v.mode.setWidth 64, 0] ++ v.b.bell.k.toList.drop 5 ∧
      k1.extractLsb' 32 32 = (if x.next && !v.ctl.inRun then 0xFFFFFFFF#32 else 0) ∧ k1.extractLsb' 29 3 = 0 ∧ k1.extractLsb' 24 5 = BitVec.ofNat 5 v.ctl.runPos ∧ k1.extractLsb' 18 6 = 0 ∧
      k1.extractLsb' 16 2 = BitVec.ofNat 2 x.slot ∧ k1.getLsbD 15 = x.engine ∧ k1.getLsbD 14 = x.write ∧ k1.getLsbD 13 = x.stage2 ∧
      k1.extractLsb' 8 5 = BitVec.ofNat 5 (lowLane x.lanes) ∧ k1.extractLsb' 0 8 = BitVec.ofNat 8 x.code ∧
      u.mode = 0 ∧ u.ctl.handler = true ∧ u.ctl.pc = v.b.bell.tbase + BitVec.ofNat 64 (64 * x.code) ∧
      u.ctl.runPos = 0 ∧ u.ctl.inRun = false ∧ u.ctl.ret = v.ctl.ret ∧ u.ctl.retSpill = v.ctl.retSpill ∧
      u.b.bell.w = v.b.bell.w ∧ u.b.bell.q = v.b.bell.q) ∧
  (∀ e (i : BitVec 16) s v, e = false → Admitted s v (.opTrap e i) { streams := .gb } → v.traps = true →
    ∃ t u, exec (.opTrap e i) s = .next t ∧ t.view v.p = some u ∧
      (if v.isBell then u.b.bell.k.toList else u.g.k.toList).getD 0 0 = v.ctl.pc + 4) ∧
  (∀ (p : Path) w l pc ft, p.ctl.handler = true → (p.step w l pc).latches = p.latches ∧ (p.endRun ft).latches = p.latches) ∧
  (∀ v fs f w st, v.isBell = false → v.ctl.handler = true → f ∈ fs → isLatch f = true → streamOk v st = true → endOk v w = true →
    decodeFault v w st none true fs = some (exc fLATCH))

/-- R230: a fault that meets a set handler flag or TBASE = 0 stops the context: its stop is recorded and no party of it issues. -/
def Obligations.FaultWithoutHandlerStops : Prop :=
  ∀ s v x c, s.view v.p = some v → s.ctxs[v.b.ctx]? = some c → c.state = .running → v.traps = false →
    ∃ d, (raise s v x).ctxs[v.b.ctx]? = some d ∧ d.state = .stopping ∧ d.cause = some .faultStop ∧ d.stopCode = x.code ∧
      d.errCount = min (c.errCount + 1) 0xFFFFFFFF ∧ (raise s v x).cur = none ∧
      (∀ b k, (raise s v x).block? k = some b → b.ctx = v.b.ctx → blockRuns (raise s v x) b = false) ∧
      (∀ u, (raise s v x).view v.p = some u → u.ctl.pc = v.ctl.pc ∧ u.g.v = v.g.v ∧ u.g.s = v.g.s ∧ u.g.p = v.g.p ∧ u.g.k = v.g.k)

/-- R229, R447: a return from a trap whose handler run passes its brand check, mid-run or at a run start; RTE outside a handler, or to
what is no run start, raises ILLOP. Where this rests on the model's own choices: notes/assumptions 13, 21. -/
def Obligations.ReturnFromTrap : Prop :=
  (∀ s v w t, s.view v.p = some v → v.isBell = false → v.ctl.handler = true →
    endOfRun (retirePath s v w .invalid (v.ctl.pc + 4) 0) v id = (t, true) →
    ∃ u k0 k1, (rteTaken s v w).view v.p = some u ∧ k0 = v.g.k.toList.getD 0 0 ∧ k1 = v.g.k.toList.getD 1 0 ∧
      u.ctl.handler = false ∧ u.mode = (v.g.k.toList.getD 3 0).setWidth 16 ∧ u.ctl.pc = k0 ∧ u.path.mask = v.path.mask ∧
      (k0 = v.ctl.trapPc → k1.extractLsb' 24 5 ≠ 0 → u.ctl.inRun = true ∧ u.ctl.runPos = (k1.extractLsb' 24 5).toNat ∧
        u.path.latches = v.path.latches ∧ u.path.brand = k1.extractLsb' 32 32) ∧
      (k0 ≠ v.ctl.trapPc ∨ k1.extractLsb' 24 5 = 0 → u.ctl.inRun = false ∧ u.ctl.runPos = 0 ∧
        (∀ l ∈ u.path.latches.toList, l.valid = false) ∧ u.path.brand = 0xFFFFFFFF#32)) ∧
  (∀ s v w, s.view v.p = some v → v.isBell = true → ∃ u, (rteTaken s v w).view v.p = some u ∧
    u.ctl.handler = false ∧ u.mode = (v.b.bell.k.toList.getD 3 0).setWidth 16 ∧ u.ctl.pc = v.b.bell.k.toList.getD 0 0) ∧
  (∀ e s v, Admitted s v (.opRte e) { streams := .gb, guarded := false } → v.ctl.handler = false →
    exec (.opRte e) s = .next (raise s v (exc fILLOP))) ∧
  (∀ e s v t, Admitted s v (.opRte e) { streams := .gb, guarded := false } → v.ctl.handler = true → v.isBell = false →
    modeOk v (rteMode v) = true → (rteTo v).2 = false → isRunStart s v.b (rteTo v).1 = (t, .ok false) →
    exec (.opRte e) s = .next (raise t v (exc fILLOP))) ∧
  (∀ e s v, Admitted s v (.opRte e) { streams := .gb, guarded := false } → modeOk v (rteMode v) = false →
    exec (.opRte e) s = .next (raise s v (exc fILLOP)))

/-- R327, R330: a word whose stream may not run it raises STREAM, and a reserved major raises ILLOP in every stream. -/
def Obligations.StreamChecks : Prop :=
  ∀ i s v, i.isEvent = false → s.cur = some v.p → s.view v.p = some v →
    (∀ st, opStreams (encode i) = some st → streamOk v st = false → exec i s = .next (raise s v (exc fSTREAM))) ∧
    (opStreams (encode i) = none → exec i s = .next (raise s v (exc fILLOP)))

/-- R81: a word at run position 23 with E clear raises ILLOP; a word of the branch row with E clear is of no instruction, and raises
ILLOP; in the bellwether E does not choose who issues next. -/
def Obligations.RunsEndWithE : Prop :=
  (∀ i s v, i.isEvent = false → s.cur = some v.p → s.view v.p = some v → earlyOk v i = true → v.ctl.runPos = 23 →
    (encode i).getLsbD 31 = false → exec i s = .next (raise s v (exc fILLOP))) ∧
  (∀ w : W32, w.getLsbD 31 = false → (w.extractLsb' 24 7).toNat / 8 = 0xE → decode w = .evReservedEncoding w) ∧
  (∀ w s v, s.cur = some v.p → s.view v.p = some v → w.getLsbD 31 = false → (w.extractLsb' 24 7).toNat / 8 = 0xE →
    earlyOk v (decode w) = true → exec (decode w) s = .next (raise s v (exc fILLOP))) ∧
  (∀ s v w l pc fold post, v.isBell = true → (retire s v w l pc fold post).cur = none)

/-- R60, R87, R236, R340, R429, R448: what the register words leave unchanged when they have had their effect: the word has retired with E
clear, no lane has died and no handler has been entered. -/
def Obligations.RegisterWordsFrame : Prop :=
  ∀ i s v t u, registerWord i = true → (encode i).getLsbD 31 = false → s.cur = some v.p → s.view v.p = some v → exec i s = .next t →
    t.view v.p = some u → u.ctl.pc = v.ctl.pc + 4 → u.ctl.handler = v.ctl.handler → u.g.dead = v.g.dead → RegisterFrame s t v i

/-- R401, R402, R405, R462, R463, R466: lane loads change no byte of memory, and lane stores none but those of their lanes' addresses as
translated, and those that the path has stored before as posted writes to the same lines (R186), which are handed on first. Where this rests
on the model's own choices: notes/assumptions 107. -/
def Obligations.LaneAccessesFrame : Prop :=
  ∀ d a (sr : BitVec 5) (h : BitVec 3) s v t w fts,
    (Admitted s v (.opSt false d a sr h)
        { streams := .g, feat := laneFeat v, ok := hintOk true h && byteTy v && copySrcOk v d && offsetOk v a, lats := [a, d] } →
      fetchLanes s v [(a, 1), (sField v sr, 0), (d, tyRegs v.ty)] = .ok (t, w, fts) →
      LaneAccessFrame (.opSt false d a sr h) s t w
        (storeJob w (fun l => laneVa w sr fts l) (fun s x => memTgt s w x .write) (fun s id ts => plainStores h.toNat w s id ts (storeBytes w fts)))
        (fun l => (storeBytes w fts l).length)) ∧
    (Admitted s v (.opSts false d a sr)
        { streams := .g, feat := laneFeat v, ok := byteTy v && copySrcOk v d && offsetOk v a, lats := [a, d] } →
      fetchLanes s v [(a, 1), (sField v sr, 0), (d, tyRegs v.ty)] = .ok (t, w, fts) →
      LaneAccessFrame (.opSts false d a sr) s t w
        (storeJob w (fun l => laneScr w sr fts l) (fun s x => lresOf s (scratchTgt s (portsFirst w (laneScr w sr fts) (storeBytes w fts)) x.toNat true) true)
          (fun s id ts => plainStores 0 w s id ts (storeBytes w fts)))
        (fun l => (storeBytes w fts l).length)) ∧
    (Admitted s v (.opLd false d a sr h)
        { streams := .g, feat := laneFeat v, ok := hintOk false h && byteTy v && loadDstOk v d && offsetOk v a, lats := [a] } →
      fetchLanes s v [(a, 1), (sField v sr, 0)] = .ok (t, w, fts) →
      LaneAccessFrame (.opLd false d a sr h) s t w
        (loadJob w d (fun l => laneVa w sr fts l) (h == 3#3) (h != 3#3) false (fun s x => memTgt s w x .read)) (fun _ => 0)) ∧
    (Admitted s v (.opLds false d a sr)
        { streams := .g, feat := laneFeat v, ok := byteTy v && loadDstOk v d && offsetOk v a, lats := [a] } →
      fetchLanes s v [(a, 1), (sField v sr, 0)] = .ok (t, w, fts) →
      (resvLanes w (fun l => laneScr w sr fts l)).length ≤ ringFree w.b →
      LaneAccessFrame (.opLds false d a sr) s t w
        (loadJob w d (fun l => laneScr w sr fts l) true false false (fun s x => lresOf s (scratchTgt s w x.toNat false) false)) (fun _ => 0))

/-- R449: SHL, SHR and SAR in the lanes of ACTIVE over the integer types, their values, and ILLOP for a float TYPE and for an FP constant
in either field. -/
def Obligations.ShiftRules : Prop :=
  ShiftCompletes .opShl shlE ∧ ShiftCompletes .opShr shrE ∧ ShiftCompletes .opSar sarE ∧
  (∀ ty x c, tyInt ty = true → x < 2 ^ tyBits ty → c < 2 ^ 32 →
    shlE ty x c = x * 2 ^ c % 2 ^ tyBits ty ∧ shrE ty x c = x / 2 ^ c ∧ sarE ty x c < 2 ^ tyBits ty ∧
    ∀ k < tyBits ty, (sarE ty x c).testBit k = x.testBit (if k + c < tyBits ty then k + c else tyBits ty - 1)) ∧
  (∀ e d a b s v, s.cur = some v.p → s.view v.p = some v → v.isBell = false →
    tyInt v.ty = false ∨ isFC a = true ∨ isFC b = true →
    exec (.opShl e d a b) s = .next (raise s v (exc fILLOP)) ∧ exec (.opShr e d a b) s = .next (raise s v (exc fILLOP)) ∧
    exec (.opSar e d a b) s = .next (raise s v (exc fILLOP))) ∧
  decode 0x1B0102E4#32 = .opSar false 1#8 2#8 0xE4#8 ∧ sarE .i32 0x80000010 4 = 0xF8000001 ∧
  place .u8 (sarE .u8 0x80 1) = 0xC0

/-- R344, R428, R479: AND, OR and XOR in the lanes of ACTIVE over the integer types, and ILLOP for a float TYPE and for an FP constant. -/
def Obligations.BitwiseRules : Prop :=
  TwoSourceCompletes .opAnd tyInt (fun _ _ x y => Nat.land x y) ∧ TwoSourceCompletes .opOr tyInt (fun _ _ x y => Nat.lor x y) ∧
  TwoSourceCompletes .opXor tyInt (fun _ _ x y => Nat.xor x y) ∧
  (∀ v ft l, tyInt v.ty = true → isIC ft.f = true → opnd v v.ty ft l = ft.f.toNat % 16) ∧
  (∀ e d a b s v, s.cur = some v.p → s.view v.p = some v → v.isBell = false →
    tyInt v.ty = false ∨ isFC a = true ∨ isFC b = true →
    exec (.opAnd e d a b) s = .next (raise s v (exc fILLOP)) ∧ exec (.opOr e d a b) s = .next (raise s v (exc fILLOP)) ∧
    exec (.opXor e d a b) s = .next (raise s v (exc fILLOP))) ∧
  decode 0x17010203#32 = .opOr false 1#8 2#8 3#8 ∧ decode 0x18010203#32 = .opXor false 1#8 2#8 3#8

/-- R342, R343, R467, R419, R416, R409, R420: the two-source lane operations but the bitwise ones and the shifts. R340: the unary lane
operations ABS, NEG, NOT, RCP, RSQ, SQRT, EXP2, LOG2, SIN, COS, RINT, CLZ, POPC, BREV and CLASS. R408, R358, R359, R385, R417: MAD, BFE,
BFI, CVT and MOV. Where this rests on the model's own choices: notes/assumptions 18 (MOV of a latch), 27, 105 (EXP2 under SAT). -/
def Obligations.LaneArithmeticWordsComplete : Prop :=
  (TwoSourceCompletes .opAdd tyArith addE ∧ TwoSourceCompletes .opSub tyArith subE ∧ TwoSourceCompletes .opMul tyArith mulE ∧
  TwoSourceCompletes .opMin tyArith (mmE false) ∧ TwoSourceCompletes .opMax tyArith (mmE true) ∧
  TwoSourceCompletes .opMulh tyInt (fun t _ x y => mulhE t x y)) ∧
  (UnaryCompletes .opAbs tySign (fun t rm x => place t (absE t rm x)) ∧ UnaryCompletes .opNeg tySign (fun t rm x => place t (negE t rm x)) ∧
  UnaryCompletes .opNot tyInt (fun t _ x => place t (notE t x)) ∧ UnaryCompletes .opRcp tyFloat (onFmt frcpF) ∧
  UnaryCompletes .opRsq tyFloat (onFmt frsqF) ∧ UnaryCompletes .opSqrt tyFloat (onFmt fsqrtF) ∧
  UnaryCompletes .opExp2 tyFloat (onFmt fexp2F) ∧ UnaryCompletes .opLog2 tyFloat (onFmt flog2F) ∧
  UnaryCompletes .opSin tyFloat (onFmt fsinF) ∧ UnaryCompletes .opCos tyFloat (onFmt fcosF) ∧
  UnaryCompletes .opRint tyFloat (onFmt frintF) ∧ UnaryCompletes .opClz tyInt (fun t _ x => clzN (tyBits t) x) ∧
  UnaryCompletes .opPopc tyInt (fun t _ x => popcN (tyBits t) x) ∧
  UnaryCompletes .opBrev tyInt (fun t _ x => place t (brevN (tyBits t) x)) ∧
  UnaryCompletes .opClass tyFloat (fun t _ x => classF (fmtOf t) x)) ∧
  (∀ e x y z c,
    LaneWordCompletes (.opMad e x y z) (fun v => tyArith v.ty && vregsOk v (tyRegs v.ty) x && arithSrcOk v true y && arithSrcOk v true z)
      (fun v => [(y, tyRegs v.ty), (z, tyRegs v.ty), (x, tyRegs v.ty)]) x (fun v => tyRegs v.ty)
      (fun v fts l => place v.ty (madE v.ty v.rm (opndAt v v.ty fts 0 l) (opndAt v v.ty fts 1 l) (opndAt v v.ty fts 2 l))) ∧
    LaneWordCompletes (.opBfe e x y z) (fun v => tyBf v.ty && arithSrcOk v false y && laneSrcOk v 1 true false z)
      (fun v => [(y, tyRegs v.ty), (z, 1)]) x (fun v => tyRegs v.ty)
      (fun v fts l => bfeE v.ty (opndAt v v.ty fts 0 l) (rawAt v 1 fts 1 l)) ∧
    LaneWordCompletes (.opBfi e x y z)
      (fun v => tyBf v.ty && vregsOk v (tyRegs v.ty) x && arithSrcOk v false y && laneSrcOk v 1 true false z)
      (fun v => [(y, tyRegs v.ty), (z, 1), (x, tyRegs v.ty)]) x (fun v => tyRegs v.ty)
      (fun v fts l => bfiE v.ty (opndAt v v.ty fts 2 l) (opndAt v v.ty fts 0 l) (rawAt v 1 fts 1 l)) ∧
    LaneWordCompletes (.opCvt e x y c)
      (fun v => !(v.ty == .f4 || v.ty == .f4s) && !(tyOf c.toNat == .f4 || tyOf c.toNat == .f4s) && arithSrcOk v true y)
      (fun v => [(y, tyRegs v.ty)]) x (fun _ => tyRegs (tyOf c.toNat))
      (fun v fts l => place (tyOf c.toNat) (cvtE v.ty (tyOf c.toNat) v.rm (opndAt v v.ty fts 0 l))) ∧
    LaneWordCompletes (.opMov e x y) (fun v => copySrcOk v y) (fun v => [(y, tyRegs v.ty)]) x (fun v => tyRegs v.ty)
      (fun v fts l => rawAt v (tyRegs v.ty) fts 0 l))

/-- R451, R375: SEL takes A where the guard passes and B elsewhere, over the live lanes; CMP writes a predicate in ACTIVE. R386, R387, R474:
the block-format words. Where this rests on the model's own choices: notes/assumptions 18, 20, 104 (the classes of CVTB's source). -/
def Obligations.SelectCompareAndBlockFormatWordsComplete : Prop :=
  ((∀ e d a b s v t w fts,
    Admitted s v (.opSel e d a b)
      { streams := .g, feat := laneFeat v, ok := copySrcOk v a && copySrcOk v b && laneDstOk v (tyRegs v.ty) d, lats := [a, b] } →
    fetchOps s v [(a, tyRegs v.ty), (b, tyRegs v.ty)] (pushOf d)
      (fun u fts => diesOf s u (u.live &&& u.guardMask) (fts.take 1) [(a, tyRegs v.ty)] |||
        diesOf s u (u.live &&& ~~~u.guardMask) (fts.drop 1) [(b, tyRegs v.ty)]) = .ok (t, w, fts) → HasRoom w d →
    Completes (.opSel e d a b) s v
      (laneFinish t w d (tyRegs v.ty) w.live (fun l => rawAt w (tyRegs v.ty) fts (if inMask w.guardMask l then 0 else 1) l))) ∧
  (∀ e c p a b s v t w fts,
    Admitted s v (.opCmp e c p a b)
      { streams := .g, feat := laneFeat v, lats := [a, b],
        ok := tyArith v.ty && decide (c.toNat ≤ (if tyFloat v.ty then 13 else 5)) && arithSrcOk v true a && arithSrcOk v true b } →
    fetchOps s v [(a, tyRegs v.ty), (b, tyRegs v.ty)] none
      (fun u fts => diesOf s u u.active fts [(a, tyRegs v.ty), (b, tyRegs v.ty)]) = .ok (t, w, fts) →
    Completes (.opCmp e c p a b) s v
      (predFinish t w p.toNat w.active
        (maskOf (fun l => condE c.toNat w.ty w.rm (opndAt w w.ty fts 0 l) (opndAt w w.ty fts 1 l)))))) ∧
  ((∀ e d a given s v t w fts,
    Admitted s v (if given then .opCvtbGiven e d a else .opCvtb e d a)
      { streams := .g, feat := some 3, lats := [a],
        ok := (v.ty == .f4 || v.ty == .f4s) && vregsOk v 1 d && laneSrcOk v 1 false false a } →
    fetchOps s v [(a, 1)] none (fun v fts => diesOf s v v.active fts [(a, 1)]) = .ok (t, w, fts) →
    (given = true → s.poisoned (.vlane w.p.blk w.gi d.toNat 4) = false) →
    ∃ h, h = (if given then blkHead w.g d.toNat (w.ty == .f4s)
        else blkHeader w.rm (w.ty == .f4s) ((laneList.filter (inMask w.active)).map (fun l => rawAt w 1 fts 0 l))) ∧
      Completes (if given then .opCvtbGiven e d a else .opCvtb e d a) s v
        (laneFinish t w d 1 0x1F#32 (fun l => if l == 4 then h else
          (List.range 8).foldl (fun x j => x + (if inMask w.active (8 * l + j) then
            blkEncode w.rm.rnd h (w.ty == .f4s) (rawAt w 1 fts 0 (8 * l + j)) else 0) * 2 ^ (4 * j)) 0))) ∧
  (∀ e d a s v,
    Admitted s v (.opUnpb e d a) { streams := .g, feat := some 3, ok := (v.ty == .f4 || v.ty == .f4s) && vregsOk v 1 a && laneDstOk v 1 d } →
    (∀ l < 5, s.poisoned (.vlane v.p.blk v.gi a.toNat l) = false) → HasRoom v d →
    Completes (.opUnpb e d a) s v
      (laneFinish s v d 1 v.active (fun l => blkDecode (blkCode v.g a.toNat l) (blkHead v.g a.toNat (v.ty == .f4s)) (v.ty == .f4s)))))

/-- R454: the shuffles. R475, R430: the votes and PCNT. R395, R397 to R399: the group reductions, and GSCAN's prefixes. R429, R437: the
predicate words. -/
def Obligations.CrossLaneWordsComplete : Prop :=
  (ShuffleCompletes .opShfl (fun _ n => n) ∧ ShuffleCompletes .opShfx (fun l n => Nat.xor l n) ∧
  ShuffleCompletes .opShup (fun l n => if n ≤ l then l - n else l) ∧ ShuffleCompletes .opShdn (fun l n => if l + n ≤ 31 then l + n else l)) ∧
  (VoteCompletes .opVany (fun p l => if p &&& l != 0 then 1 else 0) false ∧
  VoteCompletes .opVall (fun p l => if p &&& l == l then 1 else 0) false ∧
  VoteCompletes .opVuni (fun p l => if p &&& l == l || p &&& l == 0 then 1 else 0) false ∧
  VoteCompletes .opVbal (fun p l => p &&& l) true ∧
  (∀ e d a s v,
    Admitted s v (.opPcnt e d a) { streams := .g, ok := isPred a && (isS d || laneDstOk v 1 d) } → HasRoom v d →
    Completes (.opPcnt e d a) s v
      (if isS d then sregFinish s v (d.toNat % 32) (BitVec.ofNat 64 (popMask (v.g.pred (a.toNat % 16) &&& v.live)))
       else laneFinish s v d 1 v.active (fun _ => popMask (v.g.pred (a.toNat % 16) &&& v.live))))) ∧
  (ReductionCompletes .opGsum 0 ∧ ReductionCompletes .opGmin 1 ∧ ReductionCompletes .opGmax 2 ∧
  (∀ e x y,
    LaneWordCompletes (.opGscan e x y) (fun v => tyArith v.ty && arithSrcOk v true y) (fun v => [(y, tyRegs v.ty)]) x
      (fun v => tyRegs v.ty)
      (fun v fts l => place v.ty (redTree 0 v.ty v.rm (treeIns v (v.active &&& maskOf (fun k => decide (k ≤ l))) fts))))) ∧
  ((∀ e x y b,
    PredicateCompletes (.opPand e x y b) x y (fun g => g.pred (y.toNat % 16) &&& g.pred b.toNat) ∧
    PredicateCompletes (.opPor e x y b) x y (fun g => g.pred (y.toNat % 16) ||| g.pred b.toNat) ∧
    PredicateCompletes (.opPxor e x y b) x y (fun g => g.pred (y.toNat % 16) ^^^ g.pred b.toNat) ∧
    PredicateCompletes (.opPnot e x y) x y (fun g => ~~~(g.pred (y.toNat % 16)))) ∧
  PsetCompletes .opPset lo32 ∧ PsetCompletes .opPsetFirst (fun n => maskOf (fun l => decide (l < n.toNat))) ∧
  (∀ e d a s v t w fts,
    Admitted s v (.opPsetNz e d a)
      { streams := .g, ok := isPred d && laneSrcOk v 1 (!tyStorage v.ty) (tyFloat v.ty) a, lats := [a] } →
    fetchOps s v [(a, 1)] none (fun v fts => diesOf s v v.active fts [(a, 1)]) = .ok (t, w, fts) →
    Completes (.opPsetNz e d a) s v (predFinish t w (d.toNat % 16) w.active (maskOf (fun l => rawAt w 1 fts 0 l != 0)))))

/-- R448, R458, R459: the scalar row. R450: SCMP writes a predicate of the bellwether, or one of the group in all lanes. -/
def Obligations.ScalarWordsComplete : Prop :=
  (Scalar2Completes .opSadd (· + ·) ∧ Scalar2Completes .opSsub (· - ·) ∧ Scalar2Completes .opSmul (· * ·) ∧
  Scalar2Completes .opSand (· &&& ·) ∧ Scalar2Completes .opSor (· ||| ·) ∧ Scalar2Completes .opSxor (· ^^^ ·) ∧
  Scalar2Completes .opSshl (fun a b => if b.toNat ≥ 64 then 0 else a <<< b.toNat) ∧
  Scalar2Completes .opSshr (fun a b => if b.toNat ≥ 64 then 0 else a >>> b.toNat) ∧
  Scalar2Completes .opSmin (fun a b => if a.slt b then a else b) ∧ Scalar2Completes .opSmax (fun a b => if a.slt b then b else a) ∧
  (∀ e d a, ScalarCompletes (.opSmov e d a) [a] d (fun xs => xs.getD 0 0)) ∧
  (∀ e d (i : BitVec 16), ScalarCompletes (.opSli e d i) [] d (fun _ => i.signExtend 64)) ∧
  (∀ e d (i : BitVec 16) s v t w fts,
    Admitted s v (.opSlh e d i) { streams := .gb, ok := sRegOk v d } →
    fetchOps s v [(d, 0)] none (fun _ _ => 0) = .ok (t, w, fts) →
    Completes (.opSlh e d i) s v
      (scalarFinish t w d ((w.sreg (if w.isBell then d.toNat else d.toNat % 32)) <<< 16 ||| i.setWidth 64)))) ∧
  (∀ e c p a b s v t w fts,
    Admitted s v (.opScmp e c p a b)
      { streams := .gb, lats := [a, b],
        ok := scmpOk c.toNat && (!v.isBell || decide (p.toNat < 8)) && sSrcOk v true a && sSrcOk v true b } →
    fetchOps s v [(a, 0), (b, 0)] none (fun _ _ => 0) = .ok (t, w, fts) →
    ∃ r, r = condW c.toNat 64 true (pathVal w fts 0).toNat (pathVal w fts 1).toNat ∧
      Completes (.opScmp e c p a b) s v
        (if w.isBell then .done (t.modBell w.p.blk (fun q => q.setQ p.toNat r)) .invalid
         else predFinish t w p.toNat 0xFFFFFFFF#32 (if r then 0xFFFFFFFF#32 else 0)))

/-- R426, R452, R453, R394, R384, R388, R371, R480, R372: NOP, the words of MODE and of the control registers, CHQ, YIELD and CKPT. R78,
R468: SYSV, whose FT selector completes only once FT has moved past the stream's last read (R10). Where this rests on the model's own
choices: notes/assumptions 28, 74 (the 16 clocks of a bellwether's YIELD). -/
def Obligations.ModeControlAndSystemWordsComplete : Prop :=
  ((∀ e s v, Admitted s v (.opNop e) { streams := .gb } → Completes (.opNop e) s v (.done s .invalid)) ∧
  (∀ e i s v, Admitted s v (.opSetm e i) { streams := .gb, ok := modeOk v i } →
    Completes (.opSetm e i) s v (.done (setMode s v i) .invalid)) ∧
  (∀ e a s v t w fts, Admitted s v (.opSetmx e a) { streams := .gb, ok := sSrcOk v true a, lats := [a] } →
    fetchOps s v [(a, 0)] none (fun _ _ => 0) = .ok (t, w, fts) →
    ((fts.map (sval w)).getD 0 0).toNat < 2 ^ 16 → modeOk w (((fts.map (sval w)).getD 0 0).setWidth 16) = true →
    Completes (.opSetmx e a) s v (.done (setMode t w (((fts.map (sval w)).getD 0 0).setWidth 16)) .invalid)) ∧
  (∀ e d s v, Admitted s v (.opGetm e d) { streams := .gb, ok := sDstOk v true d } → HasRoom v d →
    Completes (.opGetm e d) s v (scalarFinish s v d (v.mode.setWidth 64))) ∧
  (∀ e d (i : BitVec 16) s v,
    Admitted s v (.opCrd e d i) { streams := (cregStream i.toNat).getD .gb, ok := (cregStream i.toNat).isSome && sDstOk v true d } →
    HasRoom v d →
    Completes (.opCrd e d i) s v (scalarFinish s v d (if v.isBell then crdBell v.b.bell i.toNat else crdGroup v i.toNat))) ∧
  (∀ e a (i : BitVec 16) s v t w fts,
    Admitted s v (.opCwr e a i)
      { streams := (cregStream i.toNat).getD .gb, ok := (cregStream i.toNat).isSome && sSrcOk v false a, lats := [a] } →
    fetchOps s v [(a, 0)] none (fun _ _ => 0) = .ok (t, w, fts) →
    Completes (.opCwr e a i) s v
      (.done (if w.isBell then t.modBell w.p.blk (fun b => cwrBell b i.toNat ((fts.map (sval w)).getD 0 0))
              else t.modGroup w.p.blk w.gi (fun g => cwrGroup g i.toNat ((fts.map (sval w)).getD 0 0))) .invalid)) ∧
  (∀ e d c s v k,
    Admitted s v (.opChq e d c) { streams := .gb, ok := decide (k < v.b.decl.channels) && sDstOk v false d } → chanOf c = some k →
    Completes (.opChq e d c) s v
      (scalarFinish s v d (BitVec.ofNat 64 ((v.b.chans.getD k []).length + (if v.b.decl.chanMask.getLsbD k then 256 else 0))))) ∧
  (∀ e s v, Admitted s v (.opYield e) { streams := .gb } →
    Completes (.opYield e) s v (.done (if v.isBell then s.modBell v.p.blk (fun b => { b with yieldUntil := s.ft + 16 })
      else s.modCtl v.p (fun c => { c with yielded := true })) .invalid)) ∧
  (∀ e s v, Admitted s v (.opCkpt e) { streams := .gb } → Completes (.opCkpt e) s v (.done (requestCut s v.b.ctx) .invalid))) ∧
  (∀ e d (i : BitVec 16) s v,
    Admitted s v (.opSysv e d i) { streams := .gb, feat := if sysvVec v d then laneFeat v else none, ok := sysvOk v d i.toNat } →
    (i.toNat = 0xE → ftRead s v = true) → HasRoom v d →
    ∃ t, t = (if i.toNat == 0xE then noteFt s v else s) ∧
      Completes (.opSysv e d i) s v
        (if sysvVec v d then
          laneFinish t v d (tyRegs v.ty) v.active
            (fun l => if i.toNat == 0 then l else (sysValue s v i.toNat).getD 0 % (if tyWide v.ty then 2 ^ 64 else 2 ^ 32))
         else scalarFinish t v d (BitVec.ofNat 64 ((sysValue s v i.toNat).getD 0))))

/-- R402, R403, R405: the lane loads. R463, R465, R466: the lane stores. Where this rests on the model's own choices: notes/assumptions 21,
22, 29, 49, 76, 85, 86. -/
def Obligations.LaneMemoryWordsComplete : Prop :=
  (∀ e d a (sr : BitVec 5) (h : BitVec 3),
    LaneLoadCompletes (.opLd e d a sr h) (hintOk false h) d a sr false (h == 3#3) (h != 3#3) false .no
      (fun v fts l => laneVa v sr fts l) (fun v s x => memTgt s v x .read) ∧
    LaneLoadCompletes (.opLda e d a sr h) (decide (h.toNat ≤ 5)) d a sr false true false true (syncFwd h.toNat)
      (fun v fts l => laneVa v sr fts l)
      (fun v s x => if h == 0#3 then noPort (lresOf s (scratchTgt64 s v x false) false) else noSm (memTgt s v x .read) false) ∧
    LaneLoadCompletes (.opLds e d a sr) true d a sr true true false false .no
      (fun v fts l => laneScr v sr fts l) (fun v s x => lresOf s (scratchTgt s v x.toNat false) false)) ∧
  (∀ e d a (sr : BitVec 5) (h : BitVec 3),
    LaneStoreCompletes (.opSt e d a sr h) (hintOk true h) d a sr .no none (fun v fts l => laneVa v sr fts l)
      (fun v _ s x => memTgt s v x .write) (plainStores h.toNat) ∧
    LaneStoreCompletes (.opStl e d a sr h) (decide (h.toNat ≤ 5)) d a sr (syncFwd h.toNat) (some h.toNat) (fun v fts l => laneVa v sr fts l)
      (fun v _ s x => if h == 0#3 then lresOf s (scratchTgt64 s v x true) true else noSm (memTgt s v x .write) true) syncStores ∧
    LaneStoreCompletes (.opSts e d a sr) true d a sr .no none (fun v fts l => laneScr v sr fts l)
      (fun v fts s x => lresOf s (scratchTgt s (portsFirst v (laneScr v sr fts) (storeBytes v fts)) x.toNat true) true) (plainStores 0))

/-- R345 to R350, R368 to R370, R440: the atomic words. Where this rests on the model's own choices: notes/assumptions 21. -/
def Obligations.AtomicWordsComplete : Prop :=
  ∀ e d a (o : BitVec 4) (sc : BitVec 3),
    AtomicCompletes (.opAtom e d a o sc) sc.toNat (aopFeat o.toNat) (fun v => aopOk o.toNat v.ty && vregsOk v (tyRegs v.ty) d) a
      (fun v => [(d, tyRegs v.ty)]) (fun v => tyBytes v.ty) .ac (fun v => .vreg d.toNat (tyRegs v.ty)) rawWords
      (fun v fts l => .rmw o.toNat (tyCode v) (atomData v fts l)) ∧
    AtomicCompletes (.opRed e d a o sc) sc.toNat (aopFeat o.toNat) (fun v => aopOk o.toNat v.ty && arithSrcOk v true d) a
      (fun v => [(d, tyRegs v.ty)]) (fun v => tyBytes v.ty) .sc (fun _ => .none) (fun _ => [])
      (fun v fts l => .rmw o.toNat (tyCode v) (atomData v fts l)) ∧
    AtomicCompletes (.opCas e d a sc) sc.toNat (fun _ => none) (fun v => casTy v.ty && vregsOk v (2 * tyRegs v.ty) d) a
      (fun v => [(d, 2 * tyRegs v.ty)]) (fun v => tyBytes v.ty) .ac (fun v => .vreg d.toNat (tyRegs v.ty)) rawWords
      (fun v _ l =>
        if tyWide v.ty then .cas (leBytes 8 (pairVal v d.toNat l)) (leBytes 8 (pairVal v (d.toNat + 2) l))
        else .cas (leBytes 4 (v.g.vlane d.toNat l).toNat) (leBytes 4 (v.g.vlane (d.toNat + 1) l).toNat)) ∧
    AtomicCompletes (.opCas128 e d a sc) sc.toNat (fun _ => some 6) (fun v => (v.ty == .i64 || v.ty == .u64) && vregsOk v 8 d) a
      (fun _ => [(d, 8)]) (fun _ => 16) .ac (fun _ => .vreg d.toNat 4) rawWords
      (fun v _ l => .cas (leBytes 8 (pairVal v d.toNat l) ++ leBytes 8 (pairVal v (d.toNat + 2) l))
        (leBytes 8 (pairVal v (d.toNat + 4) l) ++ leBytes 8 (pairVal v (d.toNat + 6) l))) ∧
    AtomicCompletes (.opAtom2 e d a o sc) sc.toNat (aopFeat o.toNat) (fun v => aopOk o.toNat v.ty && vregsOk v (2 * tyRegs v.ty) d) a
      (fun v => [(d, 2 * tyRegs v.ty)]) (fun v => 2 * tyBytes v.ty) .ac (fun v => .vreg d.toNat (2 * tyRegs v.ty)) rawWords
      (fun v _ l =>
        if tyWide v.ty then .rmw2 o.toNat (tyCode v) (leBytes 8 (pairVal v d.toNat l)) (leBytes 8 (pairVal v (d.toNat + 2) l))
        else .rmw2 o.toNat (tyCode v) (leBytes 4 (v.g.vlane d.toNat l).toNat) (leBytes 4 (v.g.vlane (d.toNat + 1) l).toNat))

/-- R441 to R443: REDH. -/
def Obligations.HerdReductionCompletes : Prop :=
  ∀ e d a (tg : BitVec 4) (sc : BitVec 3) s v t w fts,
    Admitted s v (.opRedh e d a tg sc)
      { streams := .g, feat := some 5, lats := [d],
        ok := decide (1 ≤ sc.toNat) && decide (sc.toNat ≤ 4) && tagTy tg.toNat v.ty && vregsOk v 2 a && arithSrcOk v true d } →
    v.b.pair = none → fetchLanes s v [(d, tyRegs v.ty), (a, 2)] = .ok (t, w, fts) →
    JobGoes t w (herdJob w a tg.toNat (fun l => atomData w fts l)) →
    Completes (.opRedh e d a tg sc) s v (laneJob s t w (herdJob w a tg.toNat (fun l => atomData w fts l)))

/-- R456, R457, R461: SLD of a word that is at hand into a register, and SST of a word that its line takes, when their one access goes
through. A far word's value is the one at its performance, and its registers come with its data: notes/assumptions 49. Where this rests on
the model's own choices: notes/assumptions 32, 49. -/
def Obligations.ScalarMemoryWordsComplete : Prop :=
  (∀ e d a (sr : BitVec 5) (h : BitVec 3) s v t w fts t₁ l t₂ bs far,
    Admitted s v (.opSld e d a sr h) { streams := .gb, ok := hintOk false h && sSrcOk v true a && sDstOk v true d, lats := [a] } →
    fetchOps s v [(a, 0), (sField v sr, 0)] (pushOf d) (fun _ _ => 0) = .ok (t, w, fts) →
    counterFull s v.p .lc = false →
    Reaches t w (baseOf w sr + pathVal w fts 0) 8 .read t₁ l →
    readFor t₁ w l 8 (h == 3#3) (h != 3#3) = (t₂, .ok (.ok (bs, far))) →
    pushOf d = none →
    ∃ id u reg, (id, u) = newOp t₂ w .lc reg ∧
      reg = (if w.isBell then .sreg d.toNat else if isS d then .sreg (d.toNat % 32) else .none) ∧
      Completes (.opSld e d a sr h) s v
        (.done (if far then modOp u w.p id (fun o => { o with
            pending := [(0, 0, BitVec.ofNat 32 (leNat bs)), (1, 0, BitVec.ofNat 32 (leNat bs / 2 ^ 32))],
            miss := [(lineOf l.pa, 3#32)] })
          else completeOp (deliver u w.p reg [(0, 0, BitVec.ofNat 32 (leNat bs)), (1, 0, BitVec.ofNat 32 (leNat bs / 2 ^ 32))]) w.p id)
          .invalid)) ∧
  (∀ e d a (sr : BitVec 5) (h : BitVec 3) s v t w fts t₁ l t₂ c u b cs bs far,
    Admitted s v (.opSld e d a sr h) { streams := .gb, ok := hintOk false h && sSrcOk v true a && sDstOk v true d, lats := [a] } →
    fetchOps s v [(a, 0), (sField v sr, 0)] (pushOf d) (fun _ _ => 0) = .ok (t, w, fts) →
    counterFull s v.p .lc = false →
    Reaches t w (baseOf w sr + pathVal w fts 0) 8 .read t₁ l →
    readFor t₁ w l 8 (h == 3#3) (h != 3#3) = (t₂, .ok (.ok (bs, far))) →
    pushOf d = some c → u = newOp t₂ w .lc (if w.isBell then .sreg d.toNat else if isS d then .sreg (d.toNat % 32) else .none) →
    u.2.block? w.p.blk = some b → pushChan b.chans c (.sc (BitVec.ofNat 64 (leNat bs))) = some cs →
    Completes (.opSld e d a sr h) s v
      (.done (completeOp ((if far then u.2.fillSlice (lineOf l.pa) else u.2).modBlock w.p.blk (fun b => { b with chans := cs })) w.p u.1)
        .invalid)) ∧
  (∀ e d a (sr : BitVec 5) (h : BitVec 3) s v t w fts t₁ l id u t₂ g ln,
    Admitted s v (.opSst e d a sr h) { streams := .gb, ok := hintOk true h && sSrcOk v true a && sSrcOk v true d, lats := [a, d] } →
    fetchFirst s v [(a, 0), (sField v sr, 0)] [(d, 0)] none (fun _ _ => 0) = .ok (t, w, fts) →
    counterFull s v.p .sc = false → lastPoison s v fts = false →
    Reaches t w (baseOf w sr + pathVal w fts 0) 8 .write t₁ l →
    newOp t₁ w .sc .none = (id, u) →
    storeMem u w id 0 (baseOf w sr + pathVal w fts 0) l (leBytes 8 (pathVal w fts 2).toNat) h.toNat = (t₂, .wrote g ln) →
    Completes (.opSst e d a sr h) s v (.done (modOp t₂ w.p id (fun o => { o with g := g, lines := ln.toList })) .invalid))

/-- R404, R464: an LDACC without poisoned elements, and an STACC, inside the window on rows that no matrix operation targets. R436: PREF,
whatever its lanes find. -/
def Obligations.AccumulatorAndPrefetchWordsComplete : Prop :=
  (∀ e x y z s v t w fts row seg (data : Bool),
    Admitted s v (if data then .opStacc e x y z else .opLdacc e x y z)
      { streams := .g, lats := [y, z],
        ok := vregsOk v 1 x && sSrcOk v false y && sSrcOk v false z && segOk v z && (v.ty == .f32 || v.ty == .i32 || v.ty == .u32) } →
    fetchOps s v ([(y, 0), (z, 0)] ++ (if data then [(x, 1)] else [])) none
      (fun v fts => diesOf s v v.active fts ([(y, 0), (z, 0)] ++ (if data then [(x, 1)] else []))) = .ok (t, w, fts) →
    row = (pathVal w fts 0).toNat → seg = (pathVal w fts 1).toNat → seg ≤ 3 →
    w.path.win.1 ≤ row → row < w.path.win.2 → (∀ o ∈ w.b.mops, o.targets row = false) →
    (if data then
      itemHeld t w.p.blk (.acc w.p.blk (row / 8)) = false →
        Completes (.opStacc e x y z) s v
          (.done (((laneList.filter (inMask w.active)).foldl
            (fun s l => accSet s w.p.blk row (32 * seg + l) (w.g.vlane x.toNat l)) t).clearPoison (fun p => match p with
              | .acc k i => k == w.p.blk && i / 32 == row * 4 + seg && inMask (wholeWords w.active) (i % 32)
              | _ => false)) .invalid)
     else
      (∀ l < 32, inMask w.active l = true → t.poisoned (.acc w.p.blk (row * 128 + 32 * seg + l)) = false) →
        Completes (.opLdacc e x y z) s v
          (.done ((t.modGroup w.p.blk w.gi (fun g =>
              g.setV x.toNat w.active (fun l => accGet w.b w.p.blk row (32 * seg + l)))).clearPoison
            (fun p => match p with
              | .vlane b g r l => b == w.p.blk && g == w.gi && r == x.toNat && inMask (wholeWords w.active) l
              | _ => false)) .invalid))) ∧
  (∀ e a (sr : BitVec 5) (h : BitVec 3) s v fts cs pops,
    Admitted s v (.opPref e a sr h) { streams := .g, feat := laneFeat v, ok := hintOk false h && byteTy v && offsetOk v a, lats := [a] } →
    fetchChans [a] v.b.chans [] = .ok (fts, cs, pops) →
    ∃ u, Completes (.opPref e a sr h) s v (.done u .invalid) ∧
      u.blocks = (if pops.isEmpty then s else s.modBlock v.p.blk (fun b => { b with chans := cs })).blocks)

/-- R469 to R471: the tag-table words where no lane reads a poisoned entry and no window keeps one back. -/
def Obligations.TagWordsComplete : Prop :=
  ∀ e d a s v t w fts u y w' res (op : Nat), op < 3 →
    Admitted s v (if op = 0 then .opTagq e d a else if op = 1 then .opTagw e d a else .opTagx e d a)
      { streams := .g, ok := (if op = 0 then laneDstOk v 1 d else vregsOk v 4 d) && (isS a || vregsOk v 2 a) && v.b.creg.getLsbD 0 } →
    fetchOps s v [(a, 2)] (if op = 0 then pushOf d else none) (fun v fts => diesOf s v v.active fts [(a, 2)]) = .ok (t, w, fts) →
    (op ≠ 0 → tagHeld t w a = []) →
    tagLanes w op a t (laneList.filter (inMask (w.active &&& ~~~w.perf))) = (u, res) →
    (∀ x ∈ res, (tagGot res x.1).map (fun q => TagOut.got q.1 q.2) = some x.2) →
    y = (if w.ctl.openOp.isSome then setPerf u w 0 else u) → y.cur.isSome = true → y.view w.p = some w' → HasRoom w' d →
    ∃ (f : Nat → Nat × Nat) (m : W32), (∀ x ∈ res, tagGot res x.1 = some (f x.1)) ∧
      m = maskOf (fun l => res.any (fun x => x.1 == l)) ∧
      (op = 0 → ∃ z l, laneFinish y w' d 1 m (fun k => (f k).1) = .done z l ∧ Completes (.opTagq e d a) s v (.done z .invalid)) ∧
      (op = 1 → Completes (.opTagw e d a) s v (tagFinish d y w' m f)) ∧
      (op = 2 → Completes (.opTagx e d a) s v (tagFinish d y w' m f))

/-- R393, R476, R477, R178: FENCE, WAITC and WAITG complete once what they wait for holds and no deferred fault is theirs. R421, R422: MWAIT
whose word satisfies its condition now, or whose monitor has found it: the word goes to D, sign-extended under a signed 32-bit TYPE,
and to the latch (R87). Where this rests on the model's own choices: notes/assumptions 73 (MWAIT on a line of another package), 84. -/
def Obligations.MemoryWaitsComplete : Prop :=
  ((∀ e (h : BitVec 3) s v, Admitted s v (.opFence e h) { streams := .gb, ok := decide (h.toNat ≤ 5) } →
    takeDeferred s v (fun _ => true) = none → fenceWait s v h.toNat = none →
    Completes (.opFence e h) s v (.done (fenceOver s v h.toNat) .invalid)) ∧
  (∀ e (c : BitVec 2) n s v t w fts, Admitted s v (.opWaitc e c n) { streams := .g, ok := sSrcOk v false n, lats := [n] } →
    fetchOps s v [(n, 0)] none (fun _ _ => 0) = .ok (t, w, fts) → (pathVal w fts 0).toNat ≤ 1023 →
    takeDeferred s v (fun d => d.cls == clsOf c) = none → countOps w.g.ops (clsOf c) ≤ (pathVal w fts 0).toNat →
    Completes (.opWaitc e c n) s v (.done t .invalid)) ∧
  (∀ e s v, Admitted s v (.opWaitg e) { streams := .g } → takeDeferred s v (fun _ => true) = none →
    countOps v.g.ops .sc = 0 → countOps v.g.ops .ac = 0 → v.g.gwmax < s.ft → Completes (.opWaitg e) s v (.done s .invalid))) ∧
  (∀ e d a (c : BitVec 4) s v t w fts t₁ l t₂ (m : Monitor) word rD,
    Admitted s v (.opMwait e d a c) { streams := .gb, ok := mwaitCond c.toNat && casTy v.ty && sRegOk v d && sRegOk v a } →
    v.b.pair = none → fetchFirst s v [(a, 0)] [(d, 0)] none (fun _ _ => 0) = .ok (t, w, fts) → lastPoison s v fts = false →
    Reaches s w (pathVal w fts 0) (tyBytes w.ty) .read t₁ l → l.typ = 0 → region t₁ l.pa ≠ .host →
    lineReady t₁ (w.cause t₁) l.pa (tyBytes w.ty) l.typ .read = (t₂, .go) →
    m = { party := w.p, born := 0, loc := .mem (l.pa / 8), va := pathVal w fts 0, pa := l.pa, width := tyBytes w.ty, cond := c.toNat,
          signed := tySigned w.ty, v := pathVal w fts 1, counter := false, hit := none, far := none } →
    rD = (if v.isBell then d.toNat else d.toNat % 32) →
    ((∃ q z, t₂.mem.monitors.find? (fun q => q.party == w.p) = some q ∧ q.hit = some z ∧ word = z.toNat) ∨
      (t₂.mem.monitors.find? (fun q => q.party == w.p) = none ∧ physPoison t₂ l.pa (tyBytes w.ty) = false ∧
        word = leNat (ownRead t₂ l.pa (tyBytes w.ty)) ∧ m.holds word = true)) →
    ∃ u y z, (u = t₂ ∨ u = t₂.modMem (fun x => { x with monitors := x.monitors.filter (fun q => q.party != w.p) })) ∧
      y = (if tySigned w.ty && tyBytes w.ty == 4 then (BitVec.ofNat 32 word).signExtend 64 else BitVec.ofNat 64 word) ∧
      z = deliver (l1Away u w.p (lineOf l.pa)) w.p (.sreg rD) [(0, 0, lo32 y), (1, 0, lo32 (y >>> 32))] ∧
      Completes (.opMwait e d a c) s v
        (.done z (match z.view v.p with | some q => latchAll (q.sreg rD) | none => .invalid)))

/-- R376 to R378: CNTA to a counter of the block's scratchpad or of global memory, and CNTW on one whose condition holds. R155, R156,
R406, R473: a LOCK that the arbiter has granted; an UNLK whose marked lines are back and globally written. Where this rests on the model's
own choices: notes/assumptions 15, 36, 73 (CNTW on a line of another package). -/
def Obligations.CounterAndLockWordsComplete : Prop :=
  ((∀ e x y s v t w fts off id u t₂ ws f g,
    Admitted s v (.opCnta e x y) { streams := .gb, ok := sSrcOk v false x && sSrcOk v false y, lats := [x, y] } →
    v.b.pair = none → fetchOps s v [(x, 0), (y, 0)] none (fun _ _ => 0) = .ok (t, w, fts) →
    (pathVal w fts 0).toNat / 2 % 4 = 0 → ctrRef (pathVal w fts 0) = .inr off → off < v.b.decl.scratch →
    counterFull s w.p .sc = false → ownBarred s w.b (off / 128) = false →
    newOp t w .sc .none = (id, u) → syncScr u w.p.blk off true (.cnta (pathVal w fts 1)) (fun _ => []) = (t₂, .value ws f g) →
    Completes (.opCnta e x y) s v (.done (modOp t₂ w.p id (fun o => { o with g := g })) .invalid)) ∧
  (∀ e x y s v t w fts va l a t₁ id u t₂ ws f g,
    Admitted s v (.opCnta e x y) { streams := .gb, ok := sSrcOk v false x && sSrcOk v false y, lats := [x, y] } →
    v.b.pair = none → fetchOps s v [(x, 0), (y, 0)] none (fun _ _ => 0) = .ok (t, w, fts) →
    (pathVal w fts 0).toNat / 2 % 4 = 0 → ctrRef (pathVal w fts 0) = .inl va → va.toNat % 8 = 0 →
    memTgtRw t w va = (t₁, .goes (.mem l a)) → l.typ ≠ 1 → counterFull s w.p .sc = false → newOp t₁ w .sc .none = (id, u) →
    syncLine u w id .none (fun _ => []) 0 l.pa l.typ [{ lane := 0, pa := l.pa, va := va, op := .cnta (pathVal w fts 1) }] =
      (t₂, [(0, .value ws f g)]) →
    Completes (.opCnta e x y) s v (.done (modOp t₂ w.p id (fun o => { o with g := g })) .invalid)) ∧
  (∀ e x y s v t w fts off,
    Admitted s v (.opCntw e x y) { streams := .gb, ok := sSrcOk v false x && sSrcOk v false y, lats := [x, y] } →
    v.b.pair = none → fetchOps s v [(x, 0), (y, 0)] none (fun _ _ => 0) = .ok (t, w, fts) →
    (pathVal w fts 0).toNat / 2 % 4 = 0 → ctrRef (pathVal w fts 0) = .inr off → off < v.b.decl.scratch →
    t.mem.monitors.find? (fun q => q.party == w.p) = none → scratchPoison t w.p.blk off 8 = false →
    leNat (scratchRead t w.p.blk off 8) % 2 ^ 63 ≥ (pathVal w fts 1).toNat % 2 ^ 63 →
    Completes (.opCntw e x y) s v (.done t .invalid)) ∧
  (∀ e x y s v t w fts va l t₁ t₂,
    Admitted s v (.opCntw e x y) { streams := .gb, ok := sSrcOk v false x && sSrcOk v false y, lats := [x, y] } →
    v.b.pair = none → fetchOps s v [(x, 0), (y, 0)] none (fun _ _ => 0) = .ok (t, w, fts) →
    (pathVal w fts 0).toNat / 2 % 4 = 0 → ctrRef (pathVal w fts 0) = .inl va → Reaches t w va 8 .read t₁ l → l.typ ≠ 1 →
    lineReady t₁ (w.cause t₁) l.pa 8 l.typ .read = (t₂, .go) →
    t₂.mem.monitors.find? (fun q => q.party == w.p) = none → physPoison t₂ l.pa 8 = false →
    leNat (ownRead t₂ l.pa 8) % 2 ^ 63 ≥ (pathVal w fts 1).toNat % 2 ^ 63 →
    Completes (.opCntw e x y) s v (.done (l1Away t₂ w.p (lineOf l.pa)) .invalid))) ∧
  ((∀ e n o s v t w fts c h,
    Admitted s v (.opLock e n o) { streams := .gb, feat := some 9, ok := sSrcOk v false n && sSrcOk v false o, lats := [n, o] } →
    v.b.pair = none → fetchOps s v [(n, 0), (o, 0)] none (fun _ _ => 0) = .ok (t, w, fts) →
    ctxOf s v.b = some c → (pathVal w fts 0).toNat < c.desc.lklim →
    v.b.locks.find? (fun h => h.num == (pathVal w fts 0).toNat) = some h → h.asker = some v.p.who →
    Completes (.opLock e n o) s v
      (.done (t.modBlock v.p.blk (fun b => { b with
        locks := b.locks.map (fun h => if h.num == (pathVal w fts 0).toNat then { h with asker := none } else h) })) .invalid)) ∧
  (∀ e n s v t w fts c h g,
    Admitted s v (.opUnlk e n) { streams := .gb, feat := some 9, ok := sSrcOk v false n, lats := [n] } →
    v.b.pair = none → fetchOps s v [(n, 0)] none (fun _ _ => 0) = .ok (t, w, fts) →
    ctxOf s v.b = some c → (pathVal w fts 0).toNat < c.desc.lklim →
    v.b.locks.find? (fun h => h.num == (pathVal w fts 0).toNat && h.asker.isNone) = some h → h.marked = [] → h.rel = some g → g < s.ft →
    Completes (.opUnlk e n) s v (.done (lockFree t v.p.blk c (pathVal w fts 0).toNat) .invalid)))

/-- R351 to R354, R400: BARA's arrival; BARS and BARW once the phase differs from the one recorded; HBAR once the grid's phase has moved.
R355, R356, R360 to R362: the barrier-object words, on an entry that can be read: a fresh entry for BNEW, a handle's live entry for the
others. Where this rests on the model's own choices: notes/assumptions 25, 26. -/
def Obligations.BarrierWordsComplete : Prop :=
  ((∀ e i n s v t w fts u,
    Admitted s v (.opBara e i n) (barNeed v [i, n]) → fetchOps s v [(i, 0), (n, 0)] none (fun _ _ => 0) = .ok (t, w, fts) →
    barLimits v (pathVal w fts 0).toNat (pathVal w fts 1).toNat = true → v.b.pair = none →
    barArrive t w (pathVal w fts 0).toNat (pathVal w fts 1).toNat = some u →
    Completes (.opBara e i n) s v (.done u .invalid)) ∧
  (∀ e i n s v b,
    Admitted s v (.opBars e i n) (barNeed v [i, n]) → v.ctl.arrived = some b → barPassed s v.p b = true →
    Completes (.opBars e i n) s v (.done (s.modCtl v.p (fun c => { c with pend := putBit c.pend b false })) .invalid)) ∧
  (∀ e i s v t w fts nb,
    Admitted s v (.opBarw e i) (barNeed v [i]) → fetchOps s v [(i, 0)] none (fun _ _ => 0) = .ok (t, w, fts) →
    v.b.bars[(pathVal w fts 0).toNat]? = some nb → bitOf v.ctl.pend (pathVal w fts 0).toNat = true →
    barPassed t v.p (pathVal w fts 0).toNat = true →
    Completes (.opBarw e i) s v
      (.done (t.modCtl v.p (fun c => { c with pend := putBit c.pend (pathVal w fts 0).toNat false })) .invalid)) ∧
  (∀ e (h : BitVec 3) s v k,
    Admitted s v (.opHbar e h) { streams := .b, ok := decide (h.toNat ≤ 4) } → takeEngine s v = none →
    v.b.bell.hbar = some k → ((s.grids[v.b.grid]?).map Grid.phase).getD 0 ≠ k →
    Completes (.opHbar e h) s v (.done (s.modBell v.p.blk (fun b => { b with hbar := none })) .invalid))) ∧
  ((∀ e x y s v t w fts t₁ i l o,
    Admitted s v (.opBnew e x y) { streams := .gb, ok := [y].all (sSrcOk v false) && sRegOk v x, lats := [y] } →
    v.b.pair = none → fetchOps s v [(y, 0)] none (fun _ _ => 0) = .ok (t, w, fts) →
    counterFull s v.p .ac = false → 1 ≤ (pathVal w fts 0).toNat → (pathVal w fts 0).toNat ≤ 1048575 → objFree w objMax 0 t = .ok (t₁, some (i, l, o)) →
    Completes (.opBnew e x y) s v
      (objCount v (objResult
        (objWrite t₁ w l { gen := if o.gen == 0 then 1 else o.gen, arrived := 0, expected := (pathVal w fts 0).toNat, phase := 0 })
        w x (i + (if o.gen == 0 then 1 else o.gen) * 2 ^ 20)))) ∧
  (∀ e x y s v t w fts t₁ l o h,
    v.b.pair = none → h = pathVal w fts 0 → h.toNat % 2 ^ 20 < objMax → objRead t w (h.toNat % 2 ^ 20) = .ok (t₁, l, o) →
    h.toNat / 2 ^ 20 % 2 ^ 12 ≠ 0 → o.gen = h.toNat / 2 ^ 20 % 2 ^ 12 → o.expected ≠ 0 →
    (Admitted s v (.opBdel e y) { streams := .gb, ok := [y].all (sSrcOk v false) && true, lats := [y] } →
      fetchOps s v [(y, 0)] none (fun _ _ => 0) = .ok (t, w, fts) → counterFull s v.p .ac = false →
      Completes (.opBdel e y) s v (objCount v
        (.done (objWrite t₁ w l { o with gen := if o.gen == 4095 then 1 else o.gen + 1, expected := 0, arrived := 0 }) .invalid))) ∧
    (Admitted s v (.opBoa e x y) { streams := .gb, ok := [y].all (sSrcOk v false) && sRegOk v x, lats := [y] } →
      fetchOps s v [(y, 0)] none (fun _ _ => 0) = .ok (t, w, fts) → counterFull s v.p .ac = false →
      Completes (.opBoa e x y) s v
        (objCount v (objResult (objWrite t₁ w l (if o.arrived + 1 = o.expected then { o with arrived := 0, phase := (o.phase + 1) % 4096 }
          else { o with arrived := o.arrived + 1 })) w x o.phase)))) ∧
  (∀ e x y s v t w fts t₁ l o h,
    v.b.pair = none → h = pathVal w fts 0 → h.toNat % 2 ^ 20 < objMax → objLook t w (h.toNat % 2 ^ 20) = .ok (t₁, l, o) →
    h.toNat / 2 ^ 20 % 2 ^ 12 ≠ 0 → o.gen = h.toNat / 2 ^ 20 % 2 ^ 12 → o.expected ≠ 0 →
    Admitted s v (.opBow e x y) { streams := .gb, ok := [x, y].all (sSrcOk v false) && true, lats := [x, y] } →
    fetchOps s v [(x, 0), (y, 0)] none (fun _ _ => 0) = .ok (t, w, fts) → o.phase ≠ (pathVal w fts 1).toNat % 4096 →
    Completes (.opBow e x y) s v (.done t₁ .invalid)))

/-- R434, R435: POST, its descriptor's reserved bits clear, its records aligned and inside the scratchpad and its stores done: the lanes
whose record is taken set their bit of the predicate. Where this rests on the model's own choices: notes/assumptions 31. -/
def Obligations.PostCompletes : Prop :=
  ∀ e x y z s v t w fts c desc nd size u acc full,
    Admitted s v (.opPost e x y z)
      { streams := .g, feat := some 8, ok := isPred x && (isS y || vregsOk v 2 y) && sSrcOk v false z, lats := [z] } →
    v.b.pair = none → fetchLanes s v [(z, 0), (y, 2)] = .ok (t, w, fts) → ctxOf s v.b = some c →
    desc = (pathVal w fts 0).toNat → desc / 2 ^ 40 = 0 → desc / 2 ^ 12 % 16 = 0 → desc / 2 ^ 16 % 2 ^ 24 % 4 = 0 →
    nd = s.fe.nodes.find? (fun n => n.ctx == v.b.ctx && n.index == desc % 4096) →
    size = (match nd with | some n => n.decl.recSize | none => 4) →
    (∀ l < 32, inMask w.active l = true → desc / 2 ^ 16 % 2 ^ 24 + l * size + size ≤ v.b.decl.scratch) →
    fenceReady s v 3 = true →
    postLanes w c (desc % 4096) size (desc / 2 ^ 16 % 2 ^ 24) nd.isSome (tagAddr w y) (laneList.filter (inMask w.active)) t =
      (u, acc, 0, full) → u.cur.isSome = true →
    Completes (.opPost e x y z) s v
      (.done (u.modGroup v.p.blk v.gi (fun g =>
        if full then Group.mark { g.setP (x.toNat % 16) w.active acc with gstat := (g.setP (x.toNat % 16) w.active acc).gstat ||| 4#32 } 0
        else g.setP (x.toNat % 16) w.active acc)) .invalid)

/-- R363, R366, R367, R444: BRA, BRX, CALL and RET, on a uniform condition and to a run start. -/
def Obligations.BranchesAndCallsComplete : Prop :=
  (∀ p (o : BitVec 20) s v, Admitted s v (.opBra p o) { streams := .gb, ok := condOk v p } → uniform v p = some false →
    Leaves (.opBra p o) s v s (v.ctl.pc + 4) 0 id) ∧
  (∀ p (o : BitVec 20) s v t, Admitted s v (.opBra p o) { streams := .gb, ok := condOk v p } → uniform v p = some true →
    isRunStart s v.b (v.ctl.pc + (o.signExtend 64) * 4) = (t, .ok true) →
    Leaves (.opBra p o) s v t (v.ctl.pc + (o.signExtend 64) * 4) 0 id) ∧
  (∀ a s v t w fts u, Admitted s v (.opBrx a) { streams := .gb, ok := sRegOk v a } →
    fetchOps s v [(a, 0)] none (fun _ _ => 0) = .ok (t, w, fts) → (pathVal w fts 0).toNat % 4 = 0 →
    isRunStart t w.b (pathVal w fts 0) = (u, .ok true) → Leaves (.opBrx a) s v u (pathVal w fts 0) 0 id) ∧
  (∀ p (o : BitVec 20) s v, Admitted s v (.opCall p o) { streams := .gb, ok := condOk v p } → uniform v p = some false →
    Leaves (.opCall p o) s v s (v.ctl.pc + 4) 0 id) ∧
  (∀ p (o : BitVec 20) s v t u, Admitted s v (.opCall p o) { streams := .gb, ok := condOk v p } → uniform v p = some true →
    isRunStart s v.b (v.ctl.pc + (o.signExtend 64) * 4) = (t, .ok true) → pushRet t v (v.ctl.pc + 4) = .ok u →
    Leaves (.opCall p o) s v u (v.ctl.pc + (o.signExtend 64) * 4) 0 id) ∧
  (∀ p s v, Admitted s v (.opRet p) { streams := .gb, ok := condOk v p } → uniform v p = some false →
    Leaves (.opRet p) s v s (v.ctl.pc + 4) 0 id) ∧
  (∀ p s v r t u a x y z, Admitted s v (.opRet p) { streams := .gb, ok := condOk v p } → uniform v p = some true →
    popRet s v = .ok (r, t, a) → isRunStart r v.b a = (u, .ok true) → popRet u v = .ok (x, y, z) → Leaves (.opRet p) s v y a 0 id)

/-- R94, R364: BRD with taken mask T and rest N: no lane stays, none is taken, a top-level split, a nested one. R100, R389, R390, R391: DISP
to the bucket it finds; EXIT of a bellwether without an engine fault and of a group that stands undivided; DONE. Where this rests on the
model's own choices: notes/assumptions 24, 82, 88. -/
def Obligations.DivergenceDispatchAndEndWordsComplete : Prop :=
  (∀ p (t j : BitVec 10) s v s₁ s₂ tk n m target join,
    Admitted s v (.opBrd p t j) { streams := .g, ok := t != 0 && j != 0 } →
    m = v.path.mask → tk = v.live &&& v.g.pred p.toNat → n = m &&& ~~~tk →
    target = v.ctl.pc + (t.signExtend 64) * 4 → join = v.ctl.pc + (j.setWidth 64) * 4 →
    isRunStart s v.b target = (s₁, .ok true) → isRunStart s₁ v.b join = (s₂, .ok true) →
    (n = 0 → Leaves (.opBrd p t j) s v s₂ target 0 (fun g => g.setPath v.sec { g.path v.sec with mask := tk })) ∧
    (n ≠ 0 → tk = 0 → Leaves (.opBrd p t j) s v s₂ (v.ctl.pc + 4) 0 (fun g => g.setPath v.sec { g.path v.sec with mask := n })) ∧
    (∀ u, n ≠ 0 → tk ≠ 0 → v.g.split = false → copyRetSpill s₂ v v.ctl.retSpill = .ok u →
      Leaves (.opBrd p t j) s v u (v.ctl.pc + 4) ((tk &&& n) ||| ((tk ||| n) ^^^ m))
        (fun g => (g.splitAt tk n target join u.ft).fixSpill)) ∧
    (∀ u, n ≠ 0 → tk ≠ 0 → v.g.split = true →
      pushDiv s₂ v { start := target, join := join, waitMask := tk, parent := m } = .ok u →
      Leaves (.opBrd p t j) s v u (v.ctl.pc + 4) ((tk &&& n) ||| ((tk ||| n) ^^^ m))
        (fun g => g.setPath v.sec { g.path v.sec with mask := n }))) ∧
  ((∀ a s v t w fts t₁ hd t₂ bs b pads entry t₃, Admitted s v (.opDisp a) { streams := .b, ok := sRegOk v a } →
    fetchOps s v [(a, 0)] none (fun _ _ => 0) = .ok (t, w, fts) → (pathVal w fts 0).toNat % 8 = 0 →
    dispRead t w (pathVal w fts 0).toNat 8 = .ok (t₁, hd) →
    1 ≤ leNat (hd.take 4) → leNat (hd.take 4) ≤ 64 → 1 ≤ leNat (hd.drop 4) → leNat (hd.drop 4) ≤ 8 →
    dispRead t₁ w ((pathVal w fts 0).toNat + 8) (leNat (hd.take 4) * (16 * leNat (hd.drop 4) + 8)) = .ok (t₂, bs) →
    dispFind w.b.bell (leNat (hd.drop 4)) (leNat (hd.take 4)) bs = some (b, pads, entry) →
    isRunStart (fillTake t₂ w.b.core (.party w.p)) w.b entry = (t₃, .ok true) →
    Leaves (.opDisp a) s v
      (t₃.modBell w.p.blk (fun q => (List.range 8).foldl (fun q j => q.setW (56 + j) (BitVec.ofNat 64 (pads.getD j 0)))
        (q.setW 55 (BitVec.ofNat 64 b)))) entry 0 id) ∧
  (∀ s v, Admitted s v .opExit { streams := .gb, guarded := false } → v.isBell = true → v.b.engFault = none →
    Leaves .opExit s v (s.modBell v.p.blk (fun b => { b with ctl := { b.ctl with ended := true, ret := [], retSpill := 0 } }))
      (v.ctl.pc + 4) 0 id) ∧
  (∀ s v, Admitted s v .opExit { streams := .gb, guarded := false } → v.isBell = false →
    v.g.split = false → v.path.div = [] → v.path.divSpill = 0 → Leaves .opExit s v s (v.ctl.pc + 4) 0 Group.retire) ∧
  (∀ s v, Admitted s v .opDone { streams := .g } →
    Leaves .opDone s v s (v.ctl.pc + 4) 0 (fun g => g.pathDone v.sec v.path.topJoin s.ft)))

/-- R127 to R129, R418, R478, R139, R412, R411: WLD, MSTR, MDRN and MCLR join the open operations of the block. -/
def Obligations.MatrixCommandsJoin : Prop :=
  ∀ e n (bk : BitVec 1) s v t w fts d cs ss fmt m row0,
    fetchOps s v ((descRegs n).map (fun f => (f, 0))) none (fun _ _ => 0) = .ok (t, w, fts) → v.b.engFault = none →
    d = (fun k => pathVal w fts k) → cs = bitsOf (d 1) 0 32 → ss = bitsOf (d 1) 32 32 → fmt = bitsOf (d 2) 0 4 →
    m = bitsOf (d 1) 32 16 → row0 = bitsOf (d 3) 0 15 → w.b.mops.length < 32 →
    (Admitted s v (.opWld e n bk) { streams := .b, feat := matFeat (bitsOf (v.sreg (n.toNat + 2)) 0 4), ok := descBase n } →
      bitsOf (d 2) 4 60 = 0 → weightFmt fmt = true → 384 ≤ cs → (d 0).toNat % 128 = 0 → cs % 128 = 0 →
      (blockFmt fmt = true → ss % 16 = 0 ∧ (d 3).toNat % 16 = 0) →
      Completes (.opWld e n bk) s v
        (matIssue t w (.wld (bk == 1#1) (d 0) cs ss fmt (d 3)) false
          (fun b => { b with pendFmt := b.pendFmt.set (bk.toNat % 2) (some fmt) (Nat.mod_lt _ (by decide)) }))) ∧
    (∀ wf, Admitted s v (.opMstr e n bk) { streams := .b, feat := matFeat (bitsOf (v.sreg (n.toNat + 2)) 0 4), ok := descBase n } →
      bitsOf (d 1) 48 16 = 0 → bitsOf (d 3) 15 1 = 0 → bitsOf (d 3) 17 47 = 0 → 1 ≤ m → m ≤ 16384 →
      w.b.pendFmt.toList.getD bk.toNat none = some wf → (pairing wf fmt).isSome = true → row0 + m ≤ w.b.decl.acc →
      (d 0).toNat % 128 = 0 → cs % 128 = 0 → (freeSlot w.b).isSome = true →
      Completes (.opMstr e n bk) s v
        (matIssue t w (.mstr (bk == 1#1) (d 0) cs m fmt (BitVec.ofNat 64 (bitsOf (d 2) 4 60 * 16)) row0 (bitsOf (d 3) 16 1 == 1)) true id)) ∧
    (∀ opn (scr : Bool), Admitted s v (.opMdrn e n)
        { streams := .b, feat := if bitsOf (v.sreg (n.toNat + 2)) 8 2 == 2 then some 5 else none, ok := descBase n } →
      opn = bitsOf (d 2) 8 2 → scr = (bitsOf (d 2) 10 1 == 1) →
      bitsOf (d 1) 48 16 = 0 → bitsOf (d 2) 7 1 = 0 → bitsOf (d 2) 14 50 = 0 → bitsOf (d 3) 15 49 = 0 →
      1 ≤ m → m ≤ 16384 → (fmt = 0 ∨ fmt = 1 ∨ fmt = 2 ∨ fmt = 4 ∨ fmt = 12 ∨ fmt = 13) → opn ≠ 3 → (opn ≠ 0 → fmt = 0) →
      (opn = 2 → scr = false ∧ v.b.pair = none ∧ w.b.pair = none) → (scr = true → bitsOf (d 0) 24 40 = 0) →
      bitsOf (d 2) 11 3 < 6 → 128 * drainSize fmt ≤ cs → row0 + m ≤ w.b.decl.acc → (d 0).toNat % 128 = 0 → cs % 128 = 0 →
      (opn = 1 → (d 0).toNat % 4096 = 0 ∧ cs = 512 ∧ m % 8 = 0) →
      (scr = true → (d 0).toNat + (m - 1) * cs + 128 * drainSize fmt ≤ w.b.decl.scratch) → (freeSlot w.b).isSome = true →
      Completes (.opMdrn e n) s v
        (matIssue t w (.mdrn (d 0) cs m fmt (bitsOf (d 2) 4 2) (bitsOf (d 2) 6 1 == 1) opn scr (bitsOf (d 2) 11 3) row0) true id)) ∧
    (∀ r c t w fts, Admitted s v (.opMclr e r c) { streams := .b, ok := matSrcOk r && matSrcOk c } →
      fetchOps s v [(r, 0), (c, 0)] none (fun _ _ => 0) = .ok (t, w, fts) → w.b.mops.length < 32 → pathVal w fts 1 ≠ 0 →
      (pathVal w fts 0).toNat + (pathVal w fts 1).toNat ≤ w.b.decl.acc →
      Completes (.opMclr e r c) s v (matIssue t w (.mclr (pathVal w fts 0).toNat (pathVal w fts 1).toNat) false id))

/-- R133, R134, R137, R415, R423, R424: MWIN sets a group's window; MFENCE closes the batch and gives its number; MWAITB of a batch that
has retired. -/
def Obligations.MatrixControlWordsComplete : Prop :=
  (∀ e g b l s v t w fts, Admitted s v (.opMwin e g b l) { streams := .b, ok := matSrcOk g && matSrcOk b && matSrcOk l } →
    v.b.engFault = none → fetchOps s v [(g, 0), (b, 0), (l, 0)] none (fun _ _ => 0) = .ok (t, w, fts) →
    (pathVal w fts 0).toNat < w.b.groups.length → (pathVal w fts 1).toNat ≤ (pathVal w fts 2).toNat →
    (pathVal w fts 2).toNat ≤ w.b.decl.acc →
    Completes (.opMwin e g b l) s v
      (.done (t.modGroup w.p.blk (pathVal w fts 0).toNat (fun x =>
        Group.mark { x with abase := (pathVal w fts 1).toNat, alim := (pathVal w fts 2).toNat } 0)) .invalid)) ∧
  (∀ e d s v t w fts, Admitted s v (.opMfence e d) { streams := .b, ok := decide (d.toNat < 64) } → v.b.engFault = none →
    fetchOps s v [] none (fun _ _ => 0) = .ok (t, w, fts) →
    Completes (.opMfence e d) s v
      (.done ((t.clearPoison (fun p => p == .wreg w.p.blk d.toNat)).modBlock w.p.blk (fun b => { b with
        bell := { b.bell with mbatch := nextBatch w.b.bell.mbatch }.setW d.toNat (zx w.b.bell.mbatch)
        mops := b.mops.map (fun o => if o.batch.isNone then { o with batch := some w.b.bell.mbatch } else o) })) .invalid)) ∧
  (∀ e n s v t w fts, Admitted s v (.opMwaitb e n) { streams := .b, ok := matSrcOk n } → v.b.engFault = none →
    fetchOps s v [(n, 0)] none (fun _ _ => 0) = .ok (t, w, fts) → bitsOf (pathVal w fts 0) 32 32 = 0 → lo32 (pathVal w fts 0) ≠ 0 →
    2 ^ 31 ≤ batchDist w.b.bell.mbatch (lo32 (pathVal w fts 0)) → batchDone w.b (lo32 (pathVal w fts 0)) = true →
    Completes (.opMwaitb e n) s v (.done t .invalid))

/-- R380 to R383: the copies: a legal entry, with a slot of the ring and a counter free, is written at RESV and published. -/
def Obligations.CopyWordsPublish : Prop :=
  ∀ e x y s v t w fts en (k : Nat), k < 3 →
    Admitted s v (if k = 0 then .opCpy e x y else if k = 1 then .opCpy2d e x y else .opCpyw e x)
      { streams := .ba, ok := cpyBase v x && (if k = 2 then true else sSrcOk v false y), lats := if k = 2 then [] else [y] } →
    fetchOps s v (if k = 2 then [(x + 0, 0), (x + 1, 0), (x + 2, 0), (x + 3, 0)] else [(x + 0, 0), (x + 1, 0), (x + 2, 0), (y, 0)]) none
      (fun _ _ => 0) = .ok (t, w, fts) →
    (if k = 0 then (cpyShape (pathVal w fts 3).toNat).map (fun w3 =>
        ({ w0 := (pathVal w fts 0).toNat % 2 ^ 57, w1 := (pathVal w fts 1).toNat, w2 := (pathVal w fts 2).toNat, w3 := w3 } : CopyEntry))
     else if (pathVal w fts 3).toNat / 2 ^ 40 ≠ 0 ∨ (k = 2 ∧ (pathVal w fts 0).toNat / 2 ^ 57 ≠ 0) then none
     else some { w0 := (pathVal w fts 0).toNat % 2 ^ 57, w1 := (pathVal w fts 1).toNat, w2 := (pathVal w fts 2).toNat,
                 w3 := (pathVal w fts 3).toNat }) = some en →
    en.bad w.b = false → w.b.tail = w.b.resv → ringFree w.b ≠ 0 → counterFull s v.p .cc = false →
    ownBarred t w.b (32 * (w.b.resv.toNat % 64) / 128) = false →
    itemHeld t w.p.blk (.scratch w.p.blk (32 * (w.b.resv.toNat % 64) / 128)) = false →
    Completes (if k = 0 then .opCpy e x y else if k = 1 then .opCpy2d e x y else .opCpyw e x) s v
      (.done (publish ((scratchWrite t w.p.blk (32 * (w.b.resv.toNat % 64)) en.bytes).modBlock w.p.blk
        (fun b => { b with resv := b.resv + 1 })) w 1) .invalid)

/-- R472, R229, R447, R327 to R330: TRAP with a handler takes its exception once its word has retired, and without one stops the
context, one that ends its run behind the run's brand check;
RTE of a bellwether and of a path returns; a word that stands for no instruction raises ILLOP. Where this rests on the model's own
choices: notes/assumptions 13. -/
def Obligations.ExceptionWordsComplete : Prop :=
  (∀ e (i : BitVec 16) s v, Admitted s v (.opTrap e i) { streams := .gb } → v.traps = true →
    exec (.opTrap e i) s = .next (trapTaken s v (encode (.opTrap e i))
      { exc fTRAPI (i.setWidth 64) with lanes := if v.isBell then 0 else v.live, next := true })) ∧
  (∀ e (i : BitVec 16) s v, Admitted s v (.opTrap e i) { streams := .gb } → v.traps = false → v.isBell = true ∨ e = false →
    exec (.opTrap e i) s = .next (raise s v { exc fTRAPI (i.setWidth 64) with lanes := if v.isBell then 0 else v.live })) ∧
  (∀ (i : BitVec 16) s v t, Admitted s v (.opTrap true i) { streams := .gb } → v.traps = false → v.isBell = false →
    brandCheck s v (crcWord v.path.brand (encode (.opTrap true i))) = (t, true) →
    exec (.opTrap true i) s = .next (raise t v { exc fTRAPI (i.setWidth 64) with lanes := if v.isBell then 0 else v.live })) ∧
  (∀ e s v, Admitted s v (.opRte e) { streams := .gb, guarded := false } → v.ctl.handler = true → modeOk v (rteMode v) = true →
    v.isBell = true → exec (.opRte e) s = .next (rteTaken s v (encode (.opRte e)))) ∧
  (∀ e s v, Admitted s v (.opRte e) { streams := .gb, guarded := false } → v.ctl.handler = true → modeOk v (rteMode v) = true →
    v.isBell = false → (rteTo v).2 = true → exec (.opRte e) s = .next (rteTaken s v (encode (.opRte e)))) ∧
  (∀ e s v t, Admitted s v (.opRte e) { streams := .gb, guarded := false } → v.ctl.handler = true → modeOk v (rteMode v) = true →
    v.isBell = false → (rteTo v).2 = false → isRunStart s v.b (rteTo v).1 = (t, .ok true) →
    exec (.opRte e) s = .next (rteTaken t v (encode (.opRte e)))) ∧
  (∀ w s v, s.cur = some v.p → s.view v.p = some v → streamOk v ((opStreams w).getD .gb) = true →
    (∀ b, opStreams w ≠ none → opFeat v w = some b → Config.featmask.getLsbD b = true) →
    exec (.evReservedEncoding w) s = .next (raise s v (exc fILLOP)))

/-- R20, R84, R85, R90, R91, R176: the events of issue and of a stream's operations, each when its condition holds. Where this rests on the
model's own choices: notes/assumptions 2, 10, 49, 83. -/
def Obligations.IssueEventsComplete : Prop :=
  (∀ s core slot p v t, s.cur = none → oldest (slotReady s core slot) = some p → s.view p = some v →
    t = s.modCtl p (fun c => { c with keep := false }) →
    exec (.evSlotArbitration core slot) s = .next (if v.ctl.inRun then { t with cur := some p } else startRun p (startFuel v) 0 t)) ∧
  (∀ s core p, s.cur = none → oldest (bellReady s core) = some p →
    exec (.evBellwetherIssue core) s = .next { s.modBell p.blk (fun b => if b.ctl.inRun then { b with ctl := { b.ctl with keep := false } }
      else { b with ctl := { b.ctl with keep := false, runPos := 0, runStart := b.ctl.pc } }) with cur := some p }) ∧
  (∀ s p op o t u, findOp s p op = some o → o.pending ≠ [] →
    t = noteArrived (modOp (deliver ((o.miss.map Prod.fst).foldl State.fillSlice s) p o.dst o.pending) p op
      (fun o => { o with pending := [], miss := [] })) p op (maskOf (fun l => o.pending.any (fun x => x.1 == l))) →
    u = endLoad ((t.mem.reads.filter (fun r => r.op == op)).foldl performRead t) p op →
    exec (.evLoadDataArrival p op) s = .next (wakeStarts (((groupParties p).filter (fun q => startsAwaiting s q == some op)).filter
      (fun q => startsAwaiting u q != some op)) u)) ∧
  (∀ s p op o u, findOp s p op = some o → o.pending = [] → s.mem.reads.filter (fun r => r.op == op) = [] → opFlying s o = false →
    u = modOp s p op (fun o => { o with miss := [], dst := .none }) →
    exec (.evLoadDataArrival p op) s =
      .next (wakeStarts (((groupParties p).filter (fun q => startsAwaiting s q == some op)).filter
          (fun q => startsAwaiting (wakeLoads (if o.cls == .lc && !o.stopped then completeOp u p op else u) p op) q != some op))
        (wakeLoads (if o.cls == .lc && !o.stopped then completeOp u p op else u) p op))) ∧
  (∀ s p op o t, findOp s p op = some o → t = performOp s p o → opPerformed t o = true →
    exec (.evStoreCompletion p op) s = .next (endOp t p op)) ∧
  (∀ s p op, findOp s p op = none → exec (.evStoreCompletion p op) s = .next (devPump s)) ∧
  (∀ s p v, s.view p = some v → blockRuns s v.b = true → s.cur ≠ some p → waitHolds s v = true →
    exec (.evWaitSatisfied p) s = .next (wake s p))

/-- R155, R173, R200: a held synchronisation write that nothing holds back is performed; a revocation drops the line, the last one ending
its leases; a free lock goes to its oldest request with its lines pushed. Where this rests on the model's own choices: notes/assumptions
10. -/
def Obligations.SliceEventsComplete : Prop :=
  (∀ s line h b, heldFirst s line = some h → s.block? h.party.blk = some b → h.lanes ≠ [] → syncReady s (line * 128) = true →
    (∀ r ∈ h.lanes, regionBars s b.ctx r.va = false) → pageHeld s (line * 128) 128 (preCut s b.ctx h.op) = false →
    ∃ u, u = s.modMem (fun m => { m with held := m.held.erase h }) ∧
      (h.lanes.any (isHostAtomic u) = true →
        exec (.evHeldWritePerform line) s = .next (sendAtomics u h.party h.op h.dst h.words h.lanes)) ∧
      (h.lanes.any (isHostAtomic u) = false → ∀ t r y wrote z,
        syncLanes (l1Away (handLine u h.party line) h.party line) (preCut s b.ctx h.op) 0 h.lanes = (t, r) → y = heldCounters t h r →
        wrote = r.any (fun x => match x.2 with | some (_, w) => w | none => false) →
        z = (if wrote then (opParties y h.party h.op).foldl (fun x q => modOp x q h.op (fun o => { o with g := max o.g x.ft })) y else y) →
        exec (.evHeldWritePerform line) s = .next (if h.counter then wakeLoads z h.party h.op
          else deliverOld z h.party h.op h.dst h.words (r.map (fun x => (x.1, x.2.map Prod.fst)))))) ∧
  (∀ s core line u, s.mem.held.any (fun h => h.line == line && h.acks.contains core) = true →
    u = (l1Drop s core line).modMem (fun m => { m with
      held := m.held.map (fun h => if h.line == line then { h with acks := h.acks.erase core } else h) }) →
    exec (.evRevocation core line) s = .next
      (if u.mem.held.any (fun h => h.line == line && !h.acks.isEmpty) then u
       else u.modMem (fun m => { m with leases := m.leases.filter (fun p => p.1 != line) }))) ∧
  (∀ s' s die num l q rest v c s₁ bs s₂ ls rs vas, s = rebindAll s' →
    s.mem.locks.find? (fun l => l.die == die && l.num == num) = some l → l.holder = none → l.queue = q :: rest →
    s.view q.party = some v → ctxOf s v.b = some c → c.state = .running → c.rebind = [] → v.b.pair = none →
    devRead s .front c (lockVa c q.num).toNat 64 = (s₁, .ok bs) → lockDescOk bs = true →
    rs = (lockRanges bs).map (fun r => (BitVec.ofNat 64 r.1, r.2)) →
    vas = (rs.map (fun r => (List.range r.2).map (fun k => r.1 + BitVec.ofNat 64 (128 * k)))).flatten →
    (∀ k < vas.length, itemHeld s₁ q.party.blk (.scratch q.party.blk (q.off / 128 + k)) = false) →
    q.off + 128 * vas.length ≤ v.b.decl.scratch → lockSoft s₁ v.b vas = none → barredLine s₁ v.b q.off vas.length = none →
    lockLines v.b v.ctl.outcomes vas s₁ = .ok (s₂, ls) →
    exec (.evLockGrant die num) s' =
      .next (lockGive (lockPop s₂ die num (some q.party.blk)) q.party.blk q.num q.off (some q.party.who) q.word rs ls))

/-- R123, R128, R130, R131, R141: the array engine's events on an operation that may go on: the tile of a WLD, the replay of a block's last
WLD, the next row of the stream in the array, the next tile of a drain. Where this rests on the model's own choices: notes/assumptions 10,
34, 90. -/
def Obligations.ArrayEngineEventsComplete : Prop :=
  (∀ s blk op b o bank addr cs ss fmt sptr t k, engOp s blk op = some (b, o) → o.kind = .wld bank addr cs ss fmt sptr →
    wldReady s blk b o bank = true →
    readTile s blk op o.prog b o.outcomes { addr := addr, cstride := cs, sstride := ss, fmt := fmt, sptr := sptr } = .ok (t, k) →
    exec (.evTileLoaded blk op) s = .next (dropMop ((setBank t b.core bank k).modBlock blk (fun b => { b with
      bankDesc := b.bankDesc.set (if bank then 1 else 0)
        (some { addr := addr, cstride := cs, sstride := ss, fmt := fmt, sptr := sptr }) (by split <;> decide) })) blk op)) ∧
  (∀ s blk op b o bank addr stride m fmt sptr row0 fresh d t k, b.reload = [] → engOp s blk op = some (b, o) →
    o.kind = .mstr bank addr stride m fmt sptr row0 fresh → mstrReady s blk b o bank (row0 + o.prog) = true →
    (bankOf s b.core bank).map Bank.blk ≠ some blk → b.bankDesc.toList.getD (if bank then 1 else 0) none = some d →
    readTile s blk op o.prog b o.outcomes d = .ok (t, k) →
    exec (.evBankReload blk op) s = .next (modMop (setBank t b.core bank k) blk op (fun o => { o with entered := true }))) ∧
  (∀ s blk op b x rest d t k, s.block? blk = some b → b.reload = x :: rest → blockRuns s b = true → x.req = none →
    b.bankDesc.toList.getD (if x.bank then 1 else 0) none = some d → readTile s blk op 0 b x.outcomes d = .ok (t, k) →
    exec (.evBankReload blk op) s = .next ((setBank t b.core x.bank k).modBlock blk (fun b => { b with reload := b.reload.drop 1 }))) ∧
  (∀ s blk op b o bank addr stride m fmt sptr row0 fresh k t as bad t₂ scs bad', engOp s blk op = some (b, o) →
    o.kind = .mstr bank addr stride m fmt sptr row0 fresh → mstrReady s blk b o bank (row0 + o.prog) = true →
    itemHeld s blk (.acc blk ((row0 + o.prog) / 8)) = false → bankOf s b.core bank = some k → k.blk = blk →
    engRead s b (some (.mop blk op, o.prog)) o.outcomes (addr + BitVec.ofNat 64 (o.prog * stride)) (rowBytes k.fmt fmt) = .ok (t, as, bad) →
    (if blockFmt fmt then engRead t b (some (.mop blk op, o.prog)) o.outcomes (sptr + BitVec.ofNat 64 (o.prog * scaleBytes fmt))
        (scaleBytes fmt)
      else .ok (t, [], false)) = .ok (t₂, scs, bad') →
    ∃ u, u = setProg (modMop (putRow t₂ blk (row0 + o.prog) (rowElts b blk (row0 + o.prog) k fmt fresh as scs) (bad || bad' || k.poison)
        fresh) blk op (fun o => { o with outcomes := [], entered := true })) blk o (o.prog + 1) ∧
      exec (.evStreamRow blk op) s = .next (if o.prog + 1 ≥ m then dropMop u blk op else u)) ∧
  (∀ s blk op b o addr stride m fmt rnd sat opn scr scope row0 n lines, engOp s blk op = some (b, o) →
    o.kind = .mdrn addr stride m fmt rnd sat opn scr scope row0 → n = min 8 (m - o.prog) → rowsFree b op (row0 + o.prog) n = true →
    lines = ((List.range n).map (fun k =>
      (rowPieces (drainRow s b blk (row0 + o.prog + k) (if opn == 0 then fmt else 4) rnd sat).1).map (fun p =>
        (addr + BitVec.ofNat 64 ((o.prog + k) * stride + p.1), p.2,
          lineElts (drainRow s b blk (row0 + o.prog + k) (if opn == 0 then fmt else 4) rnd sat).2 p.1 (drainSize fmt))))).flatten →
    (scr = true → exec (.evDrainTile blk op) s = .next (drainScratch s blk b o n m opn rnd sat (drainSize fmt) lines)) ∧
    (∀ t leaves, scr = false → drainLeaves b o.outcomes (lines.map Prod.fst) s = .ok (t, leaves) →
      exec (.evDrainTile blk op) s = .next (drainGlobal t blk b o n m opn rnd sat (drainSize fmt) scope lines leaves)))

/-- R132, R134, R414: batches retire from the oldest on once their operations are complete; a refused request fails its operation. R159,
R162, R163: the Mule moves the line at PROG of an entry; the oldest entry, done and with its times passed, takes effect. Where this rests
on the model's own choices: notes/assumptions 10, 15, 34, 75. -/
def Obligations.BatchAndCopyEventsComplete : Prop :=
  ((∀ s blk b, s.block? blk = some b → b.mops = [] →
    exec (.evBatchRetire blk) s = .next (s.modBlock blk (fun b => retireBatches b 64))) ∧
  (∀ s blk b o, s.block? blk = some b → b.mops = [o] → mclrReady s blk b o = false → mopPassed s o = true →
    exec (.evBatchRetire blk) s = .next ((dropMop s blk o.id).modBlock blk (fun b => retireBatches b 64))) ∧
  (∀ s blk b o row n, s.block? blk = some b → b.mops = [o] → o.kind = .mclr row n → mclrReady s blk b o = true →
    exec (.evBatchRetire blk) s = .next ((dropMop (clearRows s blk row n) blk o.id).modBlock blk (fun b => retireBatches b 64))) ∧
  (∀ s blk op code addr write b o, engLive s blk op = some (b, o) →
    exec (.evEngineFault blk op code addr write) s = .next (engFail (modMop s blk op (fun o => { o with req := none })) blk op code addr write
      (match o.req with | some r => s.mem.pageReqs.any (fun q => q.id == r && q.stage2) | none => false)))) ∧
  ((∀ s blk idx b c v e t src t₂ dst t₃ bs bad t₄ g, muleEntry s blk idx = some (b, c) →
    s.view { blk := blk, who := .bell } = some v → e = ringEntry b idx → scratchPoison s blk (32 * (idx % 64)) 32 = false →
    e.bad b = false → c.prog < e.total →
    copyTgt s v c.outcomes e.w0 (e.lineOff (!e.side) c.prog) false = .ok (t, src) →
    copyTgt t v c.outcomes e.w1 (e.lineOff e.side c.prog) true = .ok (t₂, dst) →
    copyRead t₂ v idx c.prog src = .ok (t₃, bs, bad) → copyWrite t₃ v idx dst bs bad = .ok (t₄, g) →
    ∃ u, u = modCopy t₄ blk idx (fun c => { c with
        prog := c.prog + 1, g := max c.g g, outcomes := [], done := decide (c.prog + 1 ≥ e.total) }) ∧
      exec (.evCopyLine blk idx) s = .next (if bad.isEmpty then u else copyEnd u blk idx fPOISON)) ∧
  (∀ s blk b c rest e s₁ t status, s.block? blk = some b → b.copies = c :: rest → c.done = true → c.g < s.ft → c.req = none →
    b.stat = .resident → itemHeld s blk (.scratch blk (32 * (c.idx % 64) / 128)) = false → e = ringEntry b c.idx → arrivalMeets s blk b e = (s₁, true) → copyAdd s₁ blk b c e = .made t status →
    ∃ u, u = (if status == 0 then t
        else copyErr (scratchWrite t blk (32 * (c.idx % 64)) (leBytes 8 (e.w0 % 2 ^ 57 + status % 128 * 2 ^ 57)) false) blk c) ∧
      exec (.evCopyCompletion blk) s = .next
        ((completeOp (copyArrival u blk b e)
          { blk := blk, who := match c.issuer with | some g => .path g false | none => .bell } c.op).modBlock blk
          (fun b => { b with head := b.head + 1, copies := b.copies.drop 1 }))))

/-- R34, R49, R57: a grid barrier's phase completes; room goes to the oldest grid of a running context that has a cluster to place; blocks
are swapped out and return. R54, R55, R157, R287: a finished block of a running context ends, once it has released its locks; a grid whose
blocks have ended and drained completes, and with it its packet; a graph completes when its nodes are quiet. Where this rests on the model's
own choices: notes/assumptions 10, 46, 66, 84, 91, 94. -/
def Obligations.GridEventsComplete : Prop :=
  ((∀ s (msg : BarrierMsg) g, s.grids[msg.grid]? = some g → allDispatched g = true → g.arrived ≠ [] →
    (∀ x ∈ gridBlocks s msg.grid, arrives x.1 = true → x.2 ∈ g.arrived) →
    exec (.evHbarCompletion msg) s = .next (if g.moved = true ∧ ¬ (msg.pod = true ∧ g.told = some g.phase) then tellBarrier s msg.grid g
      else s.modGrid msg.grid (fun g => { g with phase := g.phase + 1, arrived := [], told := none }))) ∧
  (∀ s ctx c l g gi r t, s.ctxs[ctx]? = some c → c.state = .running → s.fe.restart = false → gridOrder s ctx = l ++ (g, gi) :: r →
    (∀ x ∈ l, dispatchNext s ctx x.2 c x.1 = none) →
    dispatchNext s ctx gi c g = some t → exec (.evBlockDispatch ctx) s = .next (noteDispatch t gi)) ∧
  (∀ s grid g c first, s.grids[grid]? = some g → s.ctxs[g.ctx]? = some c → c.state = .running →
    longestWait s (swapClusters s grid g) = some first → gridMoves s g.ctx grid c g = false →
    gridMoves (swapBlocks s (swapClusters s grid g).flatten) g.ctx grid c g = true →
    exec (.evSwapOut grid) s = .next (swapBlocks s first)) ∧
  (∀ s blk b g c cores, s.block? blk = some b → s.grids[b.grid]? = some g → s.ctxs[b.ctx]? = some c →
    returnCores s c g b blk = some cores → exec (.evSwapReturn blk) s = .next (unswap s (returning s b g) cores))) ∧
  ((∀ s blk b v c, s.block? blk = some b → s.view { blk := blk, who := .bell } = some v → ctxOf s b = some c → c.state = .running →
    blockFinished s b blk = true →
    (∀ h t, b.locks.find? (fun h => !h.written) = some h → runBack s v h none 0 = .ok t → exec (.evBlockEnd blk) s = .next t) ∧
    (b.locks.find? (fun h => !h.written) = none → pairPassed b = true →
      (b.locks = [] → exec (.evBlockEnd blk) s = .next (freeBlock s blk)) ∧
      (∀ h rest, b.locks = h :: rest →
        (∀ p, b.pair = some p → p.primary = false →
          exec (.evBlockEnd blk) s = .next (s.modBlock blk (fun b => { b with locks := [] }))) ∧
        ((∀ p, b.pair = some p → p.primary = true) → h.rel.getD 0 < s.ft →
          exec (.evBlockEnd blk) s = .next (lockFree s blk c h.num))))) ∧
  (∀ s grid g, s.grids[grid]? = some g → g.complete = false → g.node = none → allDispatched g = true → gridDrained s grid = true →
    s.fe.restart = false →
    (g.graph = true → exec (.evGridComplete grid) s = .next (s.modGrid grid (fun g => { g with complete := true }))) ∧
    (g.graph = false → g.drain = none → exec (.evGridComplete grid) s = .next (gridDrain s grid g)) ∧
    (∀ t n, g.graph = false → g.drain = some (t, n) → t < s.ft → exec (.evGridComplete grid) s = .next (endGrid s grid g))) ∧
  (∀ s grid g, s.grids[grid]? = some g → graphQuiet s g = true → s.fe.restart = false →
    (g.drain = none → exec (.evGraphComplete grid) s = .next (gridDrain s grid g)) ∧
    (drainOver s g = true → exec (.evGraphComplete grid) s = .next (endGrid s grid g))))

/-- R59, R286, R287: a quiet node is replaced by the packet that waits for it; the timeout forms a block of the records held; a spilled
record returns when there is room. Where this rests on the model's own choices: notes/assumptions 10. -/
def Obligations.NodeEventsComplete : Prop :=
  (∀ s ctx node n q d p, s.fe.nodes.find? (fun n => n.ctx == ctx && n.index == node) = some n → n.replace = some (q, d) →
    pktOf s q = some p → nodeQuiet s n = true → s.fe.restart = false →
    exec (.evNodeReplace ctx node) s = .next (completePkt (registerNode s ctx node (pktNat p.body 18 2) d) q 0 0)) ∧
  (∀ s ctx node die n g r rest, s.fe.nodes.find? (fun n => n.ctx == ctx && n.index == node) = some n → gatherOf s ctx node die = some g →
    g.recs ++ g.spilled = r :: rest → r.1 + n.timeout ≤ s.ft →
    exec (.evGatherTimeout ctx node die) s = .next (formBlocks (unspill s n g) ctx node die true 1)) ∧
  (∀ s ctx node die g c r rest, gatherOf s ctx node die = some g → s.ctxs[ctx]? = some c → g.spilled = r :: rest →
    (gatherUsed s ctx die).1 + r.2.length ≤ gatherShare c.desc.cores die →
    exec (.evSpillReturn ctx node die) s = .next (formBlocks (s.modFe (fun f => { f with gathers := f.gathers.map (fun x =>
      if x.ctx == ctx && x.node == node && x.die == die then { x with recs := x.recs ++ [r], spilled := rest } else x) })) ctx node die false 1))

/-- R281, R282: the packets NOP, LAUNCH, GRAPH and NODE once the sequencer has taken them. R289, R290: a LOAD checks, relocates and places
its image, and completes when FT has passed its step. Where this rests on the model's own choices: notes/assumptions 39, 43, 44, 60, 62,
101. -/
def Obligations.GridAndLoadPacketsComplete : Prop :=
  ((∀ s q u x, takePkt s q (fun t => t == 0 || (pktLen t).isNone) = (u, some x) →
    exec (.evNopPacket q) s = .next (completePkt u q 0 0)) ∧
  (∀ s q u p c x d t, gridMade u q = false → c.moving = false → launchLimits p = true →
    pktKernel u q c x (pktNat p.body 16 8) = (t, .ok d) → d.node = false →
    (∀ t' l, qXlate t c x (BitVec.ofNat 64 (pktNat p.body 40 8)) .read = (t', .ok l) →
      couldFit t' q.ctx c.desc.cores d (min (2 ^ pktNat p.body 32 1) (pktNat p.body 24 4 * pktNat p.body 28 2 * pktNat p.body 30 2)) = true →
      (takePkt s q (· == 1) = (u, some (p, c, x)) → exec (.evLaunch q) s = .next { t' with grids := t'.grids ++ [gridOf q p d false] }) ∧
      (takePkt s q (· == 2) = (u, some (p, c, x)) → exec (.evGraph q) s = .next { t' with grids := t'.grids ++ [gridOf q p d true] }))) ∧
  (∀ s q u p c x t d, takePkt s q (· == 3) = (u, some (p, c, x)) → pktNat p.body 16 2 ≤ 4095 → pktNat p.body 18 2 ≤ 10000 →
    pktKernel u q c x (pktNat p.body 24 8) = (t, .ok d) → d.node = true →
    (t.fe.nodes.find? (fun n => n.ctx == q.ctx && n.index == pktNat p.body 16 2) = none →
      exec (.evNode q) s = .next (completePkt (registerNode t q.ctx (pktNat p.body 16 2) (pktNat p.body 18 2) d) q 0 0)) ∧
    (∀ n, t.fe.nodes.find? (fun n => n.ctx == q.ctx && n.index == pktNat p.body 16 2) = some n → n.replace = none →
      exec (.evNode q) s = .next (t.modFe (fun f => { f with
        nodes := f.nodes.map (fun m => if m.ctx == q.ctx && m.index == pktNat p.body 16 2 then { m with replace := some (q, d) } else m) }))))) ∧
  ((∀ s q u p c x, takePkt s q (· == 4) = (u, some (p, c, x)) → p.step ≠ 0 → p.step < u.ft →
    u.mem.devq.any (fun w => match w.dest with | .va ci _ => ci == q.ctx | _ => false) = false → exec (.evLoad q) s = .next (completePkt u q 0 0)) ∧
  (∀ s q u p c x t img dest y y' l nb v, takePkt s q (· == 4) = (u, some (p, c, x)) → p.step = 0 →
    qRead u c x (pktNat p.body 16 8) (pktNat p.body 24 4) = (t, .ok img) → dest = pktNat p.body 32 8 →
    objFormat img = true → objResource img = true → objFeature img = true → nb = (secOf img 3).2 / 8 → y = layoutOf img dest nb →
    relocateAll y (field img 136 4) (Config.symbolValue t.fresh)
      (fun v text => if decide (dest ≤ v) && decide (v < dest + y.textSize) then .ok (textRunStart text (v - dest))
        else (ctxRunStart t .front c (BitVec.ofNat 64 v)).2.mapError (fun _ => 256 + v))
      ((secOf img 4).2 / 16) (secBytes img 4)
      { text := secBytes img 0, rodata := secBytes img 1, data := secBytes img 2, veneer := [], touched := [], starts := [] } = .ok l →
    y' = layoutOf img dest (nb + l.starts.length) →
    roomFor c x (up4k y'.stop / 4096 - dest / 4096) (dest / 4096 * 4096) t = (v, some true) →
    ∃ w, w = placeImage v q.ctx img y' l (brandTable l (secBytes img 3) nb y'.textSize) (nb + l.starts.length) ∧
      exec (.evLoad q) s = .next (pktStep { w with fresh := w.fresh + 1 } q (w.ft + 4104))))

/-- R164, R220, R245, R256, R259, R295: the packets WAITCNT, CUT, STOP, RESUME, INVAL and HEAPQ once the sequencer has taken them. Where
this rests on the model's own choices: notes/assumptions 41, 42, 43, 68, 70, 98, 100. -/
def Obligations.ContextPacketsComplete : Prop :=
  (∀ s q u p c x t bs, takePkt s q (· == 5) = (u, some (p, c, x)) → pktNat p.body 16 8 % 8 = 0 →
    qRead u c x (pktNat p.body 16 8) 8 = (t, .ok bs) → pktNat p.body 24 8 ≤ leNat bs % 2 ^ 63 →
    exec (.evWaitcnt q) s = .next (completePkt t q 0 0)) ∧
  (∀ s q u p c x, takePkt s q (· == 6) = (u, some (p, c, x)) →
    (p.step = 0 → c.desc.chain ≠ 0 → exec (.evCut q) s = .next (pktStep (requestCut u q.ctx) q (c.interval + 1))) ∧
    (p.step ≠ 0 → p.step ≤ c.lastCommit + 1 → exec (.evCut q) s = .next (completePkt u q 0 (p.step - 1)))) ∧
  (∀ s q u p c x ci k, takePkt s q (· == 7) = (u, some (p, c, x)) → targetCtx u p = some ci → u.ctxs[ci]? = some k →
    (p.step = 0 → k.desc.chain ≠ 0 ∨ k.state ≠ .stopped → exec (.evStop q) s = .next (pktStep (requestPreempt u ci) q 1)) ∧
    (p.step ≠ 0 → stoppedFast k = true → exec (.evStop q) s = .next (completePkt u q 0 k.lastCommit))) ∧
  (∀ s q u p c x ci k, takePkt s q (· == 8) = (u, some (p, c, x)) → targetCtx u p = some ci → u.ctxs[ci]? = some k →
    (∀ t v k', p.step = 0 → resumeDesc u ci k = (v, true) → t = resumeFrom v ci ((v.ctxs[ci]?).getD k) →
      t.ctxs[ci]? = some k' → resumeStatus t ci k' = 0 →
      exec (.evResume q) s = .next (pktStep (beginResume t ci) q 1)) ∧
    (p.step ≠ 0 → k.state = .resuming → exec (.evResume q) s = .next (completePkt (restoreCtx u ci none) q 0 0))) ∧
  (∀ s q u p c x, takePkt s q (· == 10) = (u, some (p, c, x)) →
    ∀ fn pasid base len all, fn = pktNat p.body 20 1 → pasid = pktNat p.body 16 4 → base = pktNat p.body 24 8 % 2 ^ 57 →
      len = pktNat p.body 32 8 → all = (pktNat p.body 23 1 != 0) →
      (p.step = 0 → u.mem.invals.find? (fun x => x.pkt == some q) = none →
        exec (.evInval q) s = .next (pktStep ((tlbDrop u fn pasid base len all).modMem (fun m => { m with
          invals := invalOpen u fn pasid base len all (some q) :: m.invals })) q 1)) ∧
      (∀ i, u.mem.invals.find? (fun x => x.pkt == some q) = some i → accessesDone u i = true →
        exec (.evInval q) s = .next (completePkt ((tlbDrop u fn pasid base len all).modMem (fun m => { m with
          invals := m.invals.filter (fun y => y.pkt != some q) })) q 0 0))) ∧
  (∀ s q u p c x t bs, takePkt s q (· == 11) = (u, some (p, c, x)) → pktNat p.body 24 1 ≤ 32 →
    qRead u c x (pktNat p.body 16 8) (16 * pktNat p.body 24 1) = (t, .ok bs) →
    (p.step = 0 → c.state = .running → exec (.evHeapq q) s = .next (pktStep (beginStop t q.ctx .heapq) q 1)) ∧
    (∀ r refs, p.step ≠ 0 → c.state = .stopped → c.cause = some .heapq → ctxRefs t q.ctx c = (r, some refs) →
      exec (.evHeapq q) s = .next (completePkt (retryCut (writeStatus (r.modCtx q.ctx (fun c => { c with state := .running, cause := none }))
        q.ctx) q.ctx) q 0 (heapBits (pktNat p.body 24 1) bs refs))))

/-- R190: a REGION packet once the sequencer has taken it: the switch to software-managed begins and ends when nothing of the region is
left in the directory or in Herd; the switch to hardware-coherent writes back what caches hold and ends when its writes are complete.
Where this rests on the model's own choices: notes/assumptions 41, 78. -/
def Obligations.RegionPacketCompletes : Prop :=
  ∀ s q others u p c x t pages, takePkt s q (· == 9) = (u, some (p, c, x)) → pktNat p.body 16 8 % 4096 = 0 → pktNat p.body 24 8 % 4096 = 0 →
    pktNat p.body 32 1 ≤ 1 → pagesOf u c (pktNat p.body 16 8) (pktNat p.body 24 8) = (t, some pages) →
    (p.step = 0 → c.region = none → ∀ v, v = t.modCtx q.ctx (fun c => { c with
        region := some (pktNat p.body 16 8, pktNat p.body 24 8, pktNat p.body 32 1 == 1) }) →
      (pktNat p.body 32 1 = 1 → exec (.evRegion q others) s =
        .next (pktStep (toCoherent v q.ctx c pages others).1 q ((toCoherent v q.ctx c pages others).2 + 2))) ∧
      (pktNat p.body 32 1 = 0 → exec (.evRegion q others) s = .next (pktStep (toSoftware v (causeOf v q.ctx .other) pages true).1 q 1))) ∧
    (∀ v, (p.step = 1 ∧ toSoftware t (causeOf t q.ctx .other) pages false = (v, true)) ∨ (2 ≤ p.step ∧ p.step < t.ft + 2 ∧ v = t) →
      exec (.evRegion q others) s = .next (completePkt (retype (v.modCtx q.ctx (fun c => { c with region := none })) pages
        (if pktNat p.body 32 1 = 1 then 0 else 1)) q 0 0))

/-- R274, R275, R279: a doorbell joins its queue's latch or takes a new one, a bad one is counted and dropped; DROPS answers the count and
clears it; reading a latch marks it seen and judges its tail for a queue already walked. R274, R276, R313: a FLUSHQ of a queue that the
sequencer does not know lifts its suspension and has its latch recorded afresh; register writes have their register's value, those of
management only from the owner. Where this rests on the model's own choices: notes/assumptions 37, 57, 67, 72, 95, 99. -/
def Obligations.RegisterAndDoorbellEventsComplete : Prop :=
  ((∀ s fn f v, s.fns[fn]? = some f →
    (v.toNat / 2 ^ 40 % 16 ≠ 0 ∨ f.pasidlim ≤ v.toNat / 2 ^ 44 → exec (.evDoorbell fn v) s = .next (countDrop s fn)) ∧
    (v.toNat / 2 ^ 40 % 16 = 0 → v.toNat / 2 ^ 44 < f.pasidlim →
      (∀ l ∈ s.fe.latches, ¬ (l.fn = fn ∧ l.pasid = v.toNat / 2 ^ 44 ∧ l.queue = v.toNat / 2 ^ 32 % 256)) → s.fe.latches.length < 4096 →
      exec (.evDoorbell fn v) s = .next (s.modFe (fun e => { e with latches := e.latches ++
        [TailLatch.start fn (v.toNat / 2 ^ 44) (v.toNat / 2 ^ 32 % 256) (lo32 v)] }))) ∧
    (v.toNat / 2 ^ 40 % 16 = 0 → v.toNat / 2 ^ 44 < f.pasidlim →
      (∃ l ∈ s.fe.latches, l.fn = fn ∧ l.pasid = v.toNat / 2 ^ 44 ∧ l.queue = v.toNat / 2 ^ 32 % 256) →
      exec (.evDoorbell fn v) s = .next (s.modFe (fun e => { e with latches := e.latches.map (fun l =>
        if (l.fn == fn && l.pasid == v.toNat / 2 ^ 44 && l.queue == v.toNat / 2 ^ 32 % 256) && tailAhead (lo32 v) l.tail
        then { l with tail := lo32 v } else l) })))) ∧
  (∀ s fn f, s.fns[fn]? = some f →
    exec (.evDrops fn) s = .next ((s.send (.regValue fn 0x080 f.drops)).modFn fn (fun f => { f with drops := 0 }))) ∧
  (∀ s latch l t t' x u, s.fe.latches[latch]? = some l → s.fe.restart = false → s.mgmt.bootfail = false →
    queueSuspended t l.fn l.pasid l.queue = false →
    t = s.modFe (fun e => { e with latches := e.latches.map (fun k =>
      if k.fn == l.fn && k.pasid == l.pasid && k.queue == l.queue then { k with seen := k.tail } else k) }) →
    walkQueue t l.fn l.pasid l.queue = (t', some x) → u = judgeTail t' x l.fn l.pasid l.tail →
    exec (.evReadAndMark latch) s = .next (takeHeld (u.modFe (fun e => { e with latches := e.latches.map (fun k =>
      if k.fn == l.fn && k.pasid == l.pasid && k.queue == l.queue
      then { k with tail := ((queueOf u x.ctx x.queue).map Queue.tail).getD l.tail,
                    seen := ((queueOf u x.ctx x.queue).map Queue.tail).getD l.tail, fresh := false, recorded := true }
      else k) }))))) ∧
  ((∀ s fn v, exec (.evFlushq fn v) s = .next (flushQueues s fn v)) ∧
  (∀ s fn v, v.getLsbD 0 = false →
    (∀ c ∈ s.ctxs, c.fn = fn → c.pasid = v.toNat / 2 ^ 44 → c.state = .discarded) →
    (∀ x ∈ s.fe.queues, ∀ c, s.ctxs[x.ctx]? = some c → c.fn = fn → c.pasid = v.toNat / 2 ^ 44 → x.queue ≠ v.toNat / 2 ^ 32 % 256) →
    s.fe.reread = [] → (∀ x ∈ s.fe.queues, x.load = .done) →
    exec (.evFlushq fn v) s = .next (s.modFe (fun e => { e with
      walked := e.walked.filter (fun w => !(w.fn == fn && (w.pasid == v.toNat / 2 ^ 44 &&
        w.queue.getD (v.toNat / 2 ^ 32 % 256) == v.toNat / 2 ^ 32 % 256)))
      suspended := e.suspended.filter (fun t => !(t.1 == fn && t.2.1 == v.toNat / 2 ^ 44 && t.2.2 == v.toNat / 2 ^ 32 % 256))
      refused := e.refused.map (fun r => if r.1 == fn && r.2.1 == v.toNat / 2 ^ 44 then (r.1, r.2.1, v.toNat / 2 ^ 32 % 256 :: r.2.2) else r)
      latches := e.latches.map (fun l =>
        if l.fn == fn && l.pasid == v.toNat / 2 ^ 44 && l.queue == v.toNat / 2 ^ 32 % 256 then { l with recorded := false } else l) }))) ∧
  (∀ s m fn v n, n = (v.setWidth 64 : W64).toNat →
    exec (.evRegisterWrite m (.fnReg fn 0x040) v) s = .next (s.modFn fn (fun f => { f with qroot := n / 4096 * 4096 })) ∧
    exec (.evRegisterWrite m (.fnReg fn 0x048) v) s = .next (s.modFn fn (fun f => { f with pasidlim := min n (2 ^ 20) })) ∧
    exec (.evRegisterWrite m (.fnReg fn 0x058) v) s = .next (s.modFn fn (fun f => { f with evqbase := n / 4096 * 4096 + n % 32 })) ∧
    exec (.evRegisterWrite m (.fnReg fn 0x070) v) s = .next (s.modFn fn (fun f => { f with flushaddr := n })) ∧
    exec (.evRegisterWrite m (.fnReg fn 0x078) v) s = .next (s.modFn fn (fun f => { f with prtimeout := max 1 (min 10000 n) }))) ∧
  (∀ s m fn i v, s.mgmt.owner = some m →
    exec (.evRegisterWrite m (.ownerIndex fn) v) s =
      .next ((s.modFn fn (fun f => { f with owner := v.toNat % 1024 })).modMgmt (fun g => { g with lastCmd := s.ft })) ∧
    exec (.evRegisterWrite m (.exportWin i) v) s = .next (writeWindow (s.modMgmt (fun g => { g with lastCmd := s.ft })) i v)) ∧
  (∀ s m r v, s.mgmt.owner ≠ some m → (∃ i, r = .exportWin i) ∨ (∃ fn, r = .ownerIndex fn) ∨ r = .health ∨ (∃ p, r = .hdm p) ∨ r = .qthresh →
    exec (.evRegisterWrite m r v) s = .next (s.modMgmt (fun g => { g with out := .notOwner :: g.out }))))

/-- R272, R273, R278: a bundle of the owner with a good signature replaces the patch RAM and begins a restart; any other leaves it, and
its result is recorded; the restart ends. Where this rests on the model's own choices: notes/assumptions 1, 61. -/
def Obligations.PatchEventsComplete : Prop :=
  (∀ s m b t, s.mgmt.owner = some m → t = s.modMgmt (fun g => { g with lastCmd := s.ft }) →
    (bundleResult s.fe.svn b ≠ 0 →
      exec (.evPatchBundle m b) s = .next (t.modFe (fun f => { f with results := bundleResult s.fe.svn b :: f.results }))) ∧
    (bundleResult s.fe.svn b = 0 → exec (.evPatchBundle m b) s = .next (measFuses (setMeas (t.modFe (fun f => { f with
      results := 0 :: f.results, patch := (patchEntries (leNat ((b.drop 8).take 2)) (b.drop 16)).map (fun e => (e.1, e.2.2)),
      svn := leNat ((b.drop 4).take 4), restart := true })) 5 (sha256 b))))) ∧
  (∀ s, s.fe.restart = true → exec .evSequencerRestart s =
    .next (reloadAll (s.modFe (fun f => { f with
      restart := false, latches := f.latches.map (fun l => { l with recorded := false })
      queues := f.queues.map (fun x => if x.load == .done then { x with load := .restart } else x) })))) ∧
  (∀ s, s.fe.restart = false → exec .evSequencerRestart s = .next (reloadAll s)) ∧
  (∀ s, s.fe.reread = [] → (∀ x ∈ s.fe.queues, x.load = .done) → reloadAll s = s)

/-- R242, R244 to R248, R256: a stop request takes effect by its cause; an interval that has expired asks for a cut; the first core past T
stops the context and opens its increment, each further one stops; closure ends the stop by its cause. Where this rests on the model's own
choices: notes/assumptions 40, 45, 46, 47, 91, 92, 97. -/
def Obligations.StopEventsComplete : Prop :=
  (∀ s ctx c cause, s.ctxs[ctx]? = some c →
    (cause = .cut → c.desc.chain ≠ 0 → c.state = .running → c.cutTime = none → c.cutWant = false →
      exec (.evStopRequest ctx cause) s = .next (chooseCut s ctx)) ∧
    (cause = .preempt → c.desc.chain ≠ 0 → c.state = .running →
      exec (.evStopRequest ctx cause) s = .next (requestCut (s.modCtx ctx (fun c => { c with preempt := true })) ctx)) ∧
    (cause = .preempt → c.desc.chain = 0 → exec (.evStopRequest ctx cause) s = .next (beginStop s ctx .discard)) ∧
    (cause ≠ .cut → cause ≠ .preempt → c.state = .running ∨ c.state = .stopping →
      exec (.evStopRequest ctx cause) s = .next (beginStop s ctx cause))) ∧
  (∀ s ctx c, s.ctxs[ctx]? = some c → c.nextCkpt ≠ 0 → c.nextCkpt ≤ s.ft → c.state = .running →
    exec (.evCheckpointInterval ctx) s =
      .next ((requestCut s ctx).modCtx ctx (fun k => { k with nextCkpt := s.ft + 1000000 * k.desc.ckptms }))) ∧
  (∀ s ctx core c u, s.ctxs[ctx]? = some c → c.cutTime = none →
    u = s.modCtx ctx (fun c => { c with cutCores := c.cutCores.filter (fun k => k != core) }) →
    exec (.evCutTimePassed ctx core) s = .next (if !c.cutCores.isEmpty && c.cutCores.all (fun k => k == core) then stageCut u ctx else u)) ∧
  (∀ s ctx core c t, s.ctxs[ctx]? = some c → c.cutTime = some t → c.state = .running → t < s.ft → c.desc.cores.getLsbD core = true →
    (tierUp s c = false → exec (.evCutTimePassed ctx core) s =
      .next (s.modCtx ctx (fun c => { c with cutTime := none, cutWant := true }))) ∧
    (tierUp s c = true → chainRoom s c (cutSizes s ctx c) = true → exec (.evCutTimePassed ctx core) s =
      .next (beginCut s ctx t (if c.preempt then .preempt else .cut)
        (((List.range 128).filter (fun k => c.desc.cores.getLsbD k)).filter (fun k => k != core)))) ∧
    (tierUp s c = true → chainRoom s c (cutSizes s ctx c) = false → exec (.evCutTimePassed ctx core) s =
      .next ((postEvent s c.fn 7 0 0 c.pasid 0).modCtx ctx (fun c => { c with cutTime := none, cutWant := true })))) ∧
  (∀ s ctx c inc u t c' inc', s.ctxs[ctx]? = some c → closing c = some inc →
    u = runBacks (s.modCtx ctx (fun c => { c with chain := c.chain.map (fun n => { n with
      recalls := n.recalls.filter (fun l => s.mem.fabricBits.contains l) }) })) inc.unlks →
    closureReady u ctx c inc.below = true → backsDone u inc.unlks = true → (∀ l ∈ inc.recalls, u.mem.fabricBits.contains l = false) →
    mergeAllSealed u ctx = (t, true) → t.ctxs[ctx]? = some c' → closing c' = some inc' →
    exec (.evClosure ctx) s = .next (closeCut t ctx c' inc')) ∧
  (∀ s ctx c u t, s.ctxs[ctx]? = some c → closing c = none → c.state = .stopping → c.cause ≠ some .cut → c.cause ≠ some .preempt →
    u = runBacks s (backsOf s ctx) → closureReady u ctx c u.nextId = true → backsDone u (backsOf u ctx) = true →
    t = closeDrains (passUnlks (passLocks u ctx) ctx) ctx →
    (c.cause = some .discard ∨ c.cause = some .flr → exec (.evClosure ctx) s = .next (discardCtx t ctx)) ∧
    (c.cause = some .faultStop ∨ c.cause = some .rollback → exec (.evClosure ctx) s = .next (writeStatus ((freeCores t ctx .stopped).modCtx ctx
      (fun c => { c with state := .stopped, cutTime := none, cutWant := false })) ctx)) ∧
    (c.cause = some .coreDisabled → (∀ v, evacCut t ctx c = some v → exec (.evClosure ctx) s = .next (evacuate v ctx c)) ∧
      (evacCut t ctx c = none → exec (.evClosure ctx) s = .next (evacWait t ctx c))) ∧
    (c.cause = some .heapq → exec (.evClosure ctx) s = .next (writeStatus (t.modCtx ctx (fun c => { c with state := .stopped })) ctx)))

/-- R27, R251 to R254, R257, R258: an increment streams piece by piece, the chains of a port taking turns by die, an awaited item ahead of
its order; with nothing left to read it commits; a context stopped for a rollback is restored from its newest committed increment; SAVECOST
is as computed. R263: a REVISION_MOVE passes on the blocks not yet dispatched and the launches not yet taken. Where this rests on the model's own
choices: notes/assumptions 40, 47, 94, 98. -/
def Obligations.CheckpointEventsComplete : Prop :=
  (∀ s ctx c inc, s.ctxs[ctx]? = some c → streaming c = some inc → tierUp s c = true →
    (∀ p, nextPiece s (chainPort s c) = some (ctx, p) → exec (.evCheckpointStream ctx) s =
      .next (if snatchPiece inc = some p then writePiece s ctx c inc p else turnAfter (writePiece s ctx c inc p) (chainPort s c) p)) ∧
    (∀ p item sub, snatchPiece inc = some p → p.what = .item item sub →
      exec (.evSnatch ctx item sub) s = .next (writePiece s ctx c inc p)) ∧
    (∀ t c', inc.pieces = [] → t = s.modCtx ctx (fun k => { k with
        chain := k.chain.map (fun n => if n.n == inc.n then { n with committed := true, snatch := [] } else n), lastCommit := inc.n,
        commitFt := s.ft }) → t.ctxs[ctx]? = some c' →
      exec (.evIncrementCommit ctx) s = .next (retryCut (postEvent (writeStatus
        (t.modCtx ctx (fun k => { k with savecost := savecostOf t ctx c' })) ctx) c.fn 5 0 0 c.pasid 0) ctx))) ∧
  (∀ s ctx c, s.ctxs[ctx]? = some c →
    (c.state = .stopped → c.cause = some .rollback → exec (.evRollback ctx) s = .next (beginResume s ctx)) ∧
    (c.state = .resuming → c.cause = some .rollback → exec (.evRollback ctx) s = .next (restoreCtx s ctx (some (markedPages c)))) ∧
    exec (.evSavecostUpdate ctx) s = .next (writeStatus (s.modCtx ctx (fun k => { k with savecost := savecostOf s ctx c })) ctx)) ∧
  (∀ s ctx target featmask c, s.ctxs[ctx]? = some c → c.moving = false → c.state = .running → featmask ≠ Config.featmask → target ≠ 0 →
    ∃ t, t = s.modCtx ctx (fun c => { c with moving := true }) ∧ exec (.evRevisionMove ctx target featmask) s =
      .next (endMove (passLaunches (((t.grids.zipIdx).filter (fun x => x.1.ctx == ctx && !x.1.complete && x.1.node.isNone)).foldl
        (fun s x => (s.send (.revision ctx x.2 x.1.next (gridTotal x.1 - x.1.next))).modGrid x.2 (fun g => { g with
          moved := g.moved || decide (g.next < gridTotal g), next := gridTotal g })) t) ctx) ctx))

/-- R266 to R269: two copies that run, have come to one compare point and agree pass it; a pair that disagrees begins a third run, which
takes the place of the copy that it does not agree with, or leaves the block unresolved. Where this rests on the model's own choices:
notes/assumptions 30, 77, 91, 93. -/
def Obligations.PairEventsComplete : Prop :=
  (∀ s blk a b pt, copiesOf s blk = some (a, b) → a.2.2.run3 = none → blockRuns s a.2.1 = true → blockRuns s b.2.1 = true →
    sharedPoint s (a.1, a.2.1) (b.1, b.2.1) = some pt → pairAgree a.2.2 b.2.2 = true →
    exec (.evComparePoint blk) s = .next (passPoint s a b pt)) ∧
  (∀ s blk a b c, copiesOf s blk = some (a, b) → s.ctxs[a.2.1.ctx]? = some c → c.state = .running →
    a.2.2.failed = true ∨ b.2.2.failed = true ∨ ((sharedPoint s (a.1, a.2.1) (b.1, b.2.1)).isSome = true ∧ pairAgree a.2.2 b.2.2 = false) →
    (a.2.2.run3 = none → exec (.evThirdRun blk) s = .next (startThird s a b)) ∧
    (∀ k t p, a.2.2.run3 = some k → s.block? k = some t → t.pair = some p →
      ((sharedPoint s (a.1, a.2.1) (k, t)).isSome = true → pairAgree a.2.2 p = true →
        exec (.evThirdRun blk) s = .next (replaceCopy s k b a)) ∧
      ((sharedPoint s (b.1, b.2.1) (k, t)).isSome = true → pairAgree a.2.2 p = false → pairAgree b.2.2 p = true →
        exec (.evThirdRun blk) s = .next (replaceCopy s k a b)) ∧
      ((sharedPoint s (a.1, a.2.1) (k, t)).isSome = true ∨ (sharedPoint s (b.1, b.2.1) (k, t)).isSome = true ∨
          thirdHalted s (k, t, p) = true → pairAgree a.2.2 p = false → pairAgree b.2.2 p = false →
        exec (.evThirdRun blk) s = .next (unresolved s a b k))))

/-- R221, R222: a page response answers its request, or is counted when no request has its index; a failure answers all of the function and
turns its page requests off; a timeout answers one as invalid and is recorded; requests are enabled again, and given an allocation. R220: an
invalidation drops the covered translations at its arrival, and its completion is sent when the accesses numbered below it have been
performed. Where this rests on the model's own choices: notes/assumptions 4, 36, 38, 100. -/
def Obligations.PageEventsComplete : Prop :=
  ((∀ s fn idx code, s.mem.pageReqs.find? (fun r => r.fn == fn && r.idx == some idx) = none →
    exec (.evPageResponse fn idx code) s = .next (s.modFn fn (fun f => { f with prUnknown := f.prUnknown + 1 }))) ∧
  (∀ s fn idx code r, s.mem.pageReqs.find? (fun r => r.fn == fn && r.idx == some idx) = some r →
    (code ≠ .failure → exec (.evPageResponse fn idx code) s = .next (prPump (answerReq s r code) fn 512)) ∧
    (code = .failure → exec (.evPageResponse fn idx code) s =
      .next ((answerAll s fn .failure).modFn fn (fun f => { f with priOn := false })))) ∧
  (∀ s fn req r f, s.mem.pageReqs.find? (fun r => r.id == req && r.fn == fn) = some r → s.fns[fn]? = some f →
    r.opened + 1000000 * f.prtimeout ≤ s.ft → ∀ t, t = prPump (answerReq s r .invalid) fn 512 →
    (∀ ci, findCtx t fn r.pasid = some ci → exec (.evPageRequestTimeout fn req) s = .next (errRecord t ci r.page 0 0 0xFF 0xFF 6)) ∧
    (findCtx t fn r.pasid = none → exec (.evPageRequestTimeout fn req) s = .next t)) ∧
  (∀ s fn n, exec (.evPriReenable fn) s = .next (prPump (s.modFn fn (fun f => { f with priOn := true })) fn 512) ∧
    exec (.evPageRequestAllocation fn n) s = .next (prPump (s.modFn fn (fun f => { f with priAlloc := n })) fn 512))) ∧
  (∀ s fn pasid base len all (mine : AtsInval → Bool),
    (mine = fun x => x.pkt.isNone && x.fn == fn && x.pasid == pasid && x.base == base && x.len == len && x.all == all) →
    (s.mem.invals.find? mine = none →
      exec (.evAtsInvalidate fn pasid base len all) s = .next ((tlbDrop s fn pasid base len all).modMem (fun m => { m with
        invals := invalOpen s fn pasid base len all none :: m.invals }))) ∧
    (∀ x, s.mem.invals.find? mine = some x → accessesDone s x = true →
      exec (.evAtsInvalidate fn pasid base len all) s = .next (((tlbDrop s fn pasid base len all).modMem (fun m => { m with
        invals := m.invals.filter (fun y => !mine y) })).send (.invalDone fn pasid))))

/-- R120, R232 to R234, R239, R240: what parity finds in a column group is corrected or poisoned, V with it, and recorded; a group without
a flag whose S is not zero is poisoned whole; a line that the memory's ECC cannot correct is poisoned; a cache drops its entry; a failed
data check poisons its line from the failing hop on; a failed array row gives way to the lowest spare one, or its core is disabled. Where
this rests on the model's own choices: notes/assumptions 3, 50, 51. -/
def Obligations.FaultEventsComplete : Prop :=
  (∀ s a g, a.cached = false → anyFlagged g = true → ∀ v t,
    v = (if rebuildV g then s.addPoison (.vword a) else if flagged g.v g.vpar != 0 then s.clearPoison (fun l => l == .vword a) else s) →
    t = recordArray ((rebuild g).zipIdx.foldl (fun s x => match x.1 with
      | .keep => s
      | .fix w => arrPut s a x.2 w
      | .poison => arrPoison s a x.2) v) a →
    ((∀ r ∈ rebuild g, r ≠ .poison) → ((∀ line, a ≠ .hbm line) → exec (.evParityRebuild a g) s = .next t) ∧ exec (.evScrub a g) s = .next t) ∧
    (.poison ∈ rebuild g → ((∀ line, a ≠ .hbm line) → exec (.evParityRebuild a g) s = .next (notePoisoning t a)) ∧
      exec (.evScrub a g) s = .next (notePoisoning t a))) ∧
  (∀ s a g, a.cached = false → anyFlagged g = false → ((∀ line, a ≠ .hbm line) → exec (.evParityRebuild a g) s = .next s) ∧
    (groupS g = 0 → exec (.evScrub a g) s = .next s) ∧
    (groupS g ≠ 0 → exec (.evScrub a g) s =
      .next (notePoisoning (recordArray ((List.range 64).foldl (fun s i => arrPoison s a i) s) a) a))) ∧
  (∀ s n g, exec (.evParityRebuild (.tlb n) g) s = .next (s.modMem (fun m => { m with tlb := m.tlb.eraseIdx n })) ∧
    exec (.evParityRebuild (.walk n) g) s = .next (s.modMem (fun m => { m with walks := m.walks.eraseIdx n })) ∧
    exec (.evScrub (.tlb n) g) s = .next s ∧ exec (.evScrub (.walk n) g) s = .next s) ∧
  (∀ s line g, exec (.evParityRebuild (.hbm line) g) s =
    .next (notePoisoning ((List.range 16).foldl (fun s k => s.addPoison (.mem (16 * line + k))) s) (.hbm line))) ∧
  (∀ s line core link n, (link = true → n ≤ 3 →
      exec (.evDataCheckFailure line { device := none, core := core, link := link } n) s = .next s) ∧
    (link = false ∨ 3 < n → ∀ t, t = (match core with | some c => poisonAtCore s c line | none => physPoisonWrite s (line * 128) 128) →
      exec (.evDataCheckFailure line { device := none, core := core, link := link } n) s =
        .next ((recordAt t (line * 128) 0 3).modMgmt (fun m => { m with poisonev := true })))) ∧
  (∀ s line dev link n, tierDevice s (line * 128) = some dev →
    exec (.evDataCheckFailure line { device := some dev, core := none, link := link } n) s =
      .next ((recordAt (physPoisonWrite s (line * 128) 128) (line * 128) 0 3).modMgmt (fun m => { m with poisonev := true }))) ∧
  (∀ s core row c, s.cores[core]? = some c → c.rows[row]? = some .inUse → ∀ rows, rows = c.rows.set row .disabled →
    (rows.findIdx? (· == .spare) = none →
      exec (.evArrayRowFailure core row) s = .next (disableCore (s.modCore core (fun c => { c with rows := rows })) core)) ∧
    (∀ k t, rows.findIdx? (· == .spare) = some k →
      t = stopStreams (s.modCore core (fun c => { c with rows := rows.set k .inUse })) (fun b => b.core == core && b.stat == .resident) →
      exec (.evArrayRowFailure core row) s =
        .next (if (rows.set k .inUse).contains .spare then t else t.modMgmt (fun m => { m with replreq := true }))))

/-- R191, R196, R197, R203, R247, R422: the home supplies a line, with no E or M while a monitor stands on it, once it has merged Herd
partials that no lease keeps back, and sets its fabric bit; a grant of the only copy counts as a write of the page; an owner supplies a copy
and keeps the line in O, or gives it up; a held write, a lease or a page being saved puts the request back. R195 to R200, R308: an answer
ends the request that awaits it: ownership or H without data, or a line with its state, lease, INVs, LEND and floor; an error answer gives
no line. An INV drops a shared copy, an ACK enters the remote floor, an LREVOKE drops a shared copy, and its acknowledgement ends what was
lent; a lapsed lease drops the copy. Where this rests on the model's own choices: notes/assumptions 10, 46, 52, 63, 73. -/
def Obligations.SupplyAndAnswerEventsComplete : Prop :=
  ((∀ s line req terms want st again code, again = Instr.evHomedata line req terms want → st = homeGrant s line want →
    isRemote s (line * 128) = false → linkShut s terms.owner (dirOf s line) = false →
    code = windowCode s terms.owner (line * 128) 128 (stateRight want) →
    (code ≠ 0 → exec again s = .next (s.sendFab terms.owner (.pkg req) (.answer req (line * 128) code []))) ∧
    (code = 0 → heldOn s line = true → exec again s = .next (putBack s again)) ∧
    (code = 0 → heldOn s line = false → st = .herd →
      (homeJoin s line = none → exec again s = .next (putBack s again)) ∧
      (∀ t, homeJoin s line = some t → exec again s = .next t)) ∧
    (code = 0 → heldOn s line = false → st ≠ .herd → st ≠ .shared → pageHeld s (line * 128) 128 none = true →
      exec again s = .next (putBack (notePage s (line * 128) 128 none) again)) ∧
    (∀ t, code = 0 → heldOn s line = false → homeMerge s line = some t →
      (st = .shared → exec again s = .next (setFabric (sendData t line req terms st) line)) ∧
      (st ≠ .herd → st ≠ .shared → pageHeld s (line * 128) 128 none = false → ∀ u, u = markPages t (line * 128) 128 none →
        (st = .owned → exec again s = .next (setFabric u line)) ∧
        (st ≠ .owned → exec again s = .next (setFabric (sendData u line req terms st) line))))) ∧
  (∀ s line req terms, linkShut s terms.owner (dirOf s line) = false →
    (supplyCode s line terms 0 ≠ 0 → exec (.evFwds line req terms) s =
      .next (s.sendFab terms.owner (.pkg req) (.answer req (line * 128) (supplyCode s line terms 0) []))) ∧
    (supplyCode s line terms 1 ≠ 0 → exec (.evFwdx line { requester := req, terms := terms }) s =
      .next (s.sendFab terms.owner (.pkg req) (.answer req (line * 128) (supplyCode s line terms 1) []))) ∧
    (supplyCode s line terms 0 = 0 → heldOn s line = true → exec (.evFwds line req terms) s = .next (putBack s (.evFwds line req terms))) ∧
    (supplyCode s line terms 1 = 0 → heldOn s line = true →
      exec (.evFwdx line { requester := req, terms := terms }) s = .next (putBack s (.evFwdx line { requester := req, terms := terms }))) ∧
    (supplyCode s line terms 0 = 0 → heldOn s line = false → (fabOf s line).owns = true →
      exec (.evFwds line req terms) s =
        .next (modFab (sendData s line req terms .shared) line (fun f => { f with st := .owned }))) ∧
    (supplyCode s line terms 1 = 0 → heldOn s line = false → (fabOf s line).owns = true →
      exec (.evFwdx line { requester := req, terms := terms }) s =
        .next (if watched s line = true then modFab (sendData s line req terms .shared) line (fun f => { f with st := .owned })
          else modFab (sendData s line req terms .modified) line (fun f => { f with st := .inv }))))) ∧
  ((∀ s line invs lend floor f, f = fabOf s line → answerShut s line = false →
    (f.req = 3 → exec (.evGrant line invs lend floor) s =
      .next (setFabric (setFab (unask s line false) (f.granted s.ft .modified invs lend (floorNow s floor))) line)) ∧
    (f.req = 4 → exec (.evGrant line invs lend floor) s =
      .next (setFabric (setFab (unask s line false) (f.granted s.ft .herd invs lend (floorNow s floor))) line))) ∧
  (∀ s line bytes st leaseE invs lend floor code f, f = fabOf s line → f.req ≠ 0 → answerShut s line = false →
    (code ≠ 0 → code ≠ fPOISON → exec (.evData line bytes st leaseE invs lend floor code) s =
      .next (setFab s { f with req := 0, retryAt := 0, holdVer := 0, early := 0, waiters := [], errs := f.waiters.map (fun w => (w, code)),
                               errEnd := s.ft + 1000 })) ∧
    (∀ t, f.req ≤ 3 → t = clearMemPoison (putLine (unask s line false) line (bytes.take 128)) (line * 128) 128 →
      (code = 0 → exec (.evData line bytes st leaseE invs lend floor code) s =
        .next (setFabric (setFab (t.setPresent line) { f.granted t.ft st invs lend (floorNow t floor) with lease := leaseE }) line)) ∧
      (code = fPOISON → ∀ u, u = (List.range 16).foldl (fun s k => s.addPoison (.mem (line * 16 + k))) t →
        exec (.evData line bytes st leaseE invs lend floor code) s =
          .next (setFabric (setFab (u.setPresent line) { f.granted u.ft st invs lend (floorNow u floor) with lease := leaseE }) line)))) ∧
  (∀ s line req owner tAck f, f = fabOf s line →
    (f.readable s.ft false = true → f.st = .shared → exec (.evInv line { requester := req, owner := owner }) s =
      .next (modFab (s.sendFab owner (.pkg req) (.ack line req (max s.ft (leaseEnd s line)))) line (fun f => { f with st := .inv }))) ∧
    (f.readable s.ft false = false ∨ f.st ≠ .shared → exec (.evInv line { requester := req, owner := owner }) s =
      .next (s.sendFab owner (.pkg req) (.ack line req s.ft))) ∧
    (0 < f.acks → exec (.evAck line (.sharer tAck)) s =
      .next (setFab s { f with acks := f.acks - 1, gRemote := max f.gRemote (tAck + 50) })) ∧
    (f.acks = 0 → f.req ≠ 0 → exec (.evAck line (.sharer tAck)) s =
      .next (setFab s { f with early := f.early + 1, gRemote := max (if f.early == 0 then 0 else f.gRemote) (tAck + 50) })) ∧
    (asked s line false = true → exec (.evAck line .revoked) s = .next (setFab (unask s line false) { f with lend := 0 })) ∧
    (f.st = .shared → f.lease ≤ s.ft → exec (.evFabricLeaseExpiry line) s = .next (setFab s { f with st := .inv })) ∧
    (f.st = .shared → exec (.evLrevoke { line := line, owner := owner }) s =
      .next (modFab ((((List.range s.cores.length).foldl (fun s c => l1Drop s c line) s).modMem
        (fun m => { m with leases := m.leases.filter (fun p => p.1 != line) })).sendFab owner (dirOf s line) (.ackRevoke line)) line
          (fun f => { f with st := .inv }))) ∧
    (f.st ≠ .shared → exec (.evLrevoke { line := line, owner := owner }) s = .next (s.sendFab owner (dirOf s line) (.ackRevoke line)))))

/-- R196, R205 to R213, R247: a recalled owner writes back and gives its copy up; a Herd holder sends its partial on a recall and
on a collection; the home takes written-back data, and its directory entry with them when the copy was the last; it applies a merged value
once leases and LEND allow it; a lost holder poisons the next merge; a census without a good copy poisons the line, and is logged once.
Where this rests on the model's own choices: notes/assumptions 10, 46, 53, 54. -/
def Obligations.MergeEventsComplete : Prop :=
  (∀ s line reason owner mrg i, i = Instr.evRecall { line := line, reason := reason, owner := owner } →
    (reason = .revoked → (fabOf s line).owns = true ∨ (fabOf s line).st = .herd → exec i s = .next (dropRevoked s owner line)) ∧
    (reason ≠ .revoked → heldOn s line = true → exec i s = .next (putBack s i)) ∧
    (reason ≠ .revoked → heldOn s line = false → (fabOf s line).owns = true → exec i s =
      .next (modFab ((unask s line true).sendFab owner (dirOf s line)
        (.wback line (if (fabOf s line).st == .excl then none else some (ownRead s (line * 128) 128)))) line (fun f => { f with st := .inv }))) ∧
    (reason ≠ .revoked → heldOn s line = false → (fabOf s line).st = .herd → exec i s = .next (sendPart s owner line)) ∧
    ((fabOf s line).st = .herd ∨ (herdOf s line).isSome = true →
      exec (.evHcoll line { merge := mrg, owner := owner }) s = .next (sendPart s owner line))) ∧
  (∀ s line owner bytes idle u, isRemote s (line * 128) = false →
    ((bytes = [] ∨ revokedFor s owner line = true) ∧ u = s) ∨
      (bytes ≠ [] ∧ revokedFor s owner line = false ∧ pageHeld s (line * 128) 128 (recallPre s line) = false ∧
        u = physWrite s (line * 128) (bytes.take 128) (recallPre s line)) →
    (idle = true → exec (.evWback line { owner := owner, bytes := bytes, idle := idle }) s = .next (clearFabric u line)) ∧
    (idle = false → exec (.evWback line { owner := owner, bytes := bytes, idle := idle }) s = .next (recallDone u line))) ∧
  (∀ s line tag fold poison lend u, isRemote s (line * 128) = false →
    u = (if lend = 0 then s else modFab s line (fun f => { f with lend := max f.lend lend, grantAt := s.ft })) →
    pageHeld u (line * 128) 128 (recallPre s line) = false → leaseEnd u line ≤ u.ft →
    ((fabOf u line).lend < u.ft →
      ∀ t, t = mergeHome u line tag fold (poison || u.fabric.lost.any (fun x => x.1 == line)) (recallPre s line) →
      exec (.evMergeApply line tag fold { poison := poison, lend := lend }) s =
        .next (clearFabric (t.modFab (fun f => { f with lost := f.lost.filter (fun x => x.1 != line) })) line)) ∧
    (u.ft ≤ (fabOf u line).lend → exec (.evMergeApply line tag fold { poison := poison, lend := lend }) s =
      .next (putBack (askRevoke u u.fabric.owner line) (.evMergeApply line tag fold { poison := poison, lend := 0 })))) ∧
  (∀ s line pkg, (line, pkg) ∉ s.fabric.lost →
    exec (.evLostHolderTimeout line pkg) s = .next (s.modFab (fun f => { f with lost := (line, pkg) :: f.lost }))) ∧
  (∀ s line lost t, (isRemote s (line * 128) = true ∧ t = dropLine s line) ∨
      (isRemote s (line * 128) = false ∧ t = dropLine (physPoisonWrite s (line * 128) 128) line) →
    (lost = true ∨ t.fabric.censusLog = some t.fabric.dirmapVer → exec (.evCensusPoison { line := line, lost := lost }) s = .next t) ∧
    (lost = false → t.fabric.censusLog ≠ some t.fabric.dirmapVer → exec (.evCensusPoison { line := line, lost := lost }) s =
      .next ((recordAt t (line * 128) 0 4).modFab (fun f => { f with censusLog := some f.dirmapVer }))))

/-- R192, R193, R196, R306: a request put off is sent again when its delay has lapsed or its DIRMAP has come, and ends as poison when 4 ms
pass without an answer; a newer DIRMAP is adopted. R303, R305, R307, R308, R422: a request of another package is refused by the windows, or
performed at the home, a wait on a word when its monitor has found it; a packet on a link is accepted in order, dropped as a replay, or
counted and reported as a tag failure; a key is installed for its epoch; a window is revoked by its owner and is so when every recall is
acknowledged. Where this rests on the model's own choices: notes/assumptions 10, 56, 57, 63, 73. -/
def Obligations.RequestAndWindowEventsComplete : Prop :=
  ((∀ s line f, f = fabOf s line → answerShut s line = false →
    exec (.evWait line) s = .next (modAsked s line (fun f => { f with retryAt := s.ft + 1000, reqAt := s.ft })
      (fun a => { a with retryAt := s.ft + 1000 })) ∧
    exec (.evWaitRetry line) s = .next (reissueAll s (fun f => f.line == line && f.retryAt != 0 && decide (f.retryAt ≤ s.ft))
      (fun a => a.line == line && a.retryAt != 0 && decide (a.retryAt ≤ s.ft))) ∧
    (∀ ver, ver ≤ s.fabric.dirmapVer → exec (.evStalemap line ver) s =
      .next (reissueAll s (fun f => f.line == line) (fun a => a.line == line))) ∧
    (∀ ver, s.fabric.dirmapVer < ver → exec (.evStalemap line ver) s =
      .next (modAsked s line (fun f => { f with holdVer := ver }) (fun a => { a with holdVer := ver }))) ∧
    (f.req ≠ 0 → f.retryAt = 0 → f.holdVer = 0 → f.reqAt + 4000000 ≤ s.ft → exec (.evFabricTimeout line) s =
      .next (setFab s { f with req := 0, retryAt := 0, holdVer := 0, early := 0, waiters := [], errs := f.waiters.map (fun w => (w, fPOISON)),
                               errEnd := s.ft + 1000 }))) ∧
  (∀ s ver changes failed, s.fabric.dirmapVer < ver → ∀ told t u,
    told = s.mem.fab.filter (fun f => f.reported && failed.contains (switchOf s f.line)) →
    t = reissueAll (s.modFab (fun f => { f with dirmapVer := ver, dirmap := changes.foldl (fun l x => assocSet l (x.1 % 4096) x.2) f.dirmap }))
      (fun f => (f.holdVer != 0 && decide (f.holdVer ≤ ver)) || failed.contains f.sw)
      (fun a => (a.holdVer != 0 && decide (a.holdVer ≤ ver)) || failed.contains a.sw) →
    u = told.foldl (fun v f => v.sendFab v.fabric.owner (dirOf v f.line) (.census f.line f.st
      (if f.st == .herd then (match herdOf s f.line with | some h => h.tag | none => f.tag) else 0))) t →
    (failed = [] → exec (.evDirmapAdopt ver changes failed) s = .next u) ∧
    (failed ≠ [] → exec (.evDirmapAdopt ver changes failed) s = .next (((changes.map Prod.snd).eraseDups).foldl
      (fun s k => s.sendFab s.fabric.owner (.switch k) (.censusEnd ver)) u)))) ∧
  ((∀ s owner req pa k line code place i, isRemote s pa = false → (k = .read → pa % 128 = 0) → linkShut s owner (.pkg req) = false →
    line = lineOf pa → code = windowCode s owner pa (reqSize k) (reqRight k) → place = farPlace s req pa k →
    i = Instr.evFabricRequest owner req pa k → ∀ done, done = (fun (s : State) => s.modMem (fun m => { m with
      held := m.held.filter (fun h => h.far != some (req, pa, k)), monitors := m.monitors.filter (fun q => q.far != some (req, pa, k)) })) →
    (code ≠ 0 → exec i s = .next ((done s).sendFab owner (.pkg req) (.answer req pa code []))) ∧
    (∀ t, code = 0 → heldOn s line = false → homeMerge s line = some t →
      (k = .read → physPoison t pa 128 = false →
        exec i s = .next (t.sendFab owner (.pkg req) (.answer req pa 0 (ownRead t pa 128)))) ∧
      (∀ d, k = .write d → queuedOn s line = false → pageHeld t pa d.length none = false →
        exec i s = .next ((physWrite t pa d).sendFab owner (.pkg req) (.answer req pa 0 []))) ∧
      (∀ w cond sg v m word, k = .watch w cond sg v → m = farMonitor req pa k w cond sg v → word = leNat (ownRead t pa w) → queuedOn s line = false →
        (∀ q x, farWatch t req pa k = some q → q.hit = some x →
          exec i s = .next ((done t).sendFab owner (.pkg req) (.answer req pa 0 (leBytes w x.toNat)))) ∧
        (farWatch t req pa k = none → physPoison t pa w = false →
          (m.holds word = true → exec i s = .next ((done t).sendFab owner (.pkg req) (.answer req pa 0 (leBytes w word)))) ∧
          (m.holds word = false → monitorsOf t (sliceOf t line) < monitorMax → exec i s = .next (putBack (putMonitor t m) i))))) ∧
    (∀ o t u old, code = 0 → k = .atomic o → pageHeld s pa o.size none = false → syncReady s pa = true → homeMerge s line = some t →
      (place = none ∧ heldOn s line = false ∧ queuedOn s line = false) ∨
        (∃ h, place = some h ∧ lineFirst s line h.seq = true ∧ h.acks = []) →
      syncLane (done t) pa o none = (u, some old) →
      exec i s = .next (u.sendFab owner (.pkg req) (.answer req pa 0 old.1))) ∧
    (∀ o, code = 0 → k = .atomic o → pageHeld s pa o.size none = false → place = none → heldOn s line = true →
      exec i s = .next (putBack (farHold s owner req pa k) i))) ∧
  (∀ s owner (p : LinkPacket) x e late good, x = linkOf s owner p.link → e = p.epoch % 4 →
    late = ((assocGet x.keys e).isSome && decide (p.seq < x.nextSeq e)) → good = (p.seq == x.nextSeq e && tagVerifies p owner x) →
    (x.quarantined = true ∨ late = true → exec (.evTagFailure owner p) s = .next s) ∧
    (x.quarantined = false → late = false → good = true → ∃ f, exec (.evTagFailure owner p) s = .next (modLink s owner p.link f) ∧
      ∀ y, (f y).nextSeq e = (p.seq + 1) % 2 ^ 64 ∧ (f y).tagfail = y.tagfail ∧ (f y).quarantined = y.quarantined ∧ (f y).keys = y.keys) ∧
    (x.quarantined = false → late = false → good = false →
      ∃ f, exec (.evTagFailure owner p) s = .next ((modLink s owner p.link f).send (.tagReport owner p.link)) ∧
      ∀ y, (f y).tagfail = min (y.tagfail + 1) 0xFFFF ∧ (f y).times = s.ft :: y.times.filter (fun t => decide (s.ft < t + 1000000)) ∧
        (f y).quarantined = (y.quarantined || decide (s.fabric.qthresh ≤ (f y).times.length)) ∧ (f y).keys = y.keys ∧ (f y).seqs = y.seqs)) ∧
  (∀ s owner link epoch k t, s.newId = (k, t) → ∃ f, exec (.evKeyInstall owner link epoch) s = .next (modLink t owner link f) ∧
    ∀ x, (f x).keys = ((epoch % 4, k) :: x.keys.filter (fun y => y.1 != epoch % 4)).take 2 ∧ assocGet (f x).seqs (epoch % 4) = some 0 ∧
      assocGet (f x).sent (epoch % 4) = some 0 ∧ (assocGet x.keys (epoch % 4) = none → (f x).quarantined = false)) ∧
  (∀ s m win w, s.mgmt.owner = some m → s.fabric.windows[win]? = some w → w.state = 1 → ∀ t,
    t = (s.modMgmt (fun g => { g with lastCmd := s.ft })).modFab (fun f => { f with windows := f.windows.set win { w with state := 2 } }) →
    exec (.evRevoke m win) s = .next (mgmtSay ((windowLines t w).foldl (fun s l => askRecall s s.fabric.owner l) t) .accepted)) ∧
  (∀ s win w, s.fabric.windows[win]? = some w → w.state = 2 → exec (.evRevokeComplete win) s =
    .next ((s.modFab (fun f => { f with windows := f.windows.set win { w with state := 3 } })).modMem (fun g => { g with
      asks := g.asks.filter (fun a => !(windowLines s w).contains a.line)
      fabricBits := g.fabricBits.filter (fun l => !((windowLines s w).contains l && (fabOf s l).st == .inv)) }))))

/-- R187, R297, R299, R300, R306: a host access to the package's memory is performed at the home: a read answers the bytes, or poison, a
write puts them; one that has to wait stands again; an AtomicOp's completion brings its old value and the word it leaves, or a deferred
fault; a request that times out leaves an AtomicOp's lane poison and a read's lanes dead; a snoop writes back the bytes the device has
written in a sector, gives the line up, and then the host writes. Where this rests on the model's own choices: notes/assumptions 11, 48, 58,
69. -/
def Obligations.HostLinkEventsComplete : Prop :=
  (∀ s (q : HostReq) pa len, 0 < len → pa % 128 + len ≤ 128 → packageMem s pa = true → packageMem s (pa + len - 1) = true →
    inHdm s q pa len = true → heldOn s (lineOf pa) = false → onFabric s pa = false → herdOf s (lineOf pa) = none →
    (physPoison s pa len = false → exec (.evHostMemAccess q pa len none) s = .next (s.send (.answer q.fn pa 0 (physRead s pa len)))) ∧
    (physPoison s pa len = true → exec (.evHostMemAccess q pa len none) s = .next (s.send (.answer q.fn pa fPOISON []))) ∧
    (∀ d, d.length = len → pageHeld s pa 1 none = false →
      exec (.evHostMemAccess q pa len (some d)) s = .next ((physWrite s pa d).send (.answer q.fn pa 0 [])))) ∧
  (∀ s (q : HostReq) pa len wr n t, n = (match wr with | some (d : List Byte) => d.length | none => len) →
    packageMem s pa = true → packageMem s (pa + n - 1) = true → inHdm s q pa n = true →
    ((linePieces pa n).foldl (fun (r : State × Bool) p => if r.2 then hostReady r.1 q.fn p.1 wr.isSome else r) (s, true) = (t, false) →
      exec (.evHostMemAccess q pa len wr) s = .next (putBack t (.evHostMemAccess q pa len wr))) ∧
    ((linePieces pa n).foldl (fun (r : State × Bool) p => if r.2 then hostReady r.1 q.fn p.1 wr.isSome else r) (s, true) = (t, true) →
      (wr = none → physPoison t pa n = false → exec (.evHostMemAccess q pa len wr) s = .next (t.send (.answer q.fn pa 0 (physRead t pa n)))) ∧
      (∀ d, wr = some d → exec (.evHostMemAccess q pa len wr) s = .next ((physWrite t pa d).send (.answer q.fn pa 0 []))))) ∧
  (∀ s id a old, s.mem.atomics.find? (fun a => a.id == id) = some a → ∀ t,
    t = s.modMem (fun m => { m with atomics := m.atomics.filter (fun x => x.id != id) }) →
    exec (.evAtomicopCompletion id .unsupported old) s = .next (atomicFault t a fATOMUNS) ∧
    exec (.evAtomicopCompletion id .abort old) s = .next (atomicFault t a fPERM) ∧
    exec (.evCompletionTimeout id) s =
      .next (deliverOld (atomicFault t a fPOISON) a.party a.op a.dst a.words [(a.lane, none)]) ∧
    (old.length = a.req.size →
      (a.req.apply old = none → exec (.evAtomicopCompletion id .success old) s = .next (deliverOld t a.party a.op a.dst a.words [(a.lane, some old)])) ∧
      (∀ now u, a.req.apply old = some now → u = hostPut t a.pa now →
        exec (.evAtomicopCompletion id .success old) s =
          .next (deliverOld ((opParties u a.party a.op).foldl (fun x q => modOp x q a.op (fun o => { o with g := max o.g x.ft })) u)
            a.party a.op a.dst a.words [(a.lane, some old)])))) ∧
  (∀ s id p o reg n t, s.mem.atomics.find? (fun a => a.id == id) = none → loadParty s id = some p → findOp s p id = some o →
    o.dst = .vreg reg n → t = modOp s p id (fun o => { o with pending := [], miss := [] }) →
    ∀ lanes, lanes = maskOf (fun l => o.pending.any (fun x => x.1 == l)) →
    exec (.evCompletionTimeout id) s = .next (endLoad (killFrom (noteArrived t p id lanes) p lanes) p id)) ∧
  (∀ s sector after t u v, region s (sector * 64) = .host →
    t = (s.mem.sectors.filter (fun x => x.addr == sector && x.modified)).foldl (fun s x => (List.range 64).foldl (fun s k =>
      if x.mask.getLsbD k then (s.modMem (fun m => { m with cells := cellSet m.cells (sector * 64 + k) (x.bytes.getD k 0) })).send
        (.dirtyByte (sector * 64 + k) (x.bytes.getD k 0)) else s) s) s →
    u = t.modMem (fun m => { m with sectors := m.sectors.filter (fun x => x.addr != sector) }) →
    v = ((List.range u.cores.length).foldl (fun s c => l1Drop s c (sector * 64 / 128)) u).modMem (fun m => { m with
      leases := m.leases.filter (fun p => p.1 != sector * 64 / 128) }) →
    exec (.evCxlCacheSnoop sector after) s =
      .next (after.foldl (fun s (x : Nat × Byte) => hostPut s (sector * 64 + x.1 % 64) [x.2]) v))

/-- R8, R28, R302: a function's contexts stop and, once all are discarded, its registers, latches, requests and translations go back to
reset; the device is reset, and keeps its fused counters, its memories and its tier links; a memory-tier link goes down, and what streamed
through it is given up; it comes back, and cuts that waited for it are taken; the power limit sets only the clock. Where this rests on the
model's own choices: notes/assumptions 11, 59, 64. -/
def Obligations.ResetAndLinkEventsComplete : Prop :=
  (∀ s fn mine, mine = (s.ctxs.zipIdx).filter (fun (x : Ctx × Nat) => x.1.fn == fn && x.1.state != .discarded) →
    (mine ≠ [] → exec (.evFunctionLevelReset fn) s = .next (putBack
      (mine.foldl (fun s (x : Ctx × Nat) => if x.1.cause == some .flr then s else beginStop s x.2 .flr) s) (.evFunctionLevelReset fn))) ∧
    (mine = [] → exec (.evFunctionLevelReset fn) s =
      .next (((s.modFe (fun e => { e with
          latches := e.latches.filter (fun l => l.fn != fn), held := e.held.filter (fun x => x.1 != fn),
          suspended := e.suspended.filter (fun x => x.1 != fn), refused := e.refused.filter (fun x => x.1 != fn),
          reqs := e.reqs.filter (fun x => x.1 != fn), answers := e.answers.filter (fun x => x.1 != fn),
          walked := e.walked.filter (fun w => w.fn != fn) })).modMem (fun m => { m with
        pageReqs := m.pageReqs.filter (fun r => r.fn != fn), tlb := m.tlb.filter (fun t => t.fn != fn),
        walks := m.walks.filter (fun e => e.fn != fn), invals := m.invals.filter (fun x => x.fn != fn) })).modFn fn (fun _ => Fn.reset)))) ∧
  (∀ s, exec .evDeviceReset s = .next (deviceReset s) ∧ (deviceReset s).fe = { FrontEnd.reset with svn := s.fe.svn } ∧
    (deviceReset s).mgmt = { Mgmt.reset with svns := s.mgmt.svns, hdmRange := s.mgmt.hdmRange } ∧ (deviceReset s).fabric = Fabric.reset ∧
    (deviceReset s).fns = State.reset.fns ∧ (deviceReset s).cores = State.reset.cores ∧ (deviceReset s).blocks = [] ∧
    (deviceReset s).grids = [] ∧ (deviceReset s).ctxs = [] ∧ (deviceReset s).ft = 0 ∧ (deviceReset s).mem.tierDown = s.mem.tierDown ∧
    (s.fabric.pkg = 0 → (deviceReset s).mem.cells = s.mem.cells)) ∧
  (∀ s port t, t = loseFlights (setTier s port true) port →
    exec (.evTierLinkFailure port) s = .next ((t.ctxs.zipIdx).foldl (fun s (x : Ctx × Nat) => dropStreaming s x.2 x.1) t)) ∧
  (∀ s port t, t = setTier s port false →
    exec (.evTierLinkRestore port) s = .next ((t.ctxs.zipIdx).foldl (fun s (x : Ctx × Nat) => retryCut s x.2) t)) ∧
  (∀ s on, exec (.evPowerLimit on) s = .next (s.modMgmt (fun g => { g with slowed := on })))

/-- R10, R23, R304: the time base never goes back, and the fabric manager's formation gives the package its number, owner, lease and
epoch. R312, R313: claims within 100 ms while no master owns the device make an election, which the best claim wins after 100 ms; the owner hands over
to a successor that accepts within 1 s; silence of 10 s ends ownership; a master that is not the owner is answered NOTOWNER. Where this
rests on the model's own choices: notes/assumptions 2, 55, 72. -/
def Obligations.PodAndOwnershipEventsComplete : Prop :=
  ((∀ s t, exec (.evIeee1588Sync t) s = .next { s with ft := max s.ft t }) ∧
  (∀ s pkg owner leaseF epoch t,
    t = (if pkg % 1024 = s.fabric.pkg then s else s.modMem (fun m => renumber m s.fabric.pkg (pkg % 1024))).modFab (fun f => { f with
      pkg := pkg % 1024, inPod := true, owner := owner % 1024, leasef := max 2000 (min 500000 leaseF), epoch := epoch }) →
    exec (.evPodFormation pkg owner leaseF epoch) s = .next { t with ft := max t.ft epoch })) ∧
  ((∀ s' s m nonce, s = endElection s' → (∀ o, s.mgmt.owner = some o → exec (.evClaim m nonce) s' = .next (mgmtSay s .notOwner)) ∧
    (s.mgmt.owner = none → s.mgmt.election = none →
      exec (.evClaim m nonce) s' = .next (s.modMgmt (fun g => { g with election := some [{ m := m, nonce := nonce }], electAt := s.ft }))) ∧
    (∀ l, s.mgmt.owner = none → s.mgmt.election = some l → exec (.evClaim m nonce) s' =
      .next (s.modMgmt (fun g => { g with election := some (l.filter (fun c => c.m != m) ++ [{ m := m, nonce := nonce }]) })))) ∧
  (∀ s l, s.mgmt.election = some l → s.mgmt.electAt + 100000000 ≤ s.ft →
    (∀ c, l.find? (fun c => l.all (fun d => d == c || beats s c d)) = some c → exec .evElectionEnd s = .next (setOwner s c.m)) ∧
    (l.find? (fun c => l.all (fun d => d == c || beats s c d)) = none →
      exec .evElectionEnd s = .next (s.modMgmt (fun g => { g with election := none })))) ∧
  (∀ s m succ, (s.mgmt.owner = some m → exec (.evHandover m succ) s =
      .next (s.modMgmt (fun g => { g with succ := some succ, succAt := s.ft, lastCmd := s.ft }))) ∧
    (s.mgmt.owner ≠ some m → exec (.evHandover m succ) s = .next (s.modMgmt (fun g => { g with out := .notOwner :: g.out })))) ∧
  (∀ s m o, s.mgmt.owner = some o → s.mgmt.succ = some m →
    (s.ft < s.mgmt.succAt + 1000000000 → exec (.evAccept m) s = .next (setOwner s m)) ∧
    (s.mgmt.succAt + 1000000000 ≤ s.ft → exec (.evAccept m) s = .next (mgmtSay s .notOwner) ∧
      exec .evHandoverTimeout s = .next (s.modMgmt (fun g => { g with succ := none })))) ∧
  (∀ s o, s.mgmt.owner = some o → s.mgmt.lastCmd + 10000000000 ≤ s.ft → exec .evOwnerSilence s =
    .next (s.modMgmt (fun g => { g with owner := none, prio := 0, succ := none, epoch := g.epoch + 1 }))))

/-- R10, R23, R311, R312, R314: each SPDM request is answered; boot measures its images, and takes its package number and the masters'
priorities from the board configuration; a failed check leaves only the physical function. Where this rests on the model's own choices:
notes/assumptions 1, 6, 61, 65, 72. -/
def Obligations.AttestationEventsComplete : Prop :=
  (∀ s, exec .evGetVersion s = .next (mgmtSay s (.version [(1, 2)])) ∧
    exec .evGetCapabilities s = .next (mgmtSay s (.capabilities false)) ∧
    exec .evGetDigests s = .next (mgmtSay s (.digests [sha256 (Config.certificate 0)]))) ∧
  (∀ s asym hash, exec (.evNegotiateAlgorithms asym hash) s = .next (mgmtSay s (.algorithms (asym.testBit 4 && hash.testBit 0)))) ∧
  (∀ s slot off len, exec (.evGetCertificate slot off len) s =
    .next (mgmtSay s (.certificate (((Config.certificate slot).drop off).take len)))) ∧
  (∀ s nonce, exec (.evChallenge nonce) s = .next (mgmtSay s (.challenge (Config.sign (nonce ++ s.mgmt.meas.flatten))))) ∧
  (∀ s block, block = 0 ∨ s.mgmt.meas.length < block → exec (.evGetMeasurements block) s = .next (mgmtSay s .rejected)) ∧
  (∀ s block d, 0 < block → s.mgmt.meas[block - 1]? = some d → exec (.evGetMeasurements block) s = .next (mgmtSay s (.measurement block d))) ∧
  (∀ s fw link cfg t, t = measFuses (setMeas (setMeas (setMeas (setMeas s 1 (sha256 (Config.romImage 1))) 2 (sha256 fw.data)) 3
      (sha256 link.data)) 4 (sha256 cfg.data)) →
    ((imageOk fw s.mgmt.svns.1 && imageOk link s.mgmt.svns.2.1 && imageOk cfg s.mgmt.svns.2.2) = true →
      exec (.evBoot fw link cfg) s = .next (boardConfig (t.modMgmt (fun g => { g with bootfail := false })) cfg.data)) ∧
    ((imageOk fw s.mgmt.svns.1 && imageOk link s.mgmt.svns.2.1 && imageOk cfg s.mgmt.svns.2.2) = false →
      exec (.evBoot fw link cfg) s = .next { (t.modMgmt (fun g => { g with bootfail := true })) with fns := t.fns.take 1 }))
end

