-- ==== Sys2Proof/Laws/Encoding.lean ====
section
/-! SUPPORT. The fields of a word put together: each reads back, and two words with equal fields are equal. -/

namespace Sys2Proof

/-- R315: E reads back. -/
@[simp] theorem fE_word (e : Bool) (op : BitVec 7) (low : BitVec 24) : fE (word e op low) = e := by
  unfold fE word
  cases e <;> simp only [BitVec.getLsbD_append] <;> simp

/-- R315: OP reads back. -/
@[simp] theorem fOp_word (e : Bool) (op : BitVec 7) (low : BitVec 24) : fOp (word e op low) = op := by
  unfold fOp word
  apply BitVec.eq_of_getLsbD_eq
  intro i hi
  simp only [BitVec.getLsbD_extractLsb', BitVec.getLsbD_append]
  rw [if_neg (by omega), if_pos (by omega), show 24 + i - 24 = i by omega]
  simp [hi]

/-- R316: a field of bits 23:0 reads as that field of them. -/
theorem extract_word (e : Bool) (op : BitVec 7) (low : BitVec 24) (k n : Nat) (h : k + n ≤ 24) :
    (word e op low).extractLsb' k n = low.extractLsb' k n := by
  unfold word
  ext i hi
  simp only [BitVec.getElem_extractLsb', BitVec.getLsbD_append]
  rw [if_pos (by omega)]

/-- R315, R316: a word is its E, its OP and its bits 23:0. -/
theorem word_fields (w : W32) : word (fE w) (fOp w) (w.extractLsb' 0 24) = w := by
  unfold word fE fOp
  ext i hi
  simp only [BitVec.getElem_append, BitVec.getElem_extractLsb', BitVec.getElem_ofBool]
  split
  · simp; rw [BitVec.getLsbD_eq_getElem (by omega)]
  · split
    · rw [show 24 + (i - 24) = i by omega, BitVec.getLsbD_eq_getElem (by omega)]
    · have : i = 31 := by omega
      subst this
      simp

end Sys2Proof
end

