-- ==== Sys2Proof/Laws/State.lean ====
section
/-! SUPPORT. What each update of the state leaves in each field: one lemma for each field of each update. -/

namespace Sys2Proof.Machine

open Sys2Proof

/-! ## modBlock -/

@[simp] theorem State.modBlock_ft (s : State) (b : Nat) (f : Block → Block) : (s.modBlock b f).ft = s.ft := rfl
@[simp] theorem State.modBlock_fresh (s : State) (b : Nat) (f : Block → Block) : (s.modBlock b f).fresh = s.fresh := rfl
@[simp] theorem State.modBlock_nextId (s : State) (b : Nat) (f : Block → Block) : (s.modBlock b f).nextId = s.nextId := rfl
@[simp] theorem State.modBlock_mem (s : State) (b : Nat) (f : Block → Block) : (s.modBlock b f).mem = s.mem := rfl
@[simp] theorem State.modBlock_cores (s : State) (b : Nat) (f : Block → Block) : (s.modBlock b f).cores = s.cores := rfl
@[simp] theorem State.modBlock_blocks (s : State) (b : Nat) (f : Block → Block) : (s.modBlock b f).blocks = modNth s.blocks b f := rfl
@[simp] theorem State.modBlock_snaps (s : State) (b : Nat) (f : Block → Block) : (s.modBlock b f).snaps = s.snaps := rfl
@[simp] theorem State.modBlock_ctxs (s : State) (b : Nat) (f : Block → Block) : (s.modBlock b f).ctxs = s.ctxs := rfl
@[simp] theorem State.modBlock_grids (s : State) (b : Nat) (f : Block → Block) : (s.modBlock b f).grids = s.grids := rfl
@[simp] theorem State.modBlock_fns (s : State) (b : Nat) (f : Block → Block) : (s.modBlock b f).fns = s.fns := rfl
@[simp] theorem State.modBlock_fe (s : State) (b : Nat) (f : Block → Block) : (s.modBlock b f).fe = s.fe := rfl
@[simp] theorem State.modBlock_fabric (s : State) (b : Nat) (f : Block → Block) : (s.modBlock b f).fabric = s.fabric := rfl
@[simp] theorem State.modBlock_mgmt (s : State) (b : Nat) (f : Block → Block) : (s.modBlock b f).mgmt = s.mgmt := rfl
@[simp] theorem State.modBlock_outbox (s : State) (b : Nat) (f : Block → Block) : (s.modBlock b f).outbox = s.outbox := rfl
@[simp] theorem State.modBlock_inbox (s : State) (b : Nat) (f : Block → Block) : (s.modBlock b f).inbox = s.inbox := rfl
@[simp] theorem State.modBlock_cur (s : State) (b : Nat) (f : Block → Block) : (s.modBlock b f).cur = s.cur := rfl
@[simp] theorem State.modBlock_unit (s : State) (b : Nat) (f : Block → Block) : (s.modBlock b f).unit = s.unit := rfl
@[simp] theorem State.modBlock_engineTurn (s : State) (b : Nat) (f : Block → Block) : (s.modBlock b f).engineTurn = s.engineTurn := rfl

/-! ## modGroup -/

@[simp] theorem State.modGroup_ft (s : State) (b g : Nat) (f : Group → Group) : (s.modGroup b g f).ft = s.ft := rfl
@[simp] theorem State.modGroup_fresh (s : State) (b g : Nat) (f : Group → Group) : (s.modGroup b g f).fresh = s.fresh := rfl
@[simp] theorem State.modGroup_nextId (s : State) (b g : Nat) (f : Group → Group) : (s.modGroup b g f).nextId = s.nextId := rfl
@[simp] theorem State.modGroup_mem (s : State) (b g : Nat) (f : Group → Group) : (s.modGroup b g f).mem = s.mem := rfl
@[simp] theorem State.modGroup_cores (s : State) (b g : Nat) (f : Group → Group) : (s.modGroup b g f).cores = s.cores := rfl
@[simp] theorem State.modGroup_blocks (s : State) (b g : Nat) (f : Group → Group) : (s.modGroup b g f).blocks = modNth s.blocks b (fun x => x.modGroup g f) := rfl
@[simp] theorem State.modGroup_snaps (s : State) (b g : Nat) (f : Group → Group) : (s.modGroup b g f).snaps = s.snaps := rfl
@[simp] theorem State.modGroup_ctxs (s : State) (b g : Nat) (f : Group → Group) : (s.modGroup b g f).ctxs = s.ctxs := rfl
@[simp] theorem State.modGroup_grids (s : State) (b g : Nat) (f : Group → Group) : (s.modGroup b g f).grids = s.grids := rfl
@[simp] theorem State.modGroup_fns (s : State) (b g : Nat) (f : Group → Group) : (s.modGroup b g f).fns = s.fns := rfl
@[simp] theorem State.modGroup_fe (s : State) (b g : Nat) (f : Group → Group) : (s.modGroup b g f).fe = s.fe := rfl
@[simp] theorem State.modGroup_fabric (s : State) (b g : Nat) (f : Group → Group) : (s.modGroup b g f).fabric = s.fabric := rfl
@[simp] theorem State.modGroup_mgmt (s : State) (b g : Nat) (f : Group → Group) : (s.modGroup b g f).mgmt = s.mgmt := rfl
@[simp] theorem State.modGroup_outbox (s : State) (b g : Nat) (f : Group → Group) : (s.modGroup b g f).outbox = s.outbox := rfl
@[simp] theorem State.modGroup_inbox (s : State) (b g : Nat) (f : Group → Group) : (s.modGroup b g f).inbox = s.inbox := rfl
@[simp] theorem State.modGroup_cur (s : State) (b g : Nat) (f : Group → Group) : (s.modGroup b g f).cur = s.cur := rfl
@[simp] theorem State.modGroup_unit (s : State) (b g : Nat) (f : Group → Group) : (s.modGroup b g f).unit = s.unit := rfl
@[simp] theorem State.modGroup_engineTurn (s : State) (b g : Nat) (f : Group → Group) : (s.modGroup b g f).engineTurn = s.engineTurn := rfl

/-! ## modBell -/

@[simp] theorem State.modBell_ft (s : State) (b : Nat) (f : Bell → Bell) : (s.modBell b f).ft = s.ft := rfl
@[simp] theorem State.modBell_fresh (s : State) (b : Nat) (f : Bell → Bell) : (s.modBell b f).fresh = s.fresh := rfl
@[simp] theorem State.modBell_nextId (s : State) (b : Nat) (f : Bell → Bell) : (s.modBell b f).nextId = s.nextId := rfl
@[simp] theorem State.modBell_mem (s : State) (b : Nat) (f : Bell → Bell) : (s.modBell b f).mem = s.mem := rfl
@[simp] theorem State.modBell_cores (s : State) (b : Nat) (f : Bell → Bell) : (s.modBell b f).cores = s.cores := rfl
@[simp] theorem State.modBell_blocks (s : State) (b : Nat) (f : Bell → Bell) : (s.modBell b f).blocks = modNth s.blocks b (fun x => { x with bell := f x.bell }) := rfl
@[simp] theorem State.modBell_snaps (s : State) (b : Nat) (f : Bell → Bell) : (s.modBell b f).snaps = s.snaps := rfl
@[simp] theorem State.modBell_ctxs (s : State) (b : Nat) (f : Bell → Bell) : (s.modBell b f).ctxs = s.ctxs := rfl
@[simp] theorem State.modBell_grids (s : State) (b : Nat) (f : Bell → Bell) : (s.modBell b f).grids = s.grids := rfl
@[simp] theorem State.modBell_fns (s : State) (b : Nat) (f : Bell → Bell) : (s.modBell b f).fns = s.fns := rfl
@[simp] theorem State.modBell_fe (s : State) (b : Nat) (f : Bell → Bell) : (s.modBell b f).fe = s.fe := rfl
@[simp] theorem State.modBell_fabric (s : State) (b : Nat) (f : Bell → Bell) : (s.modBell b f).fabric = s.fabric := rfl
@[simp] theorem State.modBell_mgmt (s : State) (b : Nat) (f : Bell → Bell) : (s.modBell b f).mgmt = s.mgmt := rfl
@[simp] theorem State.modBell_outbox (s : State) (b : Nat) (f : Bell → Bell) : (s.modBell b f).outbox = s.outbox := rfl
@[simp] theorem State.modBell_inbox (s : State) (b : Nat) (f : Bell → Bell) : (s.modBell b f).inbox = s.inbox := rfl
@[simp] theorem State.modBell_cur (s : State) (b : Nat) (f : Bell → Bell) : (s.modBell b f).cur = s.cur := rfl
@[simp] theorem State.modBell_unit (s : State) (b : Nat) (f : Bell → Bell) : (s.modBell b f).unit = s.unit := rfl
@[simp] theorem State.modBell_engineTurn (s : State) (b : Nat) (f : Bell → Bell) : (s.modBell b f).engineTurn = s.engineTurn := rfl

/-! ## modCore -/

@[simp] theorem State.modCore_ft (s : State) (c : Nat) (f : Core → Core) : (s.modCore c f).ft = s.ft := rfl
@[simp] theorem State.modCore_fresh (s : State) (c : Nat) (f : Core → Core) : (s.modCore c f).fresh = s.fresh := rfl
@[simp] theorem State.modCore_nextId (s : State) (c : Nat) (f : Core → Core) : (s.modCore c f).nextId = s.nextId := rfl
@[simp] theorem State.modCore_mem (s : State) (c : Nat) (f : Core → Core) : (s.modCore c f).mem = s.mem := rfl
@[simp] theorem State.modCore_cores (s : State) (c : Nat) (f : Core → Core) : (s.modCore c f).cores = modNth s.cores c f := rfl
@[simp] theorem State.modCore_blocks (s : State) (c : Nat) (f : Core → Core) : (s.modCore c f).blocks = s.blocks := rfl
@[simp] theorem State.modCore_snaps (s : State) (c : Nat) (f : Core → Core) : (s.modCore c f).snaps = s.snaps := rfl
@[simp] theorem State.modCore_ctxs (s : State) (c : Nat) (f : Core → Core) : (s.modCore c f).ctxs = s.ctxs := rfl
@[simp] theorem State.modCore_grids (s : State) (c : Nat) (f : Core → Core) : (s.modCore c f).grids = s.grids := rfl
@[simp] theorem State.modCore_fns (s : State) (c : Nat) (f : Core → Core) : (s.modCore c f).fns = s.fns := rfl
@[simp] theorem State.modCore_fe (s : State) (c : Nat) (f : Core → Core) : (s.modCore c f).fe = s.fe := rfl
@[simp] theorem State.modCore_fabric (s : State) (c : Nat) (f : Core → Core) : (s.modCore c f).fabric = s.fabric := rfl
@[simp] theorem State.modCore_mgmt (s : State) (c : Nat) (f : Core → Core) : (s.modCore c f).mgmt = s.mgmt := rfl
@[simp] theorem State.modCore_outbox (s : State) (c : Nat) (f : Core → Core) : (s.modCore c f).outbox = s.outbox := rfl
@[simp] theorem State.modCore_inbox (s : State) (c : Nat) (f : Core → Core) : (s.modCore c f).inbox = s.inbox := rfl
@[simp] theorem State.modCore_cur (s : State) (c : Nat) (f : Core → Core) : (s.modCore c f).cur = s.cur := rfl
@[simp] theorem State.modCore_unit (s : State) (c : Nat) (f : Core → Core) : (s.modCore c f).unit = s.unit := rfl
@[simp] theorem State.modCore_engineTurn (s : State) (c : Nat) (f : Core → Core) : (s.modCore c f).engineTurn = s.engineTurn := rfl

/-! ## modCtx -/

@[simp] theorem State.modCtx_ft (s : State) (c : Nat) (f : Ctx → Ctx) : (s.modCtx c f).ft = s.ft := rfl
@[simp] theorem State.modCtx_fresh (s : State) (c : Nat) (f : Ctx → Ctx) : (s.modCtx c f).fresh = s.fresh := rfl
@[simp] theorem State.modCtx_nextId (s : State) (c : Nat) (f : Ctx → Ctx) : (s.modCtx c f).nextId = s.nextId := rfl
@[simp] theorem State.modCtx_mem (s : State) (c : Nat) (f : Ctx → Ctx) : (s.modCtx c f).mem = s.mem := rfl
@[simp] theorem State.modCtx_cores (s : State) (c : Nat) (f : Ctx → Ctx) : (s.modCtx c f).cores = s.cores := rfl
@[simp] theorem State.modCtx_blocks (s : State) (c : Nat) (f : Ctx → Ctx) : (s.modCtx c f).blocks = s.blocks := rfl
@[simp] theorem State.modCtx_snaps (s : State) (c : Nat) (f : Ctx → Ctx) : (s.modCtx c f).snaps = s.snaps := rfl
@[simp] theorem State.modCtx_ctxs (s : State) (c : Nat) (f : Ctx → Ctx) : (s.modCtx c f).ctxs = modNth s.ctxs c f := rfl
@[simp] theorem State.modCtx_grids (s : State) (c : Nat) (f : Ctx → Ctx) : (s.modCtx c f).grids = s.grids := rfl
@[simp] theorem State.modCtx_fns (s : State) (c : Nat) (f : Ctx → Ctx) : (s.modCtx c f).fns = s.fns := rfl
@[simp] theorem State.modCtx_fe (s : State) (c : Nat) (f : Ctx → Ctx) : (s.modCtx c f).fe = s.fe := rfl
@[simp] theorem State.modCtx_fabric (s : State) (c : Nat) (f : Ctx → Ctx) : (s.modCtx c f).fabric = s.fabric := rfl
@[simp] theorem State.modCtx_mgmt (s : State) (c : Nat) (f : Ctx → Ctx) : (s.modCtx c f).mgmt = s.mgmt := rfl
@[simp] theorem State.modCtx_outbox (s : State) (c : Nat) (f : Ctx → Ctx) : (s.modCtx c f).outbox = s.outbox := rfl
@[simp] theorem State.modCtx_inbox (s : State) (c : Nat) (f : Ctx → Ctx) : (s.modCtx c f).inbox = s.inbox := rfl
@[simp] theorem State.modCtx_cur (s : State) (c : Nat) (f : Ctx → Ctx) : (s.modCtx c f).cur = s.cur := rfl
@[simp] theorem State.modCtx_unit (s : State) (c : Nat) (f : Ctx → Ctx) : (s.modCtx c f).unit = s.unit := rfl
@[simp] theorem State.modCtx_engineTurn (s : State) (c : Nat) (f : Ctx → Ctx) : (s.modCtx c f).engineTurn = s.engineTurn := rfl

/-! ## modGrid -/

@[simp] theorem State.modGrid_ft (s : State) (g : Nat) (f : Grid → Grid) : (s.modGrid g f).ft = s.ft := rfl
@[simp] theorem State.modGrid_fresh (s : State) (g : Nat) (f : Grid → Grid) : (s.modGrid g f).fresh = s.fresh := rfl
@[simp] theorem State.modGrid_nextId (s : State) (g : Nat) (f : Grid → Grid) : (s.modGrid g f).nextId = s.nextId := rfl
@[simp] theorem State.modGrid_mem (s : State) (g : Nat) (f : Grid → Grid) : (s.modGrid g f).mem = s.mem := rfl
@[simp] theorem State.modGrid_cores (s : State) (g : Nat) (f : Grid → Grid) : (s.modGrid g f).cores = s.cores := rfl
@[simp] theorem State.modGrid_blocks (s : State) (g : Nat) (f : Grid → Grid) : (s.modGrid g f).blocks = s.blocks := rfl
@[simp] theorem State.modGrid_snaps (s : State) (g : Nat) (f : Grid → Grid) : (s.modGrid g f).snaps = s.snaps := rfl
@[simp] theorem State.modGrid_ctxs (s : State) (g : Nat) (f : Grid → Grid) : (s.modGrid g f).ctxs = s.ctxs := rfl
@[simp] theorem State.modGrid_grids (s : State) (g : Nat) (f : Grid → Grid) : (s.modGrid g f).grids = modNth s.grids g f := rfl
@[simp] theorem State.modGrid_fns (s : State) (g : Nat) (f : Grid → Grid) : (s.modGrid g f).fns = s.fns := rfl
@[simp] theorem State.modGrid_fe (s : State) (g : Nat) (f : Grid → Grid) : (s.modGrid g f).fe = s.fe := rfl
@[simp] theorem State.modGrid_fabric (s : State) (g : Nat) (f : Grid → Grid) : (s.modGrid g f).fabric = s.fabric := rfl
@[simp] theorem State.modGrid_mgmt (s : State) (g : Nat) (f : Grid → Grid) : (s.modGrid g f).mgmt = s.mgmt := rfl
@[simp] theorem State.modGrid_outbox (s : State) (g : Nat) (f : Grid → Grid) : (s.modGrid g f).outbox = s.outbox := rfl
@[simp] theorem State.modGrid_inbox (s : State) (g : Nat) (f : Grid → Grid) : (s.modGrid g f).inbox = s.inbox := rfl
@[simp] theorem State.modGrid_cur (s : State) (g : Nat) (f : Grid → Grid) : (s.modGrid g f).cur = s.cur := rfl
@[simp] theorem State.modGrid_unit (s : State) (g : Nat) (f : Grid → Grid) : (s.modGrid g f).unit = s.unit := rfl
@[simp] theorem State.modGrid_engineTurn (s : State) (g : Nat) (f : Grid → Grid) : (s.modGrid g f).engineTurn = s.engineTurn := rfl

/-! ## modFn -/

@[simp] theorem State.modFn_ft (s : State) (n : Nat) (f : Fn → Fn) : (s.modFn n f).ft = s.ft := rfl
@[simp] theorem State.modFn_fresh (s : State) (n : Nat) (f : Fn → Fn) : (s.modFn n f).fresh = s.fresh := rfl
@[simp] theorem State.modFn_nextId (s : State) (n : Nat) (f : Fn → Fn) : (s.modFn n f).nextId = s.nextId := rfl
@[simp] theorem State.modFn_mem (s : State) (n : Nat) (f : Fn → Fn) : (s.modFn n f).mem = s.mem := rfl
@[simp] theorem State.modFn_cores (s : State) (n : Nat) (f : Fn → Fn) : (s.modFn n f).cores = s.cores := rfl
@[simp] theorem State.modFn_blocks (s : State) (n : Nat) (f : Fn → Fn) : (s.modFn n f).blocks = s.blocks := rfl
@[simp] theorem State.modFn_snaps (s : State) (n : Nat) (f : Fn → Fn) : (s.modFn n f).snaps = s.snaps := rfl
@[simp] theorem State.modFn_ctxs (s : State) (n : Nat) (f : Fn → Fn) : (s.modFn n f).ctxs = s.ctxs := rfl
@[simp] theorem State.modFn_grids (s : State) (n : Nat) (f : Fn → Fn) : (s.modFn n f).grids = s.grids := rfl
@[simp] theorem State.modFn_fns (s : State) (n : Nat) (f : Fn → Fn) : (s.modFn n f).fns = modNth s.fns n f := rfl
@[simp] theorem State.modFn_fe (s : State) (n : Nat) (f : Fn → Fn) : (s.modFn n f).fe = s.fe := rfl
@[simp] theorem State.modFn_fabric (s : State) (n : Nat) (f : Fn → Fn) : (s.modFn n f).fabric = s.fabric := rfl
@[simp] theorem State.modFn_mgmt (s : State) (n : Nat) (f : Fn → Fn) : (s.modFn n f).mgmt = s.mgmt := rfl
@[simp] theorem State.modFn_outbox (s : State) (n : Nat) (f : Fn → Fn) : (s.modFn n f).outbox = s.outbox := rfl
@[simp] theorem State.modFn_inbox (s : State) (n : Nat) (f : Fn → Fn) : (s.modFn n f).inbox = s.inbox := rfl
@[simp] theorem State.modFn_cur (s : State) (n : Nat) (f : Fn → Fn) : (s.modFn n f).cur = s.cur := rfl
@[simp] theorem State.modFn_unit (s : State) (n : Nat) (f : Fn → Fn) : (s.modFn n f).unit = s.unit := rfl
@[simp] theorem State.modFn_engineTurn (s : State) (n : Nat) (f : Fn → Fn) : (s.modFn n f).engineTurn = s.engineTurn := rfl

/-! ## modMem -/

@[simp] theorem State.modMem_ft (s : State) (f : MemSys → MemSys) : (s.modMem f).ft = s.ft := rfl
@[simp] theorem State.modMem_fresh (s : State) (f : MemSys → MemSys) : (s.modMem f).fresh = s.fresh := rfl
@[simp] theorem State.modMem_nextId (s : State) (f : MemSys → MemSys) : (s.modMem f).nextId = s.nextId := rfl
@[simp] theorem State.modMem_mem (s : State) (f : MemSys → MemSys) : (s.modMem f).mem = f s.mem := rfl
@[simp] theorem State.modMem_cores (s : State) (f : MemSys → MemSys) : (s.modMem f).cores = s.cores := rfl
@[simp] theorem State.modMem_blocks (s : State) (f : MemSys → MemSys) : (s.modMem f).blocks = s.blocks := rfl
@[simp] theorem State.modMem_snaps (s : State) (f : MemSys → MemSys) : (s.modMem f).snaps = s.snaps := rfl
@[simp] theorem State.modMem_ctxs (s : State) (f : MemSys → MemSys) : (s.modMem f).ctxs = s.ctxs := rfl
@[simp] theorem State.modMem_grids (s : State) (f : MemSys → MemSys) : (s.modMem f).grids = s.grids := rfl
@[simp] theorem State.modMem_fns (s : State) (f : MemSys → MemSys) : (s.modMem f).fns = s.fns := rfl
@[simp] theorem State.modMem_fe (s : State) (f : MemSys → MemSys) : (s.modMem f).fe = s.fe := rfl
@[simp] theorem State.modMem_fabric (s : State) (f : MemSys → MemSys) : (s.modMem f).fabric = s.fabric := rfl
@[simp] theorem State.modMem_mgmt (s : State) (f : MemSys → MemSys) : (s.modMem f).mgmt = s.mgmt := rfl
@[simp] theorem State.modMem_outbox (s : State) (f : MemSys → MemSys) : (s.modMem f).outbox = s.outbox := rfl
@[simp] theorem State.modMem_inbox (s : State) (f : MemSys → MemSys) : (s.modMem f).inbox = s.inbox := rfl
@[simp] theorem State.modMem_cur (s : State) (f : MemSys → MemSys) : (s.modMem f).cur = s.cur := rfl
@[simp] theorem State.modMem_unit (s : State) (f : MemSys → MemSys) : (s.modMem f).unit = s.unit := rfl
@[simp] theorem State.modMem_engineTurn (s : State) (f : MemSys → MemSys) : (s.modMem f).engineTurn = s.engineTurn := rfl

/-! ## modFe -/

@[simp] theorem State.modFe_ft (s : State) (f : FrontEnd → FrontEnd) : (s.modFe f).ft = s.ft := rfl
@[simp] theorem State.modFe_fresh (s : State) (f : FrontEnd → FrontEnd) : (s.modFe f).fresh = s.fresh := rfl
@[simp] theorem State.modFe_nextId (s : State) (f : FrontEnd → FrontEnd) : (s.modFe f).nextId = s.nextId := rfl
@[simp] theorem State.modFe_mem (s : State) (f : FrontEnd → FrontEnd) : (s.modFe f).mem = s.mem := rfl
@[simp] theorem State.modFe_cores (s : State) (f : FrontEnd → FrontEnd) : (s.modFe f).cores = s.cores := rfl
@[simp] theorem State.modFe_blocks (s : State) (f : FrontEnd → FrontEnd) : (s.modFe f).blocks = s.blocks := rfl
@[simp] theorem State.modFe_snaps (s : State) (f : FrontEnd → FrontEnd) : (s.modFe f).snaps = s.snaps := rfl
@[simp] theorem State.modFe_ctxs (s : State) (f : FrontEnd → FrontEnd) : (s.modFe f).ctxs = s.ctxs := rfl
@[simp] theorem State.modFe_grids (s : State) (f : FrontEnd → FrontEnd) : (s.modFe f).grids = s.grids := rfl
@[simp] theorem State.modFe_fns (s : State) (f : FrontEnd → FrontEnd) : (s.modFe f).fns = s.fns := rfl
@[simp] theorem State.modFe_fe (s : State) (f : FrontEnd → FrontEnd) : (s.modFe f).fe = f s.fe := rfl
@[simp] theorem State.modFe_fabric (s : State) (f : FrontEnd → FrontEnd) : (s.modFe f).fabric = s.fabric := rfl
@[simp] theorem State.modFe_mgmt (s : State) (f : FrontEnd → FrontEnd) : (s.modFe f).mgmt = s.mgmt := rfl
@[simp] theorem State.modFe_outbox (s : State) (f : FrontEnd → FrontEnd) : (s.modFe f).outbox = s.outbox := rfl
@[simp] theorem State.modFe_inbox (s : State) (f : FrontEnd → FrontEnd) : (s.modFe f).inbox = s.inbox := rfl
@[simp] theorem State.modFe_cur (s : State) (f : FrontEnd → FrontEnd) : (s.modFe f).cur = s.cur := rfl
@[simp] theorem State.modFe_unit (s : State) (f : FrontEnd → FrontEnd) : (s.modFe f).unit = s.unit := rfl
@[simp] theorem State.modFe_engineTurn (s : State) (f : FrontEnd → FrontEnd) : (s.modFe f).engineTurn = s.engineTurn := rfl

/-! ## modFab -/

@[simp] theorem State.modFab_ft (s : State) (f : Fabric → Fabric) : (s.modFab f).ft = s.ft := rfl
@[simp] theorem State.modFab_fresh (s : State) (f : Fabric → Fabric) : (s.modFab f).fresh = s.fresh := rfl
@[simp] theorem State.modFab_nextId (s : State) (f : Fabric → Fabric) : (s.modFab f).nextId = s.nextId := rfl
@[simp] theorem State.modFab_mem (s : State) (f : Fabric → Fabric) : (s.modFab f).mem = s.mem := rfl
@[simp] theorem State.modFab_cores (s : State) (f : Fabric → Fabric) : (s.modFab f).cores = s.cores := rfl
@[simp] theorem State.modFab_blocks (s : State) (f : Fabric → Fabric) : (s.modFab f).blocks = s.blocks := rfl
@[simp] theorem State.modFab_snaps (s : State) (f : Fabric → Fabric) : (s.modFab f).snaps = s.snaps := rfl
@[simp] theorem State.modFab_ctxs (s : State) (f : Fabric → Fabric) : (s.modFab f).ctxs = s.ctxs := rfl
@[simp] theorem State.modFab_grids (s : State) (f : Fabric → Fabric) : (s.modFab f).grids = s.grids := rfl
@[simp] theorem State.modFab_fns (s : State) (f : Fabric → Fabric) : (s.modFab f).fns = s.fns := rfl
@[simp] theorem State.modFab_fe (s : State) (f : Fabric → Fabric) : (s.modFab f).fe = s.fe := rfl
@[simp] theorem State.modFab_fabric (s : State) (f : Fabric → Fabric) : (s.modFab f).fabric = f s.fabric := rfl
@[simp] theorem State.modFab_mgmt (s : State) (f : Fabric → Fabric) : (s.modFab f).mgmt = s.mgmt := rfl
@[simp] theorem State.modFab_outbox (s : State) (f : Fabric → Fabric) : (s.modFab f).outbox = s.outbox := rfl
@[simp] theorem State.modFab_inbox (s : State) (f : Fabric → Fabric) : (s.modFab f).inbox = s.inbox := rfl
@[simp] theorem State.modFab_cur (s : State) (f : Fabric → Fabric) : (s.modFab f).cur = s.cur := rfl
@[simp] theorem State.modFab_unit (s : State) (f : Fabric → Fabric) : (s.modFab f).unit = s.unit := rfl
@[simp] theorem State.modFab_engineTurn (s : State) (f : Fabric → Fabric) : (s.modFab f).engineTurn = s.engineTurn := rfl

/-! ## modMgmt -/

@[simp] theorem State.modMgmt_ft (s : State) (f : Mgmt → Mgmt) : (s.modMgmt f).ft = s.ft := rfl
@[simp] theorem State.modMgmt_fresh (s : State) (f : Mgmt → Mgmt) : (s.modMgmt f).fresh = s.fresh := rfl
@[simp] theorem State.modMgmt_nextId (s : State) (f : Mgmt → Mgmt) : (s.modMgmt f).nextId = s.nextId := rfl
@[simp] theorem State.modMgmt_mem (s : State) (f : Mgmt → Mgmt) : (s.modMgmt f).mem = s.mem := rfl
@[simp] theorem State.modMgmt_cores (s : State) (f : Mgmt → Mgmt) : (s.modMgmt f).cores = s.cores := rfl
@[simp] theorem State.modMgmt_blocks (s : State) (f : Mgmt → Mgmt) : (s.modMgmt f).blocks = s.blocks := rfl
@[simp] theorem State.modMgmt_snaps (s : State) (f : Mgmt → Mgmt) : (s.modMgmt f).snaps = s.snaps := rfl
@[simp] theorem State.modMgmt_ctxs (s : State) (f : Mgmt → Mgmt) : (s.modMgmt f).ctxs = s.ctxs := rfl
@[simp] theorem State.modMgmt_grids (s : State) (f : Mgmt → Mgmt) : (s.modMgmt f).grids = s.grids := rfl
@[simp] theorem State.modMgmt_fns (s : State) (f : Mgmt → Mgmt) : (s.modMgmt f).fns = s.fns := rfl
@[simp] theorem State.modMgmt_fe (s : State) (f : Mgmt → Mgmt) : (s.modMgmt f).fe = s.fe := rfl
@[simp] theorem State.modMgmt_fabric (s : State) (f : Mgmt → Mgmt) : (s.modMgmt f).fabric = s.fabric := rfl
@[simp] theorem State.modMgmt_mgmt (s : State) (f : Mgmt → Mgmt) : (s.modMgmt f).mgmt = f s.mgmt := rfl
@[simp] theorem State.modMgmt_outbox (s : State) (f : Mgmt → Mgmt) : (s.modMgmt f).outbox = s.outbox := rfl
@[simp] theorem State.modMgmt_inbox (s : State) (f : Mgmt → Mgmt) : (s.modMgmt f).inbox = s.inbox := rfl
@[simp] theorem State.modMgmt_cur (s : State) (f : Mgmt → Mgmt) : (s.modMgmt f).cur = s.cur := rfl
@[simp] theorem State.modMgmt_unit (s : State) (f : Mgmt → Mgmt) : (s.modMgmt f).unit = s.unit := rfl
@[simp] theorem State.modMgmt_engineTurn (s : State) (f : Mgmt → Mgmt) : (s.modMgmt f).engineTurn = s.engineTurn := rfl

/-! ## send -/

@[simp] theorem State.send_ft (s : State) (m : OutMsg) : (s.send m).ft = s.ft := rfl
@[simp] theorem State.send_fresh (s : State) (m : OutMsg) : (s.send m).fresh = s.fresh := rfl
@[simp] theorem State.send_nextId (s : State) (m : OutMsg) : (s.send m).nextId = s.nextId := rfl
@[simp] theorem State.send_mem (s : State) (m : OutMsg) : (s.send m).mem = s.mem := rfl
@[simp] theorem State.send_cores (s : State) (m : OutMsg) : (s.send m).cores = s.cores := rfl
@[simp] theorem State.send_blocks (s : State) (m : OutMsg) : (s.send m).blocks = s.blocks := rfl
@[simp] theorem State.send_snaps (s : State) (m : OutMsg) : (s.send m).snaps = s.snaps := rfl
@[simp] theorem State.send_ctxs (s : State) (m : OutMsg) : (s.send m).ctxs = s.ctxs := rfl
@[simp] theorem State.send_grids (s : State) (m : OutMsg) : (s.send m).grids = s.grids := rfl
@[simp] theorem State.send_fns (s : State) (m : OutMsg) : (s.send m).fns = s.fns := rfl
@[simp] theorem State.send_fe (s : State) (m : OutMsg) : (s.send m).fe = s.fe := rfl
@[simp] theorem State.send_fabric (s : State) (m : OutMsg) : (s.send m).fabric = s.fabric := rfl
@[simp] theorem State.send_mgmt (s : State) (m : OutMsg) : (s.send m).mgmt = s.mgmt := rfl
@[simp] theorem State.send_outbox (s : State) (m : OutMsg) : (s.send m).outbox = m :: s.outbox := rfl
@[simp] theorem State.send_inbox (s : State) (m : OutMsg) : (s.send m).inbox = s.inbox := rfl
@[simp] theorem State.send_cur (s : State) (m : OutMsg) : (s.send m).cur = s.cur := rfl
@[simp] theorem State.send_unit (s : State) (m : OutMsg) : (s.send m).unit = s.unit := rfl
@[simp] theorem State.send_engineTurn (s : State) (m : OutMsg) : (s.send m).engineTurn = s.engineTurn := rfl

/-! ## Updates by cases: modCtl, modPath, addPoison, clearPoison, popPoison -/

@[simp] theorem State.modCtl_ft (s : State) (p : Party) (f : Ctl → Ctl) : (s.modCtl p f).ft = s.ft := by unfold State.modCtl; split <;> rfl
@[simp] theorem State.modCtl_fresh (s : State) (p : Party) (f : Ctl → Ctl) : (s.modCtl p f).fresh = s.fresh := by unfold State.modCtl; split <;> rfl
@[simp] theorem State.modCtl_nextId (s : State) (p : Party) (f : Ctl → Ctl) : (s.modCtl p f).nextId = s.nextId := by unfold State.modCtl; split <;> rfl
@[simp] theorem State.modCtl_mem (s : State) (p : Party) (f : Ctl → Ctl) : (s.modCtl p f).mem = s.mem := by unfold State.modCtl; split <;> rfl
@[simp] theorem State.modCtl_cores (s : State) (p : Party) (f : Ctl → Ctl) : (s.modCtl p f).cores = s.cores := by unfold State.modCtl; split <;> rfl
@[simp] theorem State.modCtl_snaps (s : State) (p : Party) (f : Ctl → Ctl) : (s.modCtl p f).snaps = s.snaps := by unfold State.modCtl; split <;> rfl
@[simp] theorem State.modCtl_ctxs (s : State) (p : Party) (f : Ctl → Ctl) : (s.modCtl p f).ctxs = s.ctxs := by unfold State.modCtl; split <;> rfl
@[simp] theorem State.modCtl_grids (s : State) (p : Party) (f : Ctl → Ctl) : (s.modCtl p f).grids = s.grids := by unfold State.modCtl; split <;> rfl
@[simp] theorem State.modCtl_fns (s : State) (p : Party) (f : Ctl → Ctl) : (s.modCtl p f).fns = s.fns := by unfold State.modCtl; split <;> rfl
@[simp] theorem State.modCtl_fe (s : State) (p : Party) (f : Ctl → Ctl) : (s.modCtl p f).fe = s.fe := by unfold State.modCtl; split <;> rfl
@[simp] theorem State.modCtl_fabric (s : State) (p : Party) (f : Ctl → Ctl) : (s.modCtl p f).fabric = s.fabric := by unfold State.modCtl; split <;> rfl
@[simp] theorem State.modCtl_mgmt (s : State) (p : Party) (f : Ctl → Ctl) : (s.modCtl p f).mgmt = s.mgmt := by unfold State.modCtl; split <;> rfl
@[simp] theorem State.modCtl_outbox (s : State) (p : Party) (f : Ctl → Ctl) : (s.modCtl p f).outbox = s.outbox := by unfold State.modCtl; split <;> rfl
@[simp] theorem State.modCtl_inbox (s : State) (p : Party) (f : Ctl → Ctl) : (s.modCtl p f).inbox = s.inbox := by unfold State.modCtl; split <;> rfl
@[simp] theorem State.modCtl_cur (s : State) (p : Party) (f : Ctl → Ctl) : (s.modCtl p f).cur = s.cur := by unfold State.modCtl; split <;> rfl
@[simp] theorem State.modCtl_unit (s : State) (p : Party) (f : Ctl → Ctl) : (s.modCtl p f).unit = s.unit := by unfold State.modCtl; split <;> rfl
@[simp] theorem State.modCtl_engineTurn (s : State) (p : Party) (f : Ctl → Ctl) : (s.modCtl p f).engineTurn = s.engineTurn := by unfold State.modCtl; split <;> rfl

@[simp] theorem State.modPath_ft (s : State) (p : Party) (f : Path → Path) : (s.modPath p f).ft = s.ft := by unfold State.modPath; split <;> rfl
@[simp] theorem State.modPath_fresh (s : State) (p : Party) (f : Path → Path) : (s.modPath p f).fresh = s.fresh := by unfold State.modPath; split <;> rfl
@[simp] theorem State.modPath_nextId (s : State) (p : Party) (f : Path → Path) : (s.modPath p f).nextId = s.nextId := by unfold State.modPath; split <;> rfl
@[simp] theorem State.modPath_mem (s : State) (p : Party) (f : Path → Path) : (s.modPath p f).mem = s.mem := by unfold State.modPath; split <;> rfl
@[simp] theorem State.modPath_cores (s : State) (p : Party) (f : Path → Path) : (s.modPath p f).cores = s.cores := by unfold State.modPath; split <;> rfl
@[simp] theorem State.modPath_snaps (s : State) (p : Party) (f : Path → Path) : (s.modPath p f).snaps = s.snaps := by unfold State.modPath; split <;> rfl
@[simp] theorem State.modPath_ctxs (s : State) (p : Party) (f : Path → Path) : (s.modPath p f).ctxs = s.ctxs := by unfold State.modPath; split <;> rfl
@[simp] theorem State.modPath_grids (s : State) (p : Party) (f : Path → Path) : (s.modPath p f).grids = s.grids := by unfold State.modPath; split <;> rfl
@[simp] theorem State.modPath_fns (s : State) (p : Party) (f : Path → Path) : (s.modPath p f).fns = s.fns := by unfold State.modPath; split <;> rfl
@[simp] theorem State.modPath_fe (s : State) (p : Party) (f : Path → Path) : (s.modPath p f).fe = s.fe := by unfold State.modPath; split <;> rfl
@[simp] theorem State.modPath_fabric (s : State) (p : Party) (f : Path → Path) : (s.modPath p f).fabric = s.fabric := by unfold State.modPath; split <;> rfl
@[simp] theorem State.modPath_mgmt (s : State) (p : Party) (f : Path → Path) : (s.modPath p f).mgmt = s.mgmt := by unfold State.modPath; split <;> rfl
@[simp] theorem State.modPath_outbox (s : State) (p : Party) (f : Path → Path) : (s.modPath p f).outbox = s.outbox := by unfold State.modPath; split <;> rfl
@[simp] theorem State.modPath_inbox (s : State) (p : Party) (f : Path → Path) : (s.modPath p f).inbox = s.inbox := by unfold State.modPath; split <;> rfl
@[simp] theorem State.modPath_cur (s : State) (p : Party) (f : Path → Path) : (s.modPath p f).cur = s.cur := by unfold State.modPath; split <;> rfl
@[simp] theorem State.modPath_unit (s : State) (p : Party) (f : Path → Path) : (s.modPath p f).unit = s.unit := by unfold State.modPath; split <;> rfl
@[simp] theorem State.modPath_engineTurn (s : State) (p : Party) (f : Path → Path) : (s.modPath p f).engineTurn = s.engineTurn := by unfold State.modPath; split <;> rfl

@[simp] theorem State.addPoison_ft (s : State) (l : PLoc) : (s.addPoison l).ft = s.ft := by unfold State.addPoison; split <;> rfl
@[simp] theorem State.addPoison_fresh (s : State) (l : PLoc) : (s.addPoison l).fresh = s.fresh := by unfold State.addPoison; split <;> rfl
@[simp] theorem State.addPoison_nextId (s : State) (l : PLoc) : (s.addPoison l).nextId = s.nextId := by unfold State.addPoison; split <;> rfl
@[simp] theorem State.addPoison_cores (s : State) (l : PLoc) : (s.addPoison l).cores = s.cores := by unfold State.addPoison; split <;> rfl
@[simp] theorem State.addPoison_blocks (s : State) (l : PLoc) : (s.addPoison l).blocks = s.blocks := by unfold State.addPoison; split <;> rfl
@[simp] theorem State.addPoison_snaps (s : State) (l : PLoc) : (s.addPoison l).snaps = s.snaps := by unfold State.addPoison; split <;> rfl
@[simp] theorem State.addPoison_ctxs (s : State) (l : PLoc) : (s.addPoison l).ctxs = s.ctxs := by unfold State.addPoison; split <;> rfl
@[simp] theorem State.addPoison_grids (s : State) (l : PLoc) : (s.addPoison l).grids = s.grids := by unfold State.addPoison; split <;> rfl
@[simp] theorem State.addPoison_fns (s : State) (l : PLoc) : (s.addPoison l).fns = s.fns := by unfold State.addPoison; split <;> rfl
@[simp] theorem State.addPoison_fe (s : State) (l : PLoc) : (s.addPoison l).fe = s.fe := by unfold State.addPoison; split <;> rfl
@[simp] theorem State.addPoison_fabric (s : State) (l : PLoc) : (s.addPoison l).fabric = s.fabric := by unfold State.addPoison; split <;> rfl
@[simp] theorem State.addPoison_mgmt (s : State) (l : PLoc) : (s.addPoison l).mgmt = s.mgmt := by unfold State.addPoison; split <;> rfl
@[simp] theorem State.addPoison_outbox (s : State) (l : PLoc) : (s.addPoison l).outbox = s.outbox := by unfold State.addPoison; split <;> rfl
@[simp] theorem State.addPoison_inbox (s : State) (l : PLoc) : (s.addPoison l).inbox = s.inbox := by unfold State.addPoison; split <;> rfl
@[simp] theorem State.addPoison_cur (s : State) (l : PLoc) : (s.addPoison l).cur = s.cur := by unfold State.addPoison; split <;> rfl
@[simp] theorem State.addPoison_unit (s : State) (l : PLoc) : (s.addPoison l).unit = s.unit := by unfold State.addPoison; split <;> rfl
@[simp] theorem State.addPoison_engineTurn (s : State) (l : PLoc) : (s.addPoison l).engineTurn = s.engineTurn := by unfold State.addPoison; split <;> rfl

@[simp] theorem State.clearPoison_ft (s : State) (f : PLoc → Bool) : (s.clearPoison f).ft = s.ft := by unfold State.clearPoison; split <;> rfl
@[simp] theorem State.clearPoison_fresh (s : State) (f : PLoc → Bool) : (s.clearPoison f).fresh = s.fresh := by unfold State.clearPoison; split <;> rfl
@[simp] theorem State.clearPoison_nextId (s : State) (f : PLoc → Bool) : (s.clearPoison f).nextId = s.nextId := by unfold State.clearPoison; split <;> rfl
@[simp] theorem State.clearPoison_cores (s : State) (f : PLoc → Bool) : (s.clearPoison f).cores = s.cores := by unfold State.clearPoison; split <;> rfl
@[simp] theorem State.clearPoison_blocks (s : State) (f : PLoc → Bool) : (s.clearPoison f).blocks = s.blocks := by unfold State.clearPoison; split <;> rfl
@[simp] theorem State.clearPoison_snaps (s : State) (f : PLoc → Bool) : (s.clearPoison f).snaps = s.snaps := by unfold State.clearPoison; split <;> rfl
@[simp] theorem State.clearPoison_ctxs (s : State) (f : PLoc → Bool) : (s.clearPoison f).ctxs = s.ctxs := by unfold State.clearPoison; split <;> rfl
@[simp] theorem State.clearPoison_grids (s : State) (f : PLoc → Bool) : (s.clearPoison f).grids = s.grids := by unfold State.clearPoison; split <;> rfl
@[simp] theorem State.clearPoison_fns (s : State) (f : PLoc → Bool) : (s.clearPoison f).fns = s.fns := by unfold State.clearPoison; split <;> rfl
@[simp] theorem State.clearPoison_fe (s : State) (f : PLoc → Bool) : (s.clearPoison f).fe = s.fe := by unfold State.clearPoison; split <;> rfl
@[simp] theorem State.clearPoison_fabric (s : State) (f : PLoc → Bool) : (s.clearPoison f).fabric = s.fabric := by unfold State.clearPoison; split <;> rfl
@[simp] theorem State.clearPoison_mgmt (s : State) (f : PLoc → Bool) : (s.clearPoison f).mgmt = s.mgmt := by unfold State.clearPoison; split <;> rfl
@[simp] theorem State.clearPoison_outbox (s : State) (f : PLoc → Bool) : (s.clearPoison f).outbox = s.outbox := by unfold State.clearPoison; split <;> rfl
@[simp] theorem State.clearPoison_inbox (s : State) (f : PLoc → Bool) : (s.clearPoison f).inbox = s.inbox := by unfold State.clearPoison; split <;> rfl
@[simp] theorem State.clearPoison_cur (s : State) (f : PLoc → Bool) : (s.clearPoison f).cur = s.cur := by unfold State.clearPoison; split <;> rfl
@[simp] theorem State.clearPoison_unit (s : State) (f : PLoc → Bool) : (s.clearPoison f).unit = s.unit := by unfold State.clearPoison; split <;> rfl
@[simp] theorem State.clearPoison_engineTurn (s : State) (f : PLoc → Bool) : (s.clearPoison f).engineTurn = s.engineTurn := by unfold State.clearPoison; split <;> rfl

@[simp] theorem State.popPoison_ft (s : State) (b : Nat) (l : List Nat) : (s.popPoison b l).ft = s.ft := by unfold State.popPoison; split <;> rfl
@[simp] theorem State.popPoison_fresh (s : State) (b : Nat) (l : List Nat) : (s.popPoison b l).fresh = s.fresh := by unfold State.popPoison; split <;> rfl
@[simp] theorem State.popPoison_nextId (s : State) (b : Nat) (l : List Nat) : (s.popPoison b l).nextId = s.nextId := by unfold State.popPoison; split <;> rfl
@[simp] theorem State.popPoison_cores (s : State) (b : Nat) (l : List Nat) : (s.popPoison b l).cores = s.cores := by unfold State.popPoison; split <;> rfl
@[simp] theorem State.popPoison_blocks (s : State) (b : Nat) (l : List Nat) : (s.popPoison b l).blocks = s.blocks := by unfold State.popPoison; split <;> rfl
@[simp] theorem State.popPoison_snaps (s : State) (b : Nat) (l : List Nat) : (s.popPoison b l).snaps = s.snaps := by unfold State.popPoison; split <;> rfl
@[simp] theorem State.popPoison_ctxs (s : State) (b : Nat) (l : List Nat) : (s.popPoison b l).ctxs = s.ctxs := by unfold State.popPoison; split <;> rfl
@[simp] theorem State.popPoison_grids (s : State) (b : Nat) (l : List Nat) : (s.popPoison b l).grids = s.grids := by unfold State.popPoison; split <;> rfl
@[simp] theorem State.popPoison_fns (s : State) (b : Nat) (l : List Nat) : (s.popPoison b l).fns = s.fns := by unfold State.popPoison; split <;> rfl
@[simp] theorem State.popPoison_fe (s : State) (b : Nat) (l : List Nat) : (s.popPoison b l).fe = s.fe := by unfold State.popPoison; split <;> rfl
@[simp] theorem State.popPoison_fabric (s : State) (b : Nat) (l : List Nat) : (s.popPoison b l).fabric = s.fabric := by unfold State.popPoison; split <;> rfl
@[simp] theorem State.popPoison_mgmt (s : State) (b : Nat) (l : List Nat) : (s.popPoison b l).mgmt = s.mgmt := by unfold State.popPoison; split <;> rfl
@[simp] theorem State.popPoison_outbox (s : State) (b : Nat) (l : List Nat) : (s.popPoison b l).outbox = s.outbox := by unfold State.popPoison; split <;> rfl
@[simp] theorem State.popPoison_inbox (s : State) (b : Nat) (l : List Nat) : (s.popPoison b l).inbox = s.inbox := by unfold State.popPoison; split <;> rfl
@[simp] theorem State.popPoison_cur (s : State) (b : Nat) (l : List Nat) : (s.popPoison b l).cur = s.cur := by unfold State.popPoison; split <;> rfl
@[simp] theorem State.popPoison_unit (s : State) (b : Nat) (l : List Nat) : (s.popPoison b l).unit = s.unit := by unfold State.popPoison; split <;> rfl
@[simp] theorem State.popPoison_engineTurn (s : State) (b : Nat) (l : List Nat) : (s.popPoison b l).engineTurn = s.engineTurn := by unfold State.popPoison; split <;> rfl

@[simp] theorem State.addPoison_cells (s : State) (l : PLoc) : (s.addPoison l).mem.cells = s.mem.cells := by unfold State.addPoison; split <;> rfl
/-- Only the poison marks change. -/
theorem State.addPoison_mem (s : State) (l : PLoc) : (s.addPoison l).mem = { s.mem with poison := (s.addPoison l).mem.poison } := by
  unfold State.addPoison; split <;> rfl
@[simp] theorem State.clearPoison_cells (s : State) (f : PLoc → Bool) : (s.clearPoison f).mem.cells = s.mem.cells := by unfold State.clearPoison; split <;> rfl
/-- Only the poison marks change. -/
theorem State.clearPoison_mem (s : State) (f : PLoc → Bool) : (s.clearPoison f).mem = { s.mem with poison := (s.clearPoison f).mem.poison } := by
  unfold State.clearPoison; split <;> rfl
@[simp] theorem State.popPoison_cells (s : State) (b : Nat) (l : List Nat) : (s.popPoison b l).mem.cells = s.mem.cells := by unfold State.popPoison; split <;> rfl
/-- Only the poison marks change. -/
theorem State.popPoison_mem (s : State) (b : Nat) (l : List Nat) : (s.popPoison b l).mem = { s.mem with poison := (s.popPoison b l).mem.poison } := by
  unfold State.popPoison; split <;> rfl

/-! ## Groups -/

@[simp] theorem Group.mark_v (g : Group) (k : Nat) : (g.mark k).v = g.v := by unfold Group.mark; split <;> rfl
@[simp] theorem Group.mark_s (g : Group) (k : Nat) : (g.mark k).s = g.s := by unfold Group.mark; split <;> rfl
@[simp] theorem Group.mark_p (g : Group) (k : Nat) : (g.mark k).p = g.p := by unfold Group.mark; split <;> rfl
@[simp] theorem Group.mark_k (g : Group) (k : Nat) : (g.mark k).k = g.k := by unfold Group.mark; split <;> rfl
@[simp] theorem Group.mark_mode (g : Group) (k : Nat) : (g.mark k).mode = g.mode := by unfold Group.mark; split <;> rfl
@[simp] theorem Group.mark_ops (g : Group) (k : Nat) : (g.mark k).ops = g.ops := by unfold Group.mark; split <;> rfl
@[simp] theorem Group.mark_gwmax (g : Group) (k : Nat) : (g.mark k).gwmax = g.gwmax := by unfold Group.mark; split <;> rfl
@[simp] theorem Group.mark_pmask (g : Group) (k : Nat) : (g.mark k).pmask = g.pmask := by unfold Group.mark; split <;> rfl
@[simp] theorem Group.mark_dead (g : Group) (k : Nat) : (g.mark k).dead = g.dead := by unfold Group.mark; split <;> rfl
@[simp] theorem Group.mark_gstat (g : Group) (k : Nat) : (g.mark k).gstat = g.gstat := by unfold Group.mark; split <;> rfl
@[simp] theorem Group.mark_abase (g : Group) (k : Nat) : (g.mark k).abase = g.abase := by unfold Group.mark; split <;> rfl
@[simp] theorem Group.mark_alim (g : Group) (k : Nat) : (g.mark k).alim = g.alim := by unfold Group.mark; split <;> rfl
@[simp] theorem Group.mark_tbase (g : Group) (k : Nat) : (g.mark k).tbase = g.tbase := by unfold Group.mark; split <;> rfl
@[simp] theorem Group.mark_fin (g : Group) (k : Nat) : (g.mark k).fin = g.fin := by unfold Group.mark; split <;> rfl
@[simp] theorem Group.mark_split (g : Group) (k : Nat) : (g.mark k).split = g.split := by unfold Group.mark; split <;> rfl
@[simp] theorem Group.mark_join (g : Group) (k : Nat) : (g.mark k).join = g.join := by unfold Group.mark; split <;> rfl
@[simp] theorem Group.mark_path0 (g : Group) (k : Nat) : (g.mark k).path0 = g.path0 := by unfold Group.mark; split <;> rfl
@[simp] theorem Group.mark_path1 (g : Group) (k : Nat) : (g.mark k).path1 = g.path1 := by unfold Group.mark; split <;> rfl
@[simp] theorem Group.mark_retired (g : Group) (k : Nat) : (g.mark k).retired = g.retired := by unfold Group.mark; split <;> rfl
@[simp] theorem Group.mark_records (g : Group) (k : Nat) : (g.mark k).records = g.records := by unfold Group.mark; split <;> rfl
@[simp] theorem Group.mark_lastFt (g : Group) (k : Nat) : (g.mark k).lastFt = g.lastFt := by unfold Group.mark; split <;> rfl
@[simp] theorem Group.mark_deferred (g : Group) (k : Nat) : (g.mark k).deferred = g.deferred := by unfold Group.mark; split <;> rfl
@[simp] theorem Group.setPath_v (g : Group) (b : Bool) (p : Path) : (g.setPath b p).v = g.v := by cases b <;> rfl
@[simp] theorem Group.setPath_s (g : Group) (b : Bool) (p : Path) : (g.setPath b p).s = g.s := by cases b <;> rfl
@[simp] theorem Group.setPath_p (g : Group) (b : Bool) (p : Path) : (g.setPath b p).p = g.p := by cases b <;> rfl
@[simp] theorem Group.setPath_k (g : Group) (b : Bool) (p : Path) : (g.setPath b p).k = g.k := by cases b <;> rfl
@[simp] theorem Group.setPath_mode (g : Group) (b : Bool) (p : Path) : (g.setPath b p).mode = g.mode := by cases b <;> rfl
@[simp] theorem Group.setPath_ops (g : Group) (b : Bool) (p : Path) : (g.setPath b p).ops = g.ops := by cases b <;> rfl
@[simp] theorem Group.setPath_gwmax (g : Group) (b : Bool) (p : Path) : (g.setPath b p).gwmax = g.gwmax := by cases b <;> rfl
@[simp] theorem Group.setPath_pmask (g : Group) (b : Bool) (p : Path) : (g.setPath b p).pmask = g.pmask := by cases b <;> rfl
@[simp] theorem Group.setPath_dead (g : Group) (b : Bool) (p : Path) : (g.setPath b p).dead = g.dead := by cases b <;> rfl
@[simp] theorem Group.setPath_gstat (g : Group) (b : Bool) (p : Path) : (g.setPath b p).gstat = g.gstat := by cases b <;> rfl
@[simp] theorem Group.setPath_abase (g : Group) (b : Bool) (p : Path) : (g.setPath b p).abase = g.abase := by cases b <;> rfl
@[simp] theorem Group.setPath_alim (g : Group) (b : Bool) (p : Path) : (g.setPath b p).alim = g.alim := by cases b <;> rfl
@[simp] theorem Group.setPath_tbase (g : Group) (b : Bool) (p : Path) : (g.setPath b p).tbase = g.tbase := by cases b <;> rfl
@[simp] theorem Group.setPath_fin (g : Group) (b : Bool) (p : Path) : (g.setPath b p).fin = g.fin := by cases b <;> rfl
@[simp] theorem Group.setPath_split (g : Group) (b : Bool) (p : Path) : (g.setPath b p).split = g.split := by cases b <;> rfl
@[simp] theorem Group.setPath_join (g : Group) (b : Bool) (p : Path) : (g.setPath b p).join = g.join := by cases b <;> rfl
@[simp] theorem Group.setPath_retired (g : Group) (b : Bool) (p : Path) : (g.setPath b p).retired = g.retired := by cases b <;> rfl
@[simp] theorem Group.setPath_records (g : Group) (b : Bool) (p : Path) : (g.setPath b p).records = g.records := by cases b <;> rfl
@[simp] theorem Group.setPath_lastFt (g : Group) (b : Bool) (p : Path) : (g.setPath b p).lastFt = g.lastFt := by cases b <;> rfl
@[simp] theorem Group.setPath_deferred (g : Group) (b : Bool) (p : Path) : (g.setPath b p).deferred = g.deferred := by cases b <;> rfl
@[simp] theorem Group.setPath_gran (g : Group) (b : Bool) (p : Path) : (g.setPath b p).gran = g.gran := by cases b <;> rfl
@[simp] theorem Group.setPath_path (g : Group) (b : Bool) (p : Path) : (g.setPath b p).path b = p := by cases b <;> rfl
@[simp] theorem Group.setPath_path_not (g : Group) (b : Bool) (p : Path) : (g.setPath b p).path (!b) = g.path (!b) := by cases b <;> rfl
@[simp] theorem Group.mark_path (g : Group) (k : Nat) (b : Bool) : (g.mark k).path b = g.path b := by cases b <;> simp [Group.path]
@[simp] theorem Group.setV_s (g : Group) (r : Nat) (m : W32) (x : Nat → W32) : (g.setV r m x).s = g.s := by simp [Group.setV]
@[simp] theorem Group.setV_p (g : Group) (r : Nat) (m : W32) (x : Nat → W32) : (g.setV r m x).p = g.p := by simp [Group.setV]
@[simp] theorem Group.setV_k (g : Group) (r : Nat) (m : W32) (x : Nat → W32) : (g.setV r m x).k = g.k := by simp [Group.setV]
@[simp] theorem Group.setV_mode (g : Group) (r : Nat) (m : W32) (x : Nat → W32) : (g.setV r m x).mode = g.mode := by simp [Group.setV]
@[simp] theorem Group.setV_ops (g : Group) (r : Nat) (m : W32) (x : Nat → W32) : (g.setV r m x).ops = g.ops := by simp [Group.setV]
@[simp] theorem Group.setV_gwmax (g : Group) (r : Nat) (m : W32) (x : Nat → W32) : (g.setV r m x).gwmax = g.gwmax := by simp [Group.setV]
@[simp] theorem Group.setV_pmask (g : Group) (r : Nat) (m : W32) (x : Nat → W32) : (g.setV r m x).pmask = g.pmask := by simp [Group.setV]
@[simp] theorem Group.setV_dead (g : Group) (r : Nat) (m : W32) (x : Nat → W32) : (g.setV r m x).dead = g.dead := by simp [Group.setV]
@[simp] theorem Group.setV_gstat (g : Group) (r : Nat) (m : W32) (x : Nat → W32) : (g.setV r m x).gstat = g.gstat := by simp [Group.setV]
@[simp] theorem Group.setV_abase (g : Group) (r : Nat) (m : W32) (x : Nat → W32) : (g.setV r m x).abase = g.abase := by simp [Group.setV]
@[simp] theorem Group.setV_alim (g : Group) (r : Nat) (m : W32) (x : Nat → W32) : (g.setV r m x).alim = g.alim := by simp [Group.setV]
@[simp] theorem Group.setV_tbase (g : Group) (r : Nat) (m : W32) (x : Nat → W32) : (g.setV r m x).tbase = g.tbase := by simp [Group.setV]
@[simp] theorem Group.setV_fin (g : Group) (r : Nat) (m : W32) (x : Nat → W32) : (g.setV r m x).fin = g.fin := by simp [Group.setV]
@[simp] theorem Group.setV_split (g : Group) (r : Nat) (m : W32) (x : Nat → W32) : (g.setV r m x).split = g.split := by simp [Group.setV]
@[simp] theorem Group.setV_join (g : Group) (r : Nat) (m : W32) (x : Nat → W32) : (g.setV r m x).join = g.join := by simp [Group.setV]
@[simp] theorem Group.setV_path0 (g : Group) (r : Nat) (m : W32) (x : Nat → W32) : (g.setV r m x).path0 = g.path0 := by simp [Group.setV]
@[simp] theorem Group.setV_path1 (g : Group) (r : Nat) (m : W32) (x : Nat → W32) : (g.setV r m x).path1 = g.path1 := by simp [Group.setV]
@[simp] theorem Group.setV_retired (g : Group) (r : Nat) (m : W32) (x : Nat → W32) : (g.setV r m x).retired = g.retired := by simp [Group.setV]
@[simp] theorem Group.setV_records (g : Group) (r : Nat) (m : W32) (x : Nat → W32) : (g.setV r m x).records = g.records := by simp [Group.setV]
@[simp] theorem Group.setV_lastFt (g : Group) (r : Nat) (m : W32) (x : Nat → W32) : (g.setV r m x).lastFt = g.lastFt := by simp [Group.setV]
@[simp] theorem Group.setV_deferred (g : Group) (r : Nat) (m : W32) (x : Nat → W32) : (g.setV r m x).deferred = g.deferred := by simp [Group.setV]
@[simp] theorem Group.setS_v (g : Group) (r : Nat) (x : W64) : (g.setS r x).v = g.v := by simp [Group.setS]
@[simp] theorem Group.setS_p (g : Group) (r : Nat) (x : W64) : (g.setS r x).p = g.p := by simp [Group.setS]
@[simp] theorem Group.setS_k (g : Group) (r : Nat) (x : W64) : (g.setS r x).k = g.k := by simp [Group.setS]
@[simp] theorem Group.setS_mode (g : Group) (r : Nat) (x : W64) : (g.setS r x).mode = g.mode := by simp [Group.setS]
@[simp] theorem Group.setS_ops (g : Group) (r : Nat) (x : W64) : (g.setS r x).ops = g.ops := by simp [Group.setS]
@[simp] theorem Group.setS_gwmax (g : Group) (r : Nat) (x : W64) : (g.setS r x).gwmax = g.gwmax := by simp [Group.setS]
@[simp] theorem Group.setS_pmask (g : Group) (r : Nat) (x : W64) : (g.setS r x).pmask = g.pmask := by simp [Group.setS]
@[simp] theorem Group.setS_dead (g : Group) (r : Nat) (x : W64) : (g.setS r x).dead = g.dead := by simp [Group.setS]
@[simp] theorem Group.setS_gstat (g : Group) (r : Nat) (x : W64) : (g.setS r x).gstat = g.gstat := by simp [Group.setS]
@[simp] theorem Group.setS_abase (g : Group) (r : Nat) (x : W64) : (g.setS r x).abase = g.abase := by simp [Group.setS]
@[simp] theorem Group.setS_alim (g : Group) (r : Nat) (x : W64) : (g.setS r x).alim = g.alim := by simp [Group.setS]
@[simp] theorem Group.setS_tbase (g : Group) (r : Nat) (x : W64) : (g.setS r x).tbase = g.tbase := by simp [Group.setS]
@[simp] theorem Group.setS_fin (g : Group) (r : Nat) (x : W64) : (g.setS r x).fin = g.fin := by simp [Group.setS]
@[simp] theorem Group.setS_split (g : Group) (r : Nat) (x : W64) : (g.setS r x).split = g.split := by simp [Group.setS]
@[simp] theorem Group.setS_join (g : Group) (r : Nat) (x : W64) : (g.setS r x).join = g.join := by simp [Group.setS]
@[simp] theorem Group.setS_path0 (g : Group) (r : Nat) (x : W64) : (g.setS r x).path0 = g.path0 := by simp [Group.setS]
@[simp] theorem Group.setS_path1 (g : Group) (r : Nat) (x : W64) : (g.setS r x).path1 = g.path1 := by simp [Group.setS]
@[simp] theorem Group.setS_retired (g : Group) (r : Nat) (x : W64) : (g.setS r x).retired = g.retired := by simp [Group.setS]
@[simp] theorem Group.setS_records (g : Group) (r : Nat) (x : W64) : (g.setS r x).records = g.records := by simp [Group.setS]
@[simp] theorem Group.setS_lastFt (g : Group) (r : Nat) (x : W64) : (g.setS r x).lastFt = g.lastFt := by simp [Group.setS]
@[simp] theorem Group.setS_deferred (g : Group) (r : Nat) (x : W64) : (g.setS r x).deferred = g.deferred := by simp [Group.setS]
@[simp] theorem Group.setP_v (g : Group) (r : Nat) (m x : W32) : (g.setP r m x).v = g.v := by unfold Group.setP; split <;> simp
@[simp] theorem Group.setP_s (g : Group) (r : Nat) (m x : W32) : (g.setP r m x).s = g.s := by unfold Group.setP; split <;> simp
@[simp] theorem Group.setP_k (g : Group) (r : Nat) (m x : W32) : (g.setP r m x).k = g.k := by unfold Group.setP; split <;> simp
@[simp] theorem Group.setP_mode (g : Group) (r : Nat) (m x : W32) : (g.setP r m x).mode = g.mode := by unfold Group.setP; split <;> simp
@[simp] theorem Group.setP_ops (g : Group) (r : Nat) (m x : W32) : (g.setP r m x).ops = g.ops := by unfold Group.setP; split <;> simp
@[simp] theorem Group.setP_gwmax (g : Group) (r : Nat) (m x : W32) : (g.setP r m x).gwmax = g.gwmax := by unfold Group.setP; split <;> simp
@[simp] theorem Group.setP_pmask (g : Group) (r : Nat) (m x : W32) : (g.setP r m x).pmask = g.pmask := by unfold Group.setP; split <;> simp
@[simp] theorem Group.setP_dead (g : Group) (r : Nat) (m x : W32) : (g.setP r m x).dead = g.dead := by unfold Group.setP; split <;> simp
@[simp] theorem Group.setP_gstat (g : Group) (r : Nat) (m x : W32) : (g.setP r m x).gstat = g.gstat := by unfold Group.setP; split <;> simp
@[simp] theorem Group.setP_abase (g : Group) (r : Nat) (m x : W32) : (g.setP r m x).abase = g.abase := by unfold Group.setP; split <;> simp
@[simp] theorem Group.setP_alim (g : Group) (r : Nat) (m x : W32) : (g.setP r m x).alim = g.alim := by unfold Group.setP; split <;> simp
@[simp] theorem Group.setP_tbase (g : Group) (r : Nat) (m x : W32) : (g.setP r m x).tbase = g.tbase := by unfold Group.setP; split <;> simp
@[simp] theorem Group.setP_fin (g : Group) (r : Nat) (m x : W32) : (g.setP r m x).fin = g.fin := by unfold Group.setP; split <;> simp
@[simp] theorem Group.setP_split (g : Group) (r : Nat) (m x : W32) : (g.setP r m x).split = g.split := by unfold Group.setP; split <;> simp
@[simp] theorem Group.setP_join (g : Group) (r : Nat) (m x : W32) : (g.setP r m x).join = g.join := by unfold Group.setP; split <;> simp
@[simp] theorem Group.setP_path0 (g : Group) (r : Nat) (m x : W32) : (g.setP r m x).path0 = g.path0 := by unfold Group.setP; split <;> simp
@[simp] theorem Group.setP_path1 (g : Group) (r : Nat) (m x : W32) : (g.setP r m x).path1 = g.path1 := by unfold Group.setP; split <;> simp
@[simp] theorem Group.setP_retired (g : Group) (r : Nat) (m x : W32) : (g.setP r m x).retired = g.retired := by unfold Group.setP; split <;> simp
@[simp] theorem Group.setP_records (g : Group) (r : Nat) (m x : W32) : (g.setP r m x).records = g.records := by unfold Group.setP; split <;> simp
@[simp] theorem Group.setP_lastFt (g : Group) (r : Nat) (m x : W32) : (g.setP r m x).lastFt = g.lastFt := by unfold Group.setP; split <;> simp
@[simp] theorem Group.setP_deferred (g : Group) (r : Nat) (m x : W32) : (g.setP r m x).deferred = g.deferred := by unfold Group.setP; split <;> simp

/-- What `setVs` keeps, a write of one register keeps. -/
theorem Group.setVs_keeps {α : Type} (q : Group → α) (hq : ∀ g r m x, q (Group.setV g r m x) = q g) (g : Group) (r n : Nat) (m : W32)
    (f : Nat → Nat) : q (g.setVs r n m f) = q g := by
  unfold Group.setVs
  generalize List.range n = l
  induction l generalizing g with
  | nil => rfl
  | cons a l ih => simp [ih, hq]

@[simp] theorem Group.setVs_s (g : Group) (r n : Nat) (m : W32) (x : Nat → Nat) : (g.setVs r n m x).s = g.s :=
  Group.setVs_keeps Group.s (by simp) g r n m x
@[simp] theorem Group.setVs_p (g : Group) (r n : Nat) (m : W32) (x : Nat → Nat) : (g.setVs r n m x).p = g.p :=
  Group.setVs_keeps Group.p (by simp) g r n m x
@[simp] theorem Group.setVs_k (g : Group) (r n : Nat) (m : W32) (x : Nat → Nat) : (g.setVs r n m x).k = g.k :=
  Group.setVs_keeps Group.k (by simp) g r n m x
@[simp] theorem Group.setVs_mode (g : Group) (r n : Nat) (m : W32) (x : Nat → Nat) : (g.setVs r n m x).mode = g.mode :=
  Group.setVs_keeps Group.mode (by simp) g r n m x
@[simp] theorem Group.setVs_ops (g : Group) (r n : Nat) (m : W32) (x : Nat → Nat) : (g.setVs r n m x).ops = g.ops :=
  Group.setVs_keeps Group.ops (by simp) g r n m x
@[simp] theorem Group.setVs_gwmax (g : Group) (r n : Nat) (m : W32) (x : Nat → Nat) : (g.setVs r n m x).gwmax = g.gwmax :=
  Group.setVs_keeps Group.gwmax (by simp) g r n m x
@[simp] theorem Group.setVs_pmask (g : Group) (r n : Nat) (m : W32) (x : Nat → Nat) : (g.setVs r n m x).pmask = g.pmask :=
  Group.setVs_keeps Group.pmask (by simp) g r n m x
@[simp] theorem Group.setVs_dead (g : Group) (r n : Nat) (m : W32) (x : Nat → Nat) : (g.setVs r n m x).dead = g.dead :=
  Group.setVs_keeps Group.dead (by simp) g r n m x
@[simp] theorem Group.setVs_gstat (g : Group) (r n : Nat) (m : W32) (x : Nat → Nat) : (g.setVs r n m x).gstat = g.gstat :=
  Group.setVs_keeps Group.gstat (by simp) g r n m x
@[simp] theorem Group.setVs_abase (g : Group) (r n : Nat) (m : W32) (x : Nat → Nat) : (g.setVs r n m x).abase = g.abase :=
  Group.setVs_keeps Group.abase (by simp) g r n m x
@[simp] theorem Group.setVs_alim (g : Group) (r n : Nat) (m : W32) (x : Nat → Nat) : (g.setVs r n m x).alim = g.alim :=
  Group.setVs_keeps Group.alim (by simp) g r n m x
@[simp] theorem Group.setVs_tbase (g : Group) (r n : Nat) (m : W32) (x : Nat → Nat) : (g.setVs r n m x).tbase = g.tbase :=
  Group.setVs_keeps Group.tbase (by simp) g r n m x
@[simp] theorem Group.setVs_fin (g : Group) (r n : Nat) (m : W32) (x : Nat → Nat) : (g.setVs r n m x).fin = g.fin :=
  Group.setVs_keeps Group.fin (by simp) g r n m x
@[simp] theorem Group.setVs_split (g : Group) (r n : Nat) (m : W32) (x : Nat → Nat) : (g.setVs r n m x).split = g.split :=
  Group.setVs_keeps Group.split (by simp) g r n m x
@[simp] theorem Group.setVs_join (g : Group) (r n : Nat) (m : W32) (x : Nat → Nat) : (g.setVs r n m x).join = g.join :=
  Group.setVs_keeps Group.join (by simp) g r n m x
@[simp] theorem Group.setVs_path0 (g : Group) (r n : Nat) (m : W32) (x : Nat → Nat) : (g.setVs r n m x).path0 = g.path0 :=
  Group.setVs_keeps Group.path0 (by simp) g r n m x
@[simp] theorem Group.setVs_path1 (g : Group) (r n : Nat) (m : W32) (x : Nat → Nat) : (g.setVs r n m x).path1 = g.path1 :=
  Group.setVs_keeps Group.path1 (by simp) g r n m x
@[simp] theorem Group.setVs_retired (g : Group) (r n : Nat) (m : W32) (x : Nat → Nat) : (g.setVs r n m x).retired = g.retired :=
  Group.setVs_keeps Group.retired (by simp) g r n m x
@[simp] theorem Group.setVs_records (g : Group) (r n : Nat) (m : W32) (x : Nat → Nat) : (g.setVs r n m x).records = g.records :=
  Group.setVs_keeps Group.records (by simp) g r n m x
@[simp] theorem Group.setVs_lastFt (g : Group) (r n : Nat) (m : W32) (x : Nat → Nat) : (g.setVs r n m x).lastFt = g.lastFt :=
  Group.setVs_keeps Group.lastFt (by simp) g r n m x
@[simp] theorem Group.setVs_deferred (g : Group) (r n : Nat) (m : W32) (x : Nat → Nat) : (g.setVs r n m x).deferred = g.deferred :=
  Group.setVs_keeps Group.deferred (by simp) g r n m x

/-! ## Bellwethers -/

@[simp] theorem Bell.setW_ctl (b : Bell) (r : Nat) (x : W64) : (b.setW r x).ctl = b.ctl := rfl
@[simp] theorem Bell.setW_q (b : Bell) (r : Nat) (x : W64) : (b.setW r x).q = b.q := rfl
@[simp] theorem Bell.setW_h (b : Bell) (r : Nat) (x : W64) : (b.setW r x).h = b.h := rfl
@[simp] theorem Bell.setW_k (b : Bell) (r : Nat) (x : W64) : (b.setW r x).k = b.k := rfl
@[simp] theorem Bell.setW_mode (b : Bell) (r : Nat) (x : W64) : (b.setW r x).mode = b.mode := rfl
@[simp] theorem Bell.setW_mbatch (b : Bell) (r : Nat) (x : W64) : (b.setW r x).mbatch = b.mbatch := rfl
@[simp] theorem Bell.setW_rprog (b : Bell) (r : Nat) (x : W64) : (b.setW r x).rprog = b.rprog := rfl
@[simp] theorem Bell.setW_tbase (b : Bell) (r : Nat) (x : W64) : (b.setW r x).tbase = b.tbase := rfl
@[simp] theorem Bell.setW_ops (b : Bell) (r : Nat) (x : W64) : (b.setW r x).ops = b.ops := rfl
@[simp] theorem Bell.setW_gwmax (b : Bell) (r : Nat) (x : W64) : (b.setW r x).gwmax = b.gwmax := rfl
@[simp] theorem Bell.setW_lastFt (b : Bell) (r : Nat) (x : W64) : (b.setW r x).lastFt = b.lastFt := rfl
@[simp] theorem Bell.setW_hbar (b : Bell) (r : Nat) (x : W64) : (b.setW r x).hbar = b.hbar := rfl
@[simp] theorem Bell.setW_deferred (b : Bell) (r : Nat) (x : W64) : (b.setW r x).deferred = b.deferred := rfl
@[simp] theorem Bell.setW_yieldUntil (b : Bell) (r : Nat) (x : W64) : (b.setW r x).yieldUntil = b.yieldUntil := rfl
@[simp] theorem Bell.setQ_ctl (b : Bell) (r : Nat) (x : Bool) : (b.setQ r x).ctl = b.ctl := by unfold Bell.setQ; split <;> rfl
@[simp] theorem Bell.setQ_w (b : Bell) (r : Nat) (x : Bool) : (b.setQ r x).w = b.w := by unfold Bell.setQ; split <;> rfl
@[simp] theorem Bell.setQ_h (b : Bell) (r : Nat) (x : Bool) : (b.setQ r x).h = b.h := by unfold Bell.setQ; split <;> rfl
@[simp] theorem Bell.setQ_k (b : Bell) (r : Nat) (x : Bool) : (b.setQ r x).k = b.k := by unfold Bell.setQ; split <;> rfl
@[simp] theorem Bell.setQ_mode (b : Bell) (r : Nat) (x : Bool) : (b.setQ r x).mode = b.mode := by unfold Bell.setQ; split <;> rfl
@[simp] theorem Bell.setQ_mbatch (b : Bell) (r : Nat) (x : Bool) : (b.setQ r x).mbatch = b.mbatch := by unfold Bell.setQ; split <;> rfl
@[simp] theorem Bell.setQ_rprog (b : Bell) (r : Nat) (x : Bool) : (b.setQ r x).rprog = b.rprog := by unfold Bell.setQ; split <;> rfl
@[simp] theorem Bell.setQ_tbase (b : Bell) (r : Nat) (x : Bool) : (b.setQ r x).tbase = b.tbase := by unfold Bell.setQ; split <;> rfl
@[simp] theorem Bell.setQ_ops (b : Bell) (r : Nat) (x : Bool) : (b.setQ r x).ops = b.ops := by unfold Bell.setQ; split <;> rfl
@[simp] theorem Bell.setQ_gwmax (b : Bell) (r : Nat) (x : Bool) : (b.setQ r x).gwmax = b.gwmax := by unfold Bell.setQ; split <;> rfl
@[simp] theorem Bell.setQ_lastFt (b : Bell) (r : Nat) (x : Bool) : (b.setQ r x).lastFt = b.lastFt := by unfold Bell.setQ; split <;> rfl
@[simp] theorem Bell.setQ_hbar (b : Bell) (r : Nat) (x : Bool) : (b.setQ r x).hbar = b.hbar := by unfold Bell.setQ; split <;> rfl
@[simp] theorem Bell.setQ_deferred (b : Bell) (r : Nat) (x : Bool) : (b.setQ r x).deferred = b.deferred := by unfold Bell.setQ; split <;> rfl
@[simp] theorem Bell.setQ_yieldUntil (b : Bell) (r : Nat) (x : Bool) : (b.setQ r x).yieldUntil = b.yieldUntil := by unfold Bell.setQ; split <;> rfl

end Sys2Proof.Machine
end

