-- ==== Sys2Proof/Laws/Views.lean ====
section
/-! SUPPORT. Blocks, groups and views after an update: what a party sees once its block, its group or its bellwether has changed. -/

namespace Sys2Proof.Machine

open Sys2Proof

/-! ## Lists -/

theorem modNth_getElem? {α : Type} (l : List α) (i j : Nat) (f : α → α) :
    (modNth l i f)[j]? = if i = j then l[j]?.map f else l[j]? := by
  unfold modNth
  split
  · rename_i x hx
    rw [List.getElem?_set]
    split
    · rename_i h
      subst h
      obtain ⟨h1, h2⟩ := List.getElem?_eq_some_iff.1 hx
      simp [h1, h2]
    · rfl
  · rename_i hx
    split
    · rename_i h
      subst h
      simp [hx]
    · rfl

@[simp] theorem modNth_length {α : Type} (l : List α) (i : Nat) (f : α → α) : (modNth l i f).length = l.length := by
  unfold modNth
  split <;> simp

/-- What every element of a changed list satisfies. -/
theorem modNth_forall {α : Type} {P : α → Prop} {l : List α} {i : Nat} {f : α → α} (h : ∀ x ∈ l, P x) (hf : ∀ x, P x → P (f x)) :
    ∀ x ∈ modNth l i f, P x := by
  intro x hx
  unfold modNth at hx
  split at hx
  · rename_i y hy
    rcases List.mem_or_eq_of_mem_set hx with h1 | h1
    · exact h x h1
    · rw [h1]; exact hf y (h y (List.mem_of_getElem? hy))
  · exact h x hx

/-! ## Blocks -/

theorem State.modBlock_block? (s : State) (b k : Nat) (f : Block → Block) :
    (s.modBlock b f).block? k = if b = k then (s.block? k).map f else s.block? k := modNth_getElem? s.blocks b k f

theorem State.modBlock_block?_same {s : State} {b : Nat} {x : Block} (f : Block → Block) (h : s.block? b = some x) :
    (s.modBlock b f).block? b = some (f x) := by
  rw [State.modBlock_block?, if_pos rfl, h]; rfl

theorem State.modBlock_block?_other {s : State} {b k : Nat} (f : Block → Block) (h : b ≠ k) : (s.modBlock b f).block? k = s.block? k := by
  rw [State.modBlock_block?, if_neg h]

/-! ## Views -/

/-- What the view of a path is made of. -/
theorem State.view_path {s : State} {p : Party} {gi : Nat} {sec : Bool} {b : Block} {g : Group} (hp : p.who = .path gi sec)
    (hb : s.block? p.blk = some b) (hg : b.groups[gi]? = some g) :
    s.view p = some { p := p, b := b, isBell := false, gi := gi, sec := sec, g := g, path := g.path sec, ctl := (g.path sec).ctl,
                      mode := g.mode } := by
  unfold State.view
  simp only [hb, hp, hg]

/-- What the view of a bellwether is made of. -/
theorem State.view_bell {s : State} {p : Party} {b : Block} (hp : p.who = .bell) (hb : s.block? p.blk = some b) :
    s.view p = some { p := p, b := b, isBell := true, gi := 0, sec := false, g := Group.dummy, path := Path.none, ctl := b.bell.ctl,
                      mode := b.bell.mode } := by
  unfold State.view
  simp only [hb, hp]

/-- The block, group, path and control part of a path's view. -/
theorem State.view_isPath {s : State} {v : View} (h : s.view v.p = some v) (hb : v.isBell = false) :
    v.p.who = .path v.gi v.sec ∧ s.block? v.p.blk = some v.b ∧ v.b.groups[v.gi]? = some v.g ∧ v.path = v.g.path v.sec ∧
      v.ctl = (v.g.path v.sec).ctl ∧ v.mode = v.g.mode := by
  unfold State.view at h
  split at h
  · cases h
  · rename_i b hbk
    split at h
    · injection h with h; rw [← h] at hb; cases hb
    · rename_i gi sec hw
      split at h
      · cases h
      · rename_i g hg
        injection h with h
        obtain ⟨p, b', ib, gi', sec', g', pa, c, m⟩ := v
        simp only [View.mk.injEq] at h
        obtain ⟨_, rfl, rfl, rfl, rfl, rfl, rfl, rfl, rfl⟩ := h
        exact ⟨hw, hbk, hg, rfl, rfl, rfl⟩

/-- The block and control part of a bellwether's view. -/
theorem State.view_isBell {s : State} {v : View} (h : s.view v.p = some v) (hb : v.isBell = true) :
    v.p.who = .bell ∧ s.block? v.p.blk = some v.b ∧ v.g = Group.dummy ∧ v.ctl = v.b.bell.ctl ∧ v.mode = v.b.bell.mode := by
  unfold State.view at h
  split at h
  · cases h
  · rename_i b hbk
    split at h
    · rename_i hw
      injection h with h
      obtain ⟨p, b', ib, gi', sec', g', pa, c, m⟩ := v
      simp only [View.mk.injEq] at h
      obtain ⟨_, rfl, rfl, rfl, rfl, rfl, rfl, rfl, rfl⟩ := h
      exact ⟨hw, hbk, rfl, rfl, rfl⟩
    · split at h
      · cases h
      · injection h with h; rw [← h] at hb; cases hb

/-- A path's view after a change of its group. -/
theorem State.view_modGroup {s : State} {v : View} (h : s.view v.p = some v) (hb : v.isBell = false) (f : Group → Group) :
    (s.modGroup v.p.blk v.gi f).view v.p =
      some { v with b := v.b.modGroup v.gi f, g := f v.g, path := (f v.g).path v.sec, ctl := ((f v.g).path v.sec).ctl, mode := (f v.g).mode } := by
  obtain ⟨hw, hbl, hg, _, _, _⟩ := State.view_isPath h hb
  have e1 : (s.modGroup v.p.blk v.gi f).block? v.p.blk = some (v.b.modGroup v.gi f) := State.modBlock_block?_same _ hbl
  have e2 : (v.b.modGroup v.gi f).groups[v.gi]? = some (f v.g) := by
    show (modNth v.b.groups v.gi f)[v.gi]? = _
    rw [modNth_getElem?, if_pos rfl, hg]; rfl
  rw [State.view_path hw e1 e2]
  obtain ⟨p, b', ib, gi', sec', g', pa, c, m⟩ := v
  cases hb
  rfl

/-- A bellwether's view after a change of it. -/
theorem State.view_modBell {s : State} {v : View} (h : s.view v.p = some v) (hb : v.isBell = true) (f : Bell → Bell) :
    ∃ u, (s.modBell v.p.blk f).view v.p = some u ∧ u.isBell = true ∧ u.p = v.p ∧ u.b = { v.b with bell := f v.b.bell } ∧
      u.ctl = (f v.b.bell).ctl ∧ u.mode = (f v.b.bell).mode := by
  obtain ⟨hw, hbl, _, _, _⟩ := State.view_isBell h hb
  have e1 : (s.modBell v.p.blk f).block? v.p.blk = some { v.b with bell := f v.b.bell } := State.modBlock_block?_same _ hbl
  exact ⟨_, State.view_bell hw e1, rfl, rfl, rfl, rfl, rfl⟩

/-- What changes neither the blocks nor what a view reads of them changes no view. -/
theorem State.view_congr {s t : State} (h : t.blocks = s.blocks) (p : Party) : t.view p = s.view p := by
  unfold State.view State.block?
  rw [h]

/-- A group's view is of a block that holds it. -/
theorem State.view_p {s : State} {p : Party} {v : View} (h : s.view p = some v) : v.p = p := by
  unfold State.view at h
  split at h
  · cases h
  · split at h
    · injection h with h; rw [← h]
    · split at h
      · cases h
      · injection h with h; rw [← h]

end Sys2Proof.Machine
end

