-- ==== Sys2Proof/Laws/Memory.lean ====
section
/-! SUPPORT. The laws of byte memories: every operation keeps the canonical form, a byte written reads back, and no other byte changes;
and the same for the writes of pod memory and of scratchpads. -/

namespace Sys2Proof.Machine

open Sys2Proof

/-! ## The canonical form -/

theorem cellsWf_cons {k : Nat} {v : Byte} {m : List Host.Cell} {lo : Option Nat} :
    cellsWf ((k, v) :: m) lo = true ↔ (∀ l, lo = some l → l < k) ∧ v ≠ 0 ∧ cellsWf m (some k) = true := by
  cases lo <;> simp [cellsWf, and_assoc]

/-- A lower bound may be lowered or dropped. -/
theorem cellsWf_mono {m : List Host.Cell} {lo lo' : Option Nat} (h : cellsWf m lo = true)
    (hl : ∀ l', lo' = some l' → ∃ l, lo = some l ∧ l' ≤ l) : cellsWf m lo' = true := by
  cases m with
  | nil => rfl
  | cons x m =>
    obtain ⟨k, v⟩ := x
    rw [cellsWf_cons] at h ⊢
    refine ⟨fun l' h' => ?_, h.2.1, h.2.2⟩
    obtain ⟨l, hlo, hle⟩ := hl l' h'
    exact Nat.lt_of_le_of_lt hle (h.1 l hlo)

theorem cellSet_wf_from {m : List Host.Cell} {lo : Option Nat} (h : cellsWf m lo = true) (a : Nat) (v : Byte)
    (ha : ∀ l, lo = some l → l < a) : cellsWf (cellSet m a v) lo = true := by
  induction m generalizing lo with
  | nil =>
    unfold cellSet
    split
    · rfl
    · rename_i hv; exact cellsWf_cons.2 ⟨ha, by simpa using hv, rfl⟩
  | cons x m ih =>
    obtain ⟨k, w⟩ := x
    obtain ⟨h1, h2, h3⟩ := cellsWf_cons.1 h
    unfold cellSet
    split
    · rename_i hk
      have hk : k = a := by simpa using hk
      subst hk
      split
      · exact cellsWf_mono h3 (fun l hl => ⟨k, rfl, Nat.le_of_lt (h1 l hl)⟩)
      · rename_i hv; exact cellsWf_cons.2 ⟨h1, by simpa using hv, h3⟩
    · split
      · rename_i hlt
        split
        · exact h
        · rename_i hv
          exact cellsWf_cons.2 ⟨ha, by simpa using hv, cellsWf_cons.2 ⟨fun l hl => by injection hl with hl; omega, h2, h3⟩⟩
      · rename_i hne hnl
        have hne : k ≠ a := by simpa using hne
        exact cellsWf_cons.2 ⟨h1, h2, ih h3 (fun l hl => by injection hl with hl; omega)⟩

/-- Putting a byte keeps the canonical form. -/
theorem cellSet_wf {m : List Host.Cell} (h : Memory.wf m = true) (a : Nat) (v : Byte) : Memory.wf (cellSet m a v) = true :=
  cellSet_wf_from h a v (fun _ hl => nomatch hl)

/-- Putting bytes keeps the canonical form. -/
theorem cellsWrite_wf {m : List Host.Cell} (h : Memory.wf m = true) (a : Nat) (bs : List Byte) :
    Memory.wf (cellsWrite m a bs) = true := by
  induction bs generalizing m a with
  | nil => exact h
  | cons b bs ih => exact ih (cellSet_wf h a b) (a + 1)

/-- Dropping cells keeps the canonical form. -/
theorem cellsFilter_wf_from {m : List Host.Cell} {lo : Option Nat} (h : cellsWf m lo = true) (f : Host.Cell → Bool) :
    cellsWf (m.filter f) lo = true := by
  induction m generalizing lo with
  | nil => rfl
  | cons x m ih =>
    obtain ⟨k, w⟩ := x
    obtain ⟨h1, h2, h3⟩ := cellsWf_cons.1 h
    rw [List.filter_cons]
    split
    · exact cellsWf_cons.2 ⟨h1, h2, ih h3⟩
    · exact cellsWf_mono (ih h3) (fun l hl => ⟨k, rfl, Nat.le_of_lt (h1 l hl)⟩)

theorem cellsFilter_wf {m : List Host.Cell} (h : Memory.wf m = true) (f : Host.Cell → Bool) : Memory.wf (m.filter f) = true :=
  cellsFilter_wf_from h f

/-- Bytes put one by one keep the canonical form. -/
theorem foldl_cellSet_wf {α : Type} (l : List α) (a : α → Nat) (v : α → Byte) {m : List Host.Cell} (h : Memory.wf m = true) :
    Memory.wf (l.foldl (fun c x => cellSet c (a x) (v x)) m) = true := by
  induction l generalizing m with
  | nil => exact h
  | cons x l ih => exact ih (cellSet_wf h (a x) (v x))

/-! ## Reading -/

theorem cellGet_nil (a : Nat) : cellGet [] a = 0 := rfl

/-- No address at or below the bound is listed. -/
theorem cellGet_below {m : List Host.Cell} {lo a : Nat} (h : cellsWf m (some lo) = true) (ha : a ≤ lo) : cellGet m a = 0 := by
  cases m with
  | nil => rfl
  | cons x m =>
    obtain ⟨k, v⟩ := x
    obtain ⟨h1, _, _⟩ := cellsWf_cons.1 h
    have := h1 lo rfl
    unfold cellGet
    rw [if_neg (by simp; omega), if_pos (by omega)]

/-- A byte written reads back. -/
theorem cellGet_cellSet_same {m : List Host.Cell} {lo : Option Nat} (h : cellsWf m lo = true) (a : Nat) (v : Byte) :
    cellGet (cellSet m a v) a = v := by
  induction m generalizing lo with
  | nil =>
    unfold cellSet
    split
    · rename_i hv; have : v = 0 := by simpa using hv
      rw [this]; rfl
    · simp [cellGet]
  | cons x m ih =>
    obtain ⟨k, w⟩ := x
    obtain ⟨h1, h2, h3⟩ := cellsWf_cons.1 h
    unfold cellSet
    split
    · rename_i hk
      have hk : k = a := by simpa using hk
      subst hk
      split
      · rename_i hv; have : v = 0 := by simpa using hv
        rw [this, cellGet_below h3 (Nat.le_refl k)]
      · simp [cellGet]
    · rename_i hne
      have hne : k ≠ a := by simpa using hne
      split
      · rename_i hlt
        split
        · rename_i hv; have : v = 0 := by simpa using hv
          rw [this]
          unfold cellGet
          rw [if_neg (by simpa using hne), if_pos hlt]
        · simp [cellGet]
      · rename_i hnl
        unfold cellGet
        rw [if_neg (by simpa using hne), if_neg hnl]
        exact ih h3

/-- A byte written leaves every other byte. -/
theorem cellGet_cellSet_other {m : List Host.Cell} {lo : Option Nat} (h : cellsWf m lo = true) {a b : Nat} (v : Byte) (hab : b ≠ a) :
    cellGet (cellSet m a v) b = cellGet m b := by
  induction m generalizing lo with
  | nil =>
    unfold cellSet
    split
    · rfl
    · unfold cellGet
      rw [if_neg (by simpa using Ne.symm hab)]
      split <;> rfl
  | cons x m ih =>
    obtain ⟨k, w⟩ := x
    obtain ⟨h1, h2, h3⟩ := cellsWf_cons.1 h
    unfold cellSet
    split
    · rename_i hk
      have hk : k = a := by simpa using hk
      subst hk
      have hkb : ¬ (k == b) = true := by simpa using Ne.symm hab
      split
      · conv => rhs; unfold cellGet
        rw [if_neg hkb]
        split
        · rename_i hlt; exact cellGet_below h3 (Nat.le_of_lt hlt)
        · rfl
      · conv => lhs; unfold cellGet
        conv => rhs; unfold cellGet
        rw [if_neg hkb, if_neg hkb]
    · rename_i hne
      split
      · rename_i hlt
        split
        · rfl
        · conv => lhs; unfold cellGet
          rw [if_neg (by simpa using Ne.symm hab)]
          split
          · rename_i hba
            unfold cellGet
            rw [if_neg (by simp; omega), if_pos (by omega)]
          · rfl
      · conv => lhs; unfold cellGet
        conv => rhs; unfold cellGet
        split
        · rfl
        · split
          · rfl
          · exact ih h3

/-- Bytes written from `a` upward leave every byte outside. -/
theorem cellGet_cellsWrite_other {m : List Host.Cell} (h : Memory.wf m = true) {a b : Nat} (bs : List Byte)
    (hb : b < a ∨ a + bs.length ≤ b) : cellGet (cellsWrite m a bs) b = cellGet m b := by
  induction bs generalizing m a with
  | nil => rfl
  | cons x bs ih =>
    simp only [List.length_cons] at hb
    unfold cellsWrite
    rw [ih (cellSet_wf h a x) (by omega), cellGet_cellSet_other h x (by omega)]

/-- Bytes written from `a` upward read back. -/
theorem cellsRead_cellsWrite {m : List Host.Cell} (h : Memory.wf m = true) (a : Nat) (bs : List Byte) :
    cellsRead (cellsWrite m a bs) a bs.length = bs := by
  induction bs generalizing m a with
  | nil => rfl
  | cons x bs ih =>
    simp only [List.length_cons, cellsRead, cellsWrite]
    rw [cellGet_cellsWrite_other (cellSet_wf h a x) bs (by omega), cellGet_cellSet_same h a x, ih (cellSet_wf h a x)]

theorem cellsRead_length (m : List Host.Cell) (a n : Nat) : (cellsRead m a n).length = n := by
  induction n generalizing a with
  | zero => rfl
  | succ n ih => simp [cellsRead, ih]

/-! ## Little-endian numbers (R5) -/

theorem leBytes_length (n x : Nat) : (leBytes n x).length = n := by
  induction n generalizing x with
  | zero => rfl
  | succ n ih => simp [leBytes, ih]

/-- The bytes of a number give the number back, modulo their size. -/
theorem leNat_leBytes (n x : Nat) : leNat (leBytes n x) = x % 256 ^ n := by
  induction n generalizing x with
  | zero => simp [leBytes, leNat, Nat.mod_one]
  | succ n ih =>
    show (BitVec.ofNat 8 x).toNat + 256 * leNat (leBytes n (x / 256)) = x % 256 ^ (n + 1)
    rw [ih, BitVec.toNat_ofNat, show 256 ^ (n + 1) = 256 * 256 ^ n from Nat.pow_succ', Nat.mod_mul]

/-! ## Pod memory and scratchpads -/

theorem evalMonitors_cells (s : State) (pa n : Nat) : (evalMonitors s pa n).mem.cells = s.mem.cells := by
  unfold evalMonitors
  split <;> rfl

theorem markPages_mem (s : State) (pa n : Nat) (pre : Option Nat) : (markPages s pa n pre).mem = s.mem := by
  unfold markPages
  split <;> rfl

theorem sliceRoom_cells (s : State) (l : Nat) : (sliceRoom s l).mem.cells = s.mem.cells := by
  unfold sliceRoom
  dsimp only
  repeat' split
  all_goals rfl

theorem setPresent_cells (s : State) (l : Nat) : (s.setPresent l).mem.cells = s.mem.cells := by
  unfold State.setPresent
  split
  · rfl
  · rw [sliceRoom_cells]; rfl

/-- R168: what a write of pod memory does to the bytes of memory. -/
theorem physWrite_cells (s : State) (pa : Nat) (bs : List Byte) (pre : Option Nat) :
    (physWrite s pa bs pre).mem.cells = cellsWrite s.mem.cells pa bs := by
  unfold physWrite
  dsimp only
  rw [evalMonitors_cells, markPages_mem, setPresent_cells]
  unfold clearMemPoison
  simp

/-- R168: a write of pod memory leaves every byte outside it. -/
theorem physWrite_other {s : State} (h : Memory.wf s.mem.cells = true) {pa : Nat} {bs : List Byte} (pre : Option Nat) {a : Nat}
    (ha : a < pa ∨ pa + bs.length ≤ a) : cellGet (physWrite s pa bs pre).mem.cells a = cellGet s.mem.cells a := by
  rw [physWrite_cells, cellGet_cellsWrite_other h bs ha]

/-- R168: a write of pod memory reads back. -/
theorem physRead_physWrite {s : State} (h : Memory.wf s.mem.cells = true) (pa : Nat) (bs : List Byte) (pre : Option Nat) :
    physRead (physWrite s pa bs pre) pa bs.length = bs := by
  unfold physRead
  rw [physWrite_cells, cellsRead_cellsWrite h]

theorem markItem_mem (s : State) (blk : Nat) (i : Item) : (markItem s blk i).mem = s.mem := by
  unfold markItem
  split <;> rfl

theorem markItem_blocks (s : State) (blk : Nat) (i : Item) : (markItem s blk i).blocks = s.blocks := by
  unfold markItem
  split <;> rfl

theorem evalScratchMonitors_cells (s : State) (blk off n : Nat) : (evalScratchMonitors s blk off n).mem.cells = s.mem.cells := by
  unfold evalScratchMonitors
  split
  · rfl
  · split <;> rfl

theorem evalScratchMonitors_blocks (s : State) (blk off n : Nat) : (evalScratchMonitors s blk off n).blocks = s.blocks := by
  unfold evalScratchMonitors
  split
  · rfl
  · split <;> rfl

/-- What every step of a fold keeps, the fold keeps. -/
theorem foldl_keeps {α β : Type} (q : State → β) (f : State → α → State) (h : ∀ s a, q (f s a) = q s) (l : List α) (s : State) :
    q (l.foldl f s) = q s := by
  induction l generalizing s with
  | nil => rfl
  | cons a l ih => rw [List.foldl_cons, ih, h]

/-- R156, R168: a write of a scratchpad changes no byte of pod memory. -/
theorem scratchWrite_cells (s : State) (blk off : Nat) (bs : List Byte) (own : Bool) :
    (scratchWrite s blk off bs own).mem.cells = s.mem.cells := by
  unfold scratchWrite
  dsimp only
  rw [evalScratchMonitors_cells, foldl_keeps (fun s => s.mem.cells) _ (fun s a => by rw [markItem_mem])]
  simp

/-- R156, R168: what a write of a scratchpad does to the blocks. -/
theorem scratchWrite_block? (s : State) (blk off : Nat) (bs : List Byte) (own : Bool) (k : Nat) :
    (scratchWrite s blk off bs own).block? k =
      if blk = k then (s.block? k).map (fun b => { b with
        scratch := cellsWrite b.scratch off bs
        locks := if own then b.locks.map (fun h => h.touch off bs.length) else b.locks })
      else s.block? k := by
  unfold scratchWrite State.block?
  dsimp only
  rw [evalScratchMonitors_blocks, foldl_keeps (fun s => s.blocks) _ (fun s a => markItem_blocks _ _ _)]
  simp only [State.clearPoison_blocks, State.modBlock_blocks]
  exact modNth_getElem? _ _ _ _

/-- R168: a write of a scratchpad leaves every byte outside it, and every other scratchpad. -/
theorem scratchWrite_other {s : State} {blk off : Nat} {bs : List Byte} {own : Bool} {k : Nat} {b c : Block}
    (hb : s.block? k = some b) (hw : Memory.wf b.scratch = true) (hc : (scratchWrite s blk off bs own).block? k = some c) {a : Nat}
    (ha : blk ≠ k ∨ a < off ∨ off + bs.length ≤ a) : cellGet c.scratch a = cellGet b.scratch a := by
  rw [scratchWrite_block?] at hc
  split at hc
  · rename_i hk
    rw [hb] at hc
    simp only [Option.map_some, Option.some.injEq] at hc
    subst hc
    exact cellGet_cellsWrite_other hw bs (by rcases ha with h | h; exact absurd hk h; exact h)
  · rw [hb] at hc
    injection hc with hc
    rw [hc]

end Sys2Proof.Machine
end

