-- ==== Sys2Proof/Laws/Words.lean ====
section
/-! SUPPORT. What the shared operations of words come to: the common course of a word that is admitted, the ends of lane, scalar and vote
words, and the course of a lane memory word that nothing stands against. -/

namespace Sys2Proof.Machine

open Sys2Proof


/-- R330: an admitted word has its own effect. -/
theorem wordExec_admitted {i : Instr} {s : State} {v : View} {need : View → Need} {act : View → Act}
    (h : Admitted s v i (need v)) : wordExec i s need act = .next (settleAct v (encode i) (act v)) := by
  obtain ⟨hc, hv, hs, hf, ho, he, hl, hg⟩ := h
  have hd : decodeFault v (encode i) (need v).streams (need v).feat (need v).ok (need v).lats = none := by
    unfold decodeFault
    cases hq : (need v).feat with
    | none => simp [hs, ho, he, hl]
    | some b => simp [hs, ho, he, hl, hf b hq]
  have hg2 : (v.suppressed && (need v).guarded) = false := by
    cases hq : (need v).guarded with
    | false => simp
    | true => simp [hg hq]
  simp only [wordExec, hc, hv, issue, hd, hg2]; rfl

/-- A meaning written by `wordExec` whose effect is done completes. -/
theorem completes_of {i : Instr} {s : State} {v : View} {need : View → Need} {act : View → Act} {a : Act}
    (h : Admitted s v i (need v)) (hx : exec i s = wordExec i s need act) (ha : act v = a)
    (hd : ∃ t l, a = .done t l) : Completes i s v a := by
  obtain ⟨t, l, hd⟩ := hd
  exact ⟨t, l, hd, by rw [hx, wordExec_admitted h, ha, hd]; rfl⟩

/-- A lane destination with room takes its result. -/
theorem laneFinish_done {s : State} {w : View} {d : BitVec 8} (n : Nat) (m : W32) (f : Nat → Nat) (h : HasRoom w d) :
    ∃ t l, laneFinish s w d n m f = .done t l := by
  unfold laneFinish
  simp only []
  split
  · exact ⟨_, _, rfl⟩
  · cases hp : pushOf d with
    | none => exact ⟨_, _, rfl⟩
    | some c => simp only [pushChan, if_pos (h c hp)]; exact ⟨_, _, rfl⟩

theorem sregFinish_done {s : State} {w : View} (r : Nat) (x : W64) : ∃ t l, sregFinish s w r x = .done t l := ⟨_, _, rfl⟩

/-- A scalar destination with room takes its result. -/
theorem scalarFinish_done {s : State} {w : View} {d : BitVec 8} (x : W64) (h : HasRoom w d) :
    ∃ t l, scalarFinish s w d x = .done t l := by
  unfold scalarFinish
  cases hp : pushOf d with
  | none => simp only []; split; exact ⟨_, _, rfl⟩; split; exact ⟨_, _, rfl⟩; exact ⟨_, _, rfl⟩
  | some c => simp only [pushChan, if_pos (h c hp)]; exact ⟨_, _, rfl⟩

/-- A vote destination with room takes its result. -/
theorem voteFinish_done {s : State} {w : View} {d : BitVec 8} (x : W32) (b : Bool) (h : HasRoom w d) :
    ∃ t l, voteFinish s w d x b = .done t l := by
  unfold voteFinish
  split
  · exact ⟨_, _, rfl⟩
  · split
    · exact ⟨_, _, rfl⟩
    · exact laneFinish_done _ _ _ h

/-- A field that is no push always has room. -/
theorem noPush_lt {d : BitVec 8} (w : View) (h : d.toNat / 16 ≠ 0xC) : HasRoom w d := by
  intro c hc; simp [pushOf, h] at hc
theorem noPush_reg {d : BitVec 8} (v w : View) (h : sRegOk v d = true) : HasRoom w d := by
  apply noPush_lt
  unfold sRegOk isS at h
  split at h <;> simp at h <;> omega
theorem noPush_vregs {d : BitVec 8} {v : View} {n} (w : View) (h : vregsOk v n d = true) : HasRoom w d := by
  apply noPush_lt
  simp [vregsOk] at h; omega
theorem noPush_dst {d : BitVec 8} {v : View} (w : View) (h : sDstOk v false d = true) : HasRoom w d := by
  apply noPush_lt
  unfold sDstOk isS at h
  simp only [Bool.false_and, Bool.or_false] at h
  split at h <;> simp at h <;> omega


@[simp] theorem modOp_cur (s : State) (p i f) : (modOp s p i f).cur = s.cur := by
  unfold modOp modOps; split <;> simp
theorem foldl_cur {α : Type} (f : State → α → State) (h : ∀ s a, (f s a).cur = s.cur) (l : List α) (s : State) :
    (l.foldl f s).cur = s.cur := foldl_keeps State.cur f h l s
@[simp] theorem stageLate_cur (s : State) (p d ws) : (stageLate s p d ws).cur = s.cur := by
  unfold stageLate
  dsimp only
  repeat' split
  all_goals simp
@[simp] theorem deliver_cur (s : State) (p d ws) : (deliver s p d ws).cur = s.cur := by
  unfold deliver
  dsimp only
  repeat' split
  all_goals simp
@[simp] theorem commitLanes_cur (s : State) (v i d o) : (commitLanes s v i d o).cur = s.cur := by
  unfold commitLanes; simp only [modOp_cur]; split <;> simp
@[simp] theorem addDeferred_cur (s : State) (p d) : (addDeferred s p d).cur = s.cur := by
  unfold addDeferred; repeat' split
  all_goals simp
@[simp] theorem lateLanes_cur (s : State) (v j o) : (lateLanes s v j o).cur = s.cur := by
  unfold lateLanes; apply foldl_cur; intro s c; dsimp only; split <;> simp
@[simp] theorem setPerf_cur (s : State) (v x) : (setPerf s v x).cur = s.cur := by
  unfold setPerf; split <;> simp
/-- A mask of no lane is 0. -/
theorem maskOf_false {f : Nat → Bool} (h : ∀ l < 32, f l = false) : maskOf f = 0 := by
  have : ∀ (l : List Nat), (∀ x ∈ l, x < 32) → ∀ m : W32, l.foldl (fun m i => if f i then m ||| laneBit i else m) m = m := by
    intro l; induction l with
    | nil => intros; rfl
    | cons a l ih => 
      intro hl m
      simp only [List.foldl_cons, h a (hl a (by simp))]
      exact ih (fun x hx => hl x (by simp [hx])) m
  exact this _ (by simp [laneList]) 0


/-- R224, R225: lanes that have all been made end a lane memory word. -/
theorem settleLanes_done {s t : State} {v : View} {j : LaneJob} {id : Nat} {ts : List (Nat × Tgt)} {outs : List (Nat × LOut)}
    (hc : t.cur.isSome = true) (hm : ∀ x ∈ outs, laneMade x.2 = true)
    (hr : v.ctl.replays = true → jobFlying (lateLanes (commitLanes t v id j.dst outs) v j outs) v id = false) :
    ∃ u, settleLanes s t v j id (ts.map (fun x => (x.1, LRes.goes x.2))) outs = .done u .invalid := by
  have e3 : resHold (ts.map (fun x => (x.1, LRes.goes x.2))) = none := by
    have e : (ts.map (fun x => (x.1, LRes.goes x.2))).findSome? resWait = none := by
      rw [List.findSome?_eq_none_iff]; intro x hx; obtain ⟨y, _, rfl⟩ := List.mem_map.1 hx; rfl
    have p : ((ts.map (fun x => (x.1, LRes.goes x.2))).map resPages).flatten = [] := by simp [resPages]
    unfold resHold; rw [e, p]; rfl
  have e4 : (ts.map (fun x => (x.1, LRes.goes x.2))).filterMap resFault = [] := by
    rw [List.filterMap_eq_nil_iff]; intro x hx; obtain ⟨y, _, rfl⟩ := List.mem_map.1 hx; rfl
  have f2 : maskOf (fun l => outs.any (fun x => x.1 == l && x.2 == .dead)) = 0 := by
    apply maskOf_false; intro l _; simp; intro a b hab _ hh; have := hm _ hab; subst hh; simp [laneMade] at this
  have f3 : outs.findSome? outWait = none := by
    rw [List.findSome?_eq_none_iff]; intro x hx; have := hm _ hx; unfold outWait; split <;> simp_all [laneMade]
  have f4 : outs.filterMap (outFault j.write) = [] := by
    rw [List.filterMap_eq_nil_iff]; intro x hx; have := hm _ hx; unfold outFault; split <;> simp_all [laneMade]
  unfold settleLanes
  dsimp only
  rw [e3, e4, f2, f3, f4]
  have hn : ∀ u : State, u.cur = t.cur → u.cur.isNone = false := by
    intro u hu; rw [hu]; cases h : t.cur <;> simp_all
  simp only [Option.or_none, List.append_nil, List.isEmpty_nil, Bool.not_true, beq_self_eq_true, if_true]
  have hz : (jobFlying (lateLanes (commitLanes t v id j.dst outs) v j outs) v id && (false || v.ctl.replays)) = false := by
    cases h : v.ctl.replays
    · simp
    · simp [hr h]
  simp only [hz, Bool.false_eq_true, if_false, Option.or_none, Option.isSome_none, Bool.or_self]
  rw [if_neg]
  · simp only [pickFault, List.any_nil]
    have : laneFaultOrder.find? (fun _ => false) = none := rfl
    simp only [this]
    repeat' split
    all_goals first | exact ⟨_, rfl⟩ | simp_all
  · rw [hn]; simp
    split <;> simp
/-- R224, R225: a lane memory word that nothing stands against is done. -/
theorem laneJob_done {s t : State} {v : View} {j : LaneJob} (h : JobGoes t v j) : ∃ u, laneJob s t v j = .done u .invalid := by
  obtain ⟨h1, h2, u, ts, hr, hc, hm, hp⟩ := h
  have hb : maskOf (fun l => inMask v.active l && (j.addr l).toNat % j.align != 0) = 0 := by
    apply maskOf_false
    intro l hl
    cases hq : inMask v.active l
    · rfl
    · simp [h1 l hl hq]
  have hcf : (v.ctl.openOp.isNone && counterFull t v.p j.cls) = false := by
    cases ho : v.ctl.openOp
    · simp [h2 ho]
    · rfl
  have e1 : (ts.map (fun x => (x.1, LRes.goes x.2))).any resIllop = false := by
    simp [resIllop]
  have e2 : jobTargets (ts.map (fun x => (x.1, LRes.goes x.2))) = ts := by
    simp [jobTargets, resTgt, List.filterMap_map, Function.comp_def]
  have f1 : ((j.perform u (jobStart t v j).1 ts).2.any fun x => x.2 == .illop) = false := by
    simp; intro a b hab; have := hm _ hab; intro hh; subst hh; simp [laneMade] at this
  unfold laneJob
  dsimp only
  rw [hb, hcf, hr]
  dsimp only
  rw [e1, e2, f1]
  simp only [bne_self_eq_false, Bool.false_eq_true, if_false]
  exact settleLanes_done hc hm hp

/-- A branch-row word written by `wordExec` leaves its run. -/
theorem leaves_of {i : Instr} {s : State} {v : View} {need : View → Need} {act : View → Act} {t : State} {pc : W64} {fold : W32}
    {post : Group → Group} (h : Admitted s v i (need v)) (hx : exec i s = wordExec i s need act) (ha : act v = .leave t pc fold post) :
    Leaves i s v t pc fold post := by
  unfold Leaves; rw [hx, wordExec_admitted h, ha]; rfl

/-- R133, R243: a matrix command with room joins the open operations. -/
theorem matIssue_done {s : State} {v : View} {k : MKind} {slot : Bool} {post : Block → Block} (h : v.b.mops.length < 32)
    (h2 : slot = true → (freeSlot v.b).isSome = true) : ∃ t l, matIssue s v k slot post = .done t l := by
  unfold matIssue
  rw [if_neg (by omega), if_neg]
  · exact ⟨_, _, rfl⟩
  · simp
    intro h
    have := h2 h
    cases hh : freeSlot v.b <;> simp_all

/-- R330: a lane word over ACTIVE, as its meaning gives it, completes. -/
theorem laneWord_completes {i : Instr} {ok : View → Bool} {ops : View → List (BitVec 8 × Nat)} {d : BitVec 8} {dn : View → Nat}
    {f : View → List Fetched → Nat → Nat} (hx : ∀ s, exec i s = laneWord i s ok ops d dn View.active f) :
    LaneWordCompletes i ok ops d dn f := by
  intro s v t w fts ha hf hr
  refine completes_of (need := fun v =>
    { streams := .g, feat := laneFeat v, ok := ok v && laneDstOk v (dn v) d, lats := (ops v).map Prod.fst }) ha (hx s) ?_ (laneFinish_done _ _ _ hr)
  simp [hf]

/-- A word that a party issues answers a next state. -/
theorem wordExec_next {i : Instr} {s : State} {v : View} {need : View → Need} {act : View → Act} (hc : s.cur = some v.p)
    (hv : s.view v.p = some v) : wordExec i s need act = .next (issue s v (encode i) (need v) (act v)) := by
  simp only [wordExec, hc, hv]

/-- R330: a word that fails a check of its decoding raises its fault. -/
theorem wordExec_faulted {i : Instr} {s : State} {v : View} {need : View → Need} {act : View → Act} {x : Exc} (hc : s.cur = some v.p)
    (hv : s.view v.p = some v)
    (hd : decodeFault v (encode i) (need v).streams (need v).feat (need v).ok (need v).lats = some x) :
    wordExec i s need act = .next (raise s v x) := by
  rw [wordExec_next hc hv]
  unfold issue
  rw [hd]

/-- R327: the wrong stream raises STREAM before any other check. -/
theorem decodeFault_stream {v : View} {w : W32} {st : Streams} (feat : Option Nat) (ok : Bool) (lats : List (BitVec 8))
    (h : streamOk v st = false) : decodeFault v w st feat ok lats = some (exc fSTREAM) := by
  unfold decodeFault
  simp [h]

/-- R330: a field check that fails raises ILLOP once the stream and the feature are right. -/
theorem decodeFault_illop {v : View} {w : W32} {st : Streams} {feat : Option Nat} {ok : Bool} (lats : List (BitVec 8))
    (h : streamOk v st = true) (hf : ∀ b, feat = some b → Config.featmask.getLsbD b = true) (ho : (ok && endOk v w) = false) :
    decodeFault v w st feat ok lats = some (exc fILLOP) := by
  unfold decodeFault
  cases feat with
  | none => simp [h, ho]
  | some b => simp [h, ho, hf b rfl]

end Sys2Proof.Machine
end

