-- ==== Sys2Proof/Laws/Safe.lean ====
section
/-! SUPPORT. The memory operations keep the memories in their canonical form (`State.memoriesOk`), and so does what touches none of
them. -/

namespace Sys2Proof.Machine

open Sys2Proof

/-- A state with the memories of a safe one is safe. -/
theorem State.memoriesOk_of_eq {s t : State} (h : s.memoriesOk) (hm : t.mem.cells = s.mem.cells) (hb : t.blocks = s.blocks)
    (hs : t.snaps = s.snaps) : t.memoriesOk := by
  unfold State.memoriesOk at *
  rw [hm, hb, hs]
  exact h

/-- A change of a block that keeps its scratchpad's form. -/
theorem State.modBlock_memoriesOk {s : State} (h : s.memoriesOk) (b : Nat) {f : Block → Block}
    (hf : ∀ x, Memory.wf x.scratch = true → Memory.wf (f x).scratch = true) : (s.modBlock b f).memoriesOk :=
  ⟨h.1, modNth_forall h.2.1 hf, h.2.2⟩

theorem State.modGroup_memoriesOk {s : State} (h : s.memoriesOk) (b g : Nat) (f : Group → Group) : (s.modGroup b g f).memoriesOk :=
  State.modBlock_memoriesOk h b (fun _ hx => hx)

theorem State.modBell_memoriesOk {s : State} (h : s.memoriesOk) (b : Nat) (f : Bell → Bell) : (s.modBell b f).memoriesOk :=
  State.modBlock_memoriesOk h b (fun _ hx => hx)

theorem State.modCtl_memoriesOk {s : State} (h : s.memoriesOk) (p : Party) (f : Ctl → Ctl) : (s.modCtl p f).memoriesOk := by
  unfold State.modCtl
  split
  · exact State.modBell_memoriesOk h _ _
  · exact State.modGroup_memoriesOk h _ _ _

/-- A change of the memory system that keeps pod memory's form. -/
theorem State.modMem_memoriesOk {s : State} (h : s.memoriesOk) {f : MemSys → MemSys} (hf : Memory.wf (f s.mem).cells = true) :
    (s.modMem f).memoriesOk := ⟨hf, h.2.1, h.2.2⟩

theorem State.clearPoison_memoriesOk {s : State} (h : s.memoriesOk) (f : PLoc → Bool) : (s.clearPoison f).memoriesOk :=
  State.memoriesOk_of_eq h (by simp) (by simp) (by simp)

theorem State.addPoison_memoriesOk {s : State} (h : s.memoriesOk) (l : PLoc) : (s.addPoison l).memoriesOk :=
  State.memoriesOk_of_eq h (by simp) (by simp) (by simp)

theorem State.popPoison_memoriesOk {s : State} (h : s.memoriesOk) (b : Nat) (l : List Nat) : (s.popPoison b l).memoriesOk :=
  State.memoriesOk_of_eq h (by simp) (by simp) (by simp)

/-- A fold whose every step keeps the memories' form keeps it. -/
theorem State.foldl_memoriesOk {α : Type} {f : State → α → State} (hf : ∀ s a, s.memoriesOk → (f s a).memoriesOk) (l : List α)
    {s : State} (h : s.memoriesOk) : (l.foldl f s).memoriesOk := by
  induction l generalizing s with
  | nil => exact h
  | cons a l ih => exact ih (hf s a h)

theorem evalMonitors_blocks (s : State) (pa n : Nat) : (evalMonitors s pa n).blocks = s.blocks := by
  unfold evalMonitors
  split <;> rfl

theorem evalMonitors_snaps (s : State) (pa n : Nat) : (evalMonitors s pa n).snaps = s.snaps := by
  unfold evalMonitors
  split <;> rfl

theorem markPages_blocks (s : State) (pa n : Nat) (pre : Option Nat) : (markPages s pa n pre).blocks = s.blocks := by
  unfold markPages
  split <;> rfl

theorem markPages_snaps (s : State) (pa n : Nat) (pre : Option Nat) : (markPages s pa n pre).snaps = s.snaps := by
  unfold markPages
  split <;> rfl

theorem sliceRoom_blocks (s : State) (l : Nat) : (sliceRoom s l).blocks = s.blocks := by
  unfold sliceRoom
  dsimp only
  repeat' split
  all_goals rfl

theorem setPresent_blocks (s : State) (l : Nat) : (s.setPresent l).blocks = s.blocks := by
  unfold State.setPresent
  split
  · rfl
  · rw [sliceRoom_blocks]; rfl

theorem sliceRoom_snaps (s : State) (l : Nat) : (sliceRoom s l).snaps = s.snaps := by
  unfold sliceRoom
  dsimp only
  repeat' split
  all_goals rfl

theorem setPresent_snaps (s : State) (l : Nat) : (s.setPresent l).snaps = s.snaps := by
  unfold State.setPresent
  split
  · rfl
  · rw [sliceRoom_snaps]; rfl

/-- R168: a write of pod memory keeps the memories' form. -/
theorem physWrite_memoriesOk {s : State} (h : s.memoriesOk) (pa : Nat) (bs : List Byte) (pre : Option Nat) :
    (physWrite s pa bs pre).memoriesOk := by
  refine ⟨?_, ?_, ?_⟩
  · rw [physWrite_cells]; exact cellsWrite_wf h.1 pa bs
  · unfold physWrite clearMemPoison
    dsimp only
    rw [evalMonitors_blocks, markPages_blocks, setPresent_blocks]
    simpa using h.2.1
  · unfold physWrite clearMemPoison
    dsimp only
    rw [evalMonitors_snaps, markPages_snaps, setPresent_snaps]
    simpa using h.2.2

theorem markItem_snaps (s : State) (blk : Nat) (i : Item) : (markItem s blk i).snaps = s.snaps := by
  unfold markItem
  split <;> rfl

theorem markItem_memoriesOk {s : State} (h : s.memoriesOk) (blk : Nat) (i : Item) : (markItem s blk i).memoriesOk :=
  State.memoriesOk_of_eq h (by rw [markItem_mem]) (markItem_blocks _ _ _) (markItem_snaps _ _ _)

theorem evalScratchMonitors_snaps (s : State) (blk off n : Nat) : (evalScratchMonitors s blk off n).snaps = s.snaps := by
  unfold evalScratchMonitors
  split
  · rfl
  · split <;> rfl

/-- R168: a write of a scratchpad keeps the memories' form. -/
theorem scratchWrite_memoriesOk {s : State} (h : s.memoriesOk) (blk off : Nat) (bs : List Byte) (own : Bool) :
    (scratchWrite s blk off bs own).memoriesOk := by
  unfold scratchWrite
  dsimp only
  refine State.memoriesOk_of_eq (State.foldl_memoriesOk (fun s k hs => markItem_memoriesOk hs _ _) _
    (State.clearPoison_memoriesOk (State.modBlock_memoriesOk h blk (fun x hx => cellsWrite_wf hx off bs)) _))
    (evalScratchMonitors_cells _ _ _ _) (evalScratchMonitors_blocks _ _ _ _) (evalScratchMonitors_snaps _ _ _ _)

end Sys2Proof.Machine
end

