-- ==== Sys2Proof/Laws/Trap.lean ====
section
/-! SUPPORT. Taking an exception (R228, R230): the state and the view after it, for a path and for a bellwether with a handler, and
without one. -/

namespace Sys2Proof.Machine

open Sys2Proof

/-- R228: a fault of a path with a handler enters it. -/
theorem raise_path {s : State} {v : View} (x : Exc) (hb : v.isBell = false) (ht : v.traps = true) :
    raise s v x = { s.modGroup v.p.blk v.gi (fun g => g.enterTrap v.sec x s.ft) with cur := none } := by
  unfold raise
  rw [if_pos ht]
  simp [hb]

/-- R228: a fault of a bellwether with a handler enters it. -/
theorem raise_bell {s : State} {v : View} (x : Exc) (hb : v.isBell = true) (ht : v.traps = true) :
    raise s v x = { s.modBell v.p.blk (fun b => b.enterTrap x s.ft) with cur := none } := by
  unfold raise
  rw [if_pos ht]
  simp [hb]

/-- R230: a fault without a handler stops the context. -/
theorem raise_stops {s : State} {v : View} (x : Exc) (ht : v.traps = false) :
    raise s v x = { stopContext s v.b.ctx x.code x.k2.toNat v.b.lin (if v.isBell then 0xFF else v.gi)
      (if x.lanes == 0 then 0xFF else lowLane x.lanes) with cur := none } := by
  unfold raise
  rw [if_neg (by simp [ht])]

/-- A fault ends the party's turn. -/
@[simp] theorem raise_cur (s : State) (v : View) (x : Exc) : (raise s v x).cur = none := by
  unfold raise
  split <;> rfl

/-- R228: what a path sees in its handler. -/
theorem raise_view_path {s : State} {v : View} (x : Exc) (h : s.view v.p = some v) (hb : v.isBell = false) (ht : v.traps = true) :
    (raise s v x).view v.p =
      some { v with
        b := v.b.modGroup v.gi (fun g => g.enterTrap v.sec x s.ft), g := v.g.enterTrap v.sec x s.ft
        path := (v.g.enterTrap v.sec x s.ft).path v.sec, ctl := ((v.g.enterTrap v.sec x s.ft).path v.sec).ctl
        mode := (v.g.enterTrap v.sec x s.ft).mode } := by
  rw [raise_path x hb ht]
  exact (State.view_congr rfl v.p).trans (State.view_modGroup h hb _)

/-- R228: trap entry leaves the registers, and the group's other path. -/
theorem Group.enterTrap_keeps (g : Group) (sec : Bool) (x : Exc) (age : Nat) :
    (g.enterTrap sec x age).v = g.v ∧ (g.enterTrap sec x age).s = g.s ∧ (g.enterTrap sec x age).p = g.p ∧
      (g.enterTrap sec x age).mode = 0 ∧ (g.enterTrap sec x age).path (!sec) = g.path (!sec) := by
  unfold Group.enterTrap
  cases sec <;> simp [Group.path, Group.setPath]

/-- R228: what trap entry makes of the path. -/
theorem Group.enterTrap_path (g : Group) (sec : Bool) (x : Exc) (age : Nat) :
    ((g.enterTrap sec x age).path sec).ctl.pc = g.tbase + BitVec.ofNat 64 (64 * x.code) ∧
      ((g.enterTrap sec x age).path sec).ctl.handler = true ∧ ((g.enterTrap sec x age).path sec).ctl.runPos = 0 ∧
      ((g.enterTrap sec x age).path sec).ctl.inRun = false ∧ ((g.enterTrap sec x age).path sec).brand = 0xFFFFFFFF#32 ∧
      ((g.enterTrap sec x age).path sec).mask = (g.path sec).mask ∧ ((g.enterTrap sec x age).path sec).div = (g.path sec).div ∧
      ((g.enterTrap sec x age).path sec).divSpill = (g.path sec).divSpill ∧
      ((g.enterTrap sec x age).path sec).latches = (g.path sec).latches ∧
      ((g.enterTrap sec x age).path sec).ctl.ret = (g.path sec).ctl.ret ∧
      ((g.enterTrap sec x age).path sec).ctl.retSpill = (g.path sec).ctl.retSpill := by
  unfold Group.enterTrap
  simp

end Sys2Proof.Machine
end

