-- ==== Sys2Proof/Laws/Step.lean ====
section
/-! SUPPORT. What one step does: the turn of a stream that holds the issue, and the turn of the engines. -/

namespace Sys2Proof.Machine

open Sys2Proof

/-- A step runs what has the turn. -/
theorem step_run {s t : State} {i : Instr} (h : turn s = .run i t) : step s = exec i t := by unfold step; rw [h]

/-- A step in which nothing runs leaves the state of its turn. -/
theorem step_stay {s t : State} (h : turn s = .stay t) : step s = .next t := by unfold step; rw [h]

/-- R20, R85: on the streams' turn the party that holds the issue has it. -/
theorem turn_issue {s : State} {p : Party} (he : s.engineTurn = false) (hc : s.cur = some p) :
    turn s = issueParty { s with ft := s.ft + 1, engineTurn := true } p := by
  unfold turn
  rw [if_neg (by simp [he])]
  unfold issueTurn
  simp only [hc]

/-- R85, R86: a party whose word is fetched and held back by nothing runs what the word decodes to. -/
theorem issueParty_run {s u t : State} {p : Party} {v : View} {w : W32} (hv : s.view p = some v) (hr : blockRuns s v.b = true)
    (he : v.ctl.ended = false) (hf : fetchWord s v = .ok (u, w)) (hh : holdWord u v (decode w) w = (t, none)) :
    issueParty s p = .run (decode w) t := by
  unfold issueParty
  simp only [hv, hr, he, hf, hh]
  rfl

end Sys2Proof.Machine
end

