-- ==== Sys2Proof/Tests/Slice0.lean ====
section
/-! SUPPORT. Decoding of words of every family; witnesses that the hypotheses of the statements can be met; the worked values of the spec, each
in one step; terms that stand for nothing of the device. -/

namespace Sys2Proof.Tests

open Sys2Proof Sys2Proof.Machine

set_option Elab.async false

/-! ## Decoding -/

/-- R315, R316, R326 to R329: words of the family, as the spec prints them or put together from its tables. -/
theorem test_decode_control :
    ([0x01000000#32, 0x81000000#32, 0x020000A0#32, 0x03810000#32, 0x04008300#32, 0x0583000B#32, 0x06830006#32, 0x07820001#32,
    0x08000012#32, 0x09000000#32, 0x89000000#32, 0x0A000000#32, 0x0B000000#32, 0x0C82C300#32] : List W32).map decode = [.opNop false,
    .opNop true, .opSetm false 0xA0#16, .opGetm false 0x81#8, .opSetmx false 0x83#8, .opSysv false 0x83#8 0xB#16, .opCrd false 0x83#8
    6#16, .opCwr false 0x82#8 1#16, .opTrap false 0x12#16, .opRte false, .opRte true, .opYield false, .opCkpt false, .opChq false
    0x82#8 0xC3#8] := by decide

/-- R315, R316, R326 to R329: words of the family, as the spec prints them or put together from its tables. -/
theorem test_decode_lane_two_source :
    ([0x100506E1#32, 0x11010203#32, 0x120302F2#32, 0x13030405#32, 0x140102E3#32, 0x15010203#32, 0x16010203#32, 0x17010203#32,
    0x18010203#32, 0x1901A5E2#32, 0x1A1408E4#32, 0x1B0102E4#32, 0x1C030405#32, 0x1D0102E2#32, 0x1E2102E0#32, 0x1F05C200#32,
    0x24010203#32, 0x25010203#32] : List W32).map decode = [.opAdd false 5#8 6#8 0xE1#8, .opSub false 1#8 2#8 3#8, .opMul false 3#8
    2#8 0xF2#8, .opMad false 3#8 4#8 5#8, .opMin false 1#8 2#8 0xE3#8, .opMax false 1#8 2#8 3#8, .opAnd false 1#8 2#8 3#8, .opOr false
    1#8 2#8 3#8, .opXor false 1#8 2#8 3#8, .opShl false 1#8 0xA5#8 0xE2#8, .opShr false 0x14#8 8#8 0xE4#8, .opSar false 1#8 2#8
    0xE4#8, .opSel false 3#8 4#8 5#8, .opMulh false 1#8 2#8 0xE2#8, .opCmp false 2#4 1#4 2#8 0xE0#8, .opMov false 5#8 0xC2#8, .opBfe
    false 1#8 2#8 3#8, .opBfi false 1#8 2#8 3#8] := by decide

/-- R315, R316, R326 to R329: words of the family, as the spec prints them or put together from its tables. -/
theorem test_decode_unary :
    ([0x20030700#32, 0x20010201#32, 0x20010202#32, 0x20010203#32, 0x20010204#32, 0x20010205#32, 0x20010206#32, 0x20010207#32,
    0x20010208#32, 0x20050609#32, 0x2001020A#32, 0x2001020B#32, 0x2001020C#32, 0x2001020D#32, 0x2001020E#32, 0x2104020C#32,
    0x220A0200#32, 0x220A0201#32, 0x230A0200#32] : List W32).map decode = [.opAbs false 3#8 7#8, .opNeg false 1#8 2#8, .opNot false
    1#8 2#8, .opRcp false 1#8 2#8, .opRsq false 1#8 2#8, .opSqrt false 1#8 2#8, .opExp2 false 1#8 2#8, .opLog2 false 1#8 2#8, .opSin
    false 1#8 2#8, .opCos false 5#8 6#8, .opRint false 1#8 2#8, .opClz false 1#8 2#8, .opPopc false 1#8 2#8, .opBrev false 1#8 2#8,
    .opClass false 1#8 2#8, .opCvt false 4#8 2#8 0xC#4, .opCvtb false 0xA#8 2#8, .opCvtbGiven false 0xA#8 2#8, .opUnpb false 0xA#8
    2#8] := by decide

/-- R315, R316, R326 to R329: words of the family, as the spec prints them or put together from its tables. -/
theorem test_decode_cross_lane :
    ([0x300302E1#32, 0x310302E1#32, 0x320302E1#32, 0x330302E1#32, 0x3482B100#32, 0x3482B101#32, 0x3482B102#32, 0x3482B103#32,
    0x35050400#32, 0x35050401#32, 0x35050402#32, 0x35050403#32] : List W32).map decode = [.opShfl false 3#8 2#8 0xE1#8, .opShfx false
    3#8 2#8 0xE1#8, .opShup false 3#8 2#8 0xE1#8, .opShdn false 3#8 2#8 0xE1#8, .opVany false 0x82#8 0xB1#8, .opVall false 0x82#8
    0xB1#8, .opVuni false 0x82#8 0xB1#8, .opVbal false 0x82#8 0xB1#8, .opGsum false 5#8 4#8, .opGmin false 5#8 4#8, .opGmax false 5#8
    4#8, .opGscan false 5#8 4#8] := by decide

/-- R315, R316, R326 to R329: words of the family, as the spec prints them or put together from its tables. -/
theorem test_decode_predicate :
    ([0x36B3B120#32, 0x36B3B121#32, 0x36B3B122#32, 0x36B3B103#32, 0x37B28200#32, 0x37B2C001#32, 0x37B20502#32, 0x3882B500#32] : List
    W32).map decode = [.opPand false 0xB3#8 0xB1#8 2#4, .opPor false 0xB3#8 0xB1#8 2#4, .opPxor false 0xB3#8 0xB1#8 2#4, .opPnot false
    0xB3#8 0xB1#8, .opPset false 0xB2#8 0x82#8, .opPsetFirst false 0xB2#8 0xC0#8, .opPsetNz false 0xB2#8 5#8, .opPcnt false 0x82#8
    0xB5#8] := by decide

/-- R315, R316, R326 to R329: words of the family, as the spec prints them or put together from its tables. -/
theorem test_decode_scalar :
    ([0x408182E4#32, 0x41818283#32, 0x42818283#32, 0x43818283#32, 0x44929293#32, 0x45928D8A#32, 0x46818283#32, 0x478182EF#32,
    0x48818283#32, 0x49818283#32, 0x4A004700#32, 0x4BA20304#32, 0x4C83FFFE#32, 0x4D9F0A40#32, 0x4E02E800#32, 0x4F03E800#32] : List
    W32).map decode = [.opSadd false 0x81#8 0x82#8 0xE4#8, .opSsub false 0x81#8 0x82#8 0x83#8, .opSmul false 0x81#8 0x82#8 0x83#8,
    .opSand false 0x81#8 0x82#8 0x83#8, .opSor false 0x92#8 0x92#8 0x93#8, .opSxor false 0x92#8 0x8D#8 0x8A#8, .opSshl false 0x81#8
    0x82#8 0x83#8, .opSshr false 0x81#8 0x82#8 0xEF#8, .opSmin false 0x81#8 0x82#8 0x83#8, .opSmax false 0x81#8 0x82#8 0x83#8, .opSmov
    false 0#8 0x47#8, .opScmp false 0xA#4 2#4 3#8 4#8, .opSli false 0x83#8 0xFFFE#16, .opSlh false 0x9F#8 0xA40#16, .opSld false 2#8
    0xE8#8 0#5 0#3, .opSst false 3#8 0xE8#8 0#5 0#3] := by decide

/-- R315, R316, R326 to R329: words of the family, as the spec prints them or put together from its tables. -/
theorem test_decode_memory :
    ([0x50020120#32, 0x51030128#32, 0x5203A433#32, 0x5303A433#32, 0x54080128#32, 0x55040110#32, 0x560782E1#32, 0x570782E1#32,
    0x58000121#32, 0x59051400#32, 0x5A041400#32, 0x5B041400#32, 0x5C000002#32, 0x5D03E000#32, 0x5E000000#32] : List W32).map decode =
    [.opLd false 2#8 1#8 4#5 0#3, .opSt false 3#8 1#8 5#5 0#3, .opLda false 3#8 0xA4#8 6#5 3#3, .opStl false 3#8 0xA4#8 6#5 3#3,
    .opLds false 8#8 1#8 5#5, .opSts false 4#8 1#8 2#5, .opLdacc false 7#8 0x82#8 0xE1#8, .opStacc false 7#8 0x82#8 0xE1#8, .opPref
    false 1#8 4#5 1#3, .opTagq false 5#8 0x14#8, .opTagw false 4#8 0x14#8, .opTagx false 4#8 0x14#8, .opFence false 2#3, .opWaitc
    false 3#2 0xE0#8, .opWaitg false] := by decide

/-- R315, R316, R326 to R329: words of the family, as the spec prints them or put together from its tables. -/
theorem test_decode_atomic_and_barrier :
    ([0x60040A75#32, 0x60040A04#32, 0xE110040B#32, 0x62081407#32, 0x63080A05#32, 0x64060A38#32, 0x65848651#32, 0x66008283#32,
    0x67008200#32, 0x6800E1E3#32, 0x6900E100#32, 0x6A00E1E3#32, 0x6B000002#32, 0x6C868700#32, 0x6C008601#32, 0x6C868702#32,
    0x6C868703#32, 0x6DB11486#32] : List W32).map decode = [.opAtom false 4#8 0xA#8 7#4 2#3, .opRed false 4#8 0xA#8 0#4 2#3, .opCas
    true 0x10#8 4#8 5#3, .opCas128 false 8#8 0x14#8 3#3, .opAtom2 false 8#8 0xA#8 0#4 2#3, .opRedh false 6#8 0xA#8 3#4 4#3, .opMwait
    false 0x84#8 0x86#8 5#4, .opLock false 0x82#8 0x83#8, .opUnlk false 0x82#8, .opBara false 0xE1#8 0xE3#8, .opBarw false 0xE1#8,
    .opBars false 0xE1#8 0xE3#8, .opHbar false 2#3, .opBnew false 0x86#8 0x87#8, .opBdel false 0x86#8, .opBoa false 0x86#8 0x87#8,
    .opBow false 0x86#8 0x87#8, .opPost false 0xB1#8 0x14#8 0x86#8] := by decide

/-- R315, R316, R326 to R329: words of the family, as the spec prints them or put together from its tables. -/
theorem test_decode_branch :
    ([0xF03FFFFD#32, 0xF1101005#32, 0xF2009F00#32, 0xF3000028#32, 0xF4200000#32, 0xF5000C00#32, 0xF6000000#32, 0xF7000000#32] : List
    W32).map decode = [.opBra 3#4 0xFFFFD#20, .opBrd 1#4 4#10 5#10, .opBrx 0x9F#8, .opCall 0#4 0x28#20, .opRet 2#4, .opDisp 0xC#8,
    .opExit, .opDone] := by decide

/-- R315, R316, R326 to R329: words of the family, as the spec prints them or put together from its tables. -/
theorem test_decode_matrix_and_copy :
    ([0x78000801#32, 0x79000800#32, 0x7A140000#32, 0x7B001400#32, 0x7C000800#32, 0x7D020300#32, 0x7EE20405#32, 0x7F848800#32,
    0x7F101401#32, 0x7F100002#32, 0x7F08E103#32, 0x7F868704#32] : List W32).map decode = [.opWld false 8#8 1#1, .opMstr false 8#8 0#1,
    .opMfence false 0x14#8, .opMwaitb false 0x14#8, .opMdrn false 8#8, .opMclr false 2#8 3#8, .opMwin false 0xE2#8 4#8 5#8, .opCpy
    false 0x84#8 0x88#8, .opCpy2d false 0x10#8 0x14#8, .opCpyw false 0x10#8, .opCnta false 8#8 0xE1#8, .opCntw false 0x86#8 0x87#8] :=
    by decide

/-- R315, R316, R326 to R329: words of the family, as the spec prints them or put together from its tables. -/
theorem test_decode_reserved :
    ([0x00000000#32, 0x0D000000#32, 0x26000000#32, 0x3F000000#32, 0x5F000000#32, 0x6E000000#32, 0x01000001#32, 0x02010000#32,
    0x2001020F#32, 0x22000002#32, 0x34000004#32, 0x36B3B114#32, 0x36B3B124#32, 0x37000003#32, 0x5D04E000#32, 0x6C868704#32,
    0x76000000#32, 0x70300005#32, 0xF6000001#32, 0xF4200001#32, 0x78000802#32, 0x7F868705#32] : List W32).map decode =
    [.evReservedEncoding 0x00000000#32, .evReservedEncoding 0x0D000000#32, .evReservedEncoding 0x26000000#32, .evReservedEncoding
    0x3F000000#32, .evReservedEncoding 0x5F000000#32, .evReservedEncoding 0x6E000000#32, .evReservedEncoding 0x01000001#32,
    .evReservedEncoding 0x02010000#32, .evReservedEncoding 0x2001020F#32, .evReservedEncoding 0x22000002#32, .evReservedEncoding
    0x34000004#32, .evReservedEncoding 0x36B3B114#32, .evReservedEncoding 0x36B3B124#32, .evReservedEncoding 0x37000003#32,
    .evReservedEncoding 0x5D04E000#32, .evReservedEncoding 0x6C868704#32, .evReservedEncoding 0x76000000#32, .evReservedEncoding
    0x70300005#32, .evReservedEncoding 0xF6000001#32, .evReservedEncoding 0xF4200001#32, .evReservedEncoding 0x78000802#32,
    .evReservedEncoding 0x7F868705#32] := by decide

/-! ## Small states -/

/-- A context with one block on core 0, whose first word is NOP and whose group 0 holds the issue. -/
def base : State := placeProgram State.reset 0x01000000#32
/-- The issue given to the bellwether. -/
def onBell (s : State) : State := { s with cur := some { blk := 0, who := .bell } }
/-- Group 0 changed. -/
def grp (f : Group → Group) (s : State) : State := s.modGroup 0 0 f
/-- Path 0 of group 0 changed. -/
def pth (f : Path → Path) : State → State := grp (fun g => { g with path0 := f g.path0 })
/-- The block changed. -/
def blk (f : Block → Block) (s : State) : State := s.modBlock 0 f
/-- The bellwether changed. -/
def bel (f : Bell → Bell) (s : State) : State := s.modBell 0 f
/-- The context changed. -/
def ctx (f : Ctx → Ctx) (s : State) : State := s.modCtx 0 f
/-- MODE of group 0. -/
def withMode (m : W16) : State → State := grp (fun g => { g with mode := m })
/-- s registers of group 0. -/
def withS (l : List (Nat × W64)) : State → State := grp (fun g => l.foldl (fun g x => g.setS x.1 x.2) g)
/-- w registers. -/
def withW (l : List (Nat × W64)) : State → State := bel (fun b => l.foldl (fun b x => b.setW x.1 x.2) b)
/-- A vector register of group 0. -/
def withV (r : Nat) (f : Nat → W32) : State → State := grp (fun g => g.setV r 0xFFFFFFFF#32 f)
/-- A predicate of group 0. -/
def withP (r : Nat) (x : W32) : State → State := grp (fun g => g.setP r 0xFFFFFFFF#32 x)
/-- Bytes of pod memory. -/
def withMem (a : Nat) (bs : List Byte) (s : State) : State := s.modMem (fun m => { m with cells := cellsWrite m.cells a bs })
/-- Lines from 1 MiB on in their slices. -/
def near (n : Nat) (s : State) : State := s.modMem (fun m => { m with present := (List.range n).map (· + 0x2000) })
/-- FT. -/
def atFt (n : Nat) (s : State) : State := { s with ft := n }
/-- u32, f32, i32, u64, f4. -/
def mU32 : W16 := 0xA0#16
def mF32 : W16 := 0#16
def mI32 : W16 := 0x80#16
def mU64 : W16 := 0xE0#16
def mF4 : W16 := 0x1C0#16

/-! ## Hypotheses as checks -/

/-- The party that holds the issue passes the checks of its decoding, and what more a statement asks of it holds. -/
def meets (s : State) (i : Instr) (need : View → Need) (k : View → Bool) : Bool :=
  match s.cur.bind s.view with
  | none => false
  | some v =>
    streamOk v (need v).streams &&
      (match (need v).feat with | some b => Config.featmask.getLsbD b | none => true) && (need v).ok && endOk v (encode i) &&
      latchesOk v (need v).lats && (!(need v).guarded || !v.suppressed) && k v

/-- The party that holds the issue sees what `State.view` gives of it. -/
theorem cur_view {s : State} {v : View} (h : s.cur.bind s.view = some v) : s.cur = some v.p ∧ s.view v.p = some v := by
  obtain ⟨p, hp, hv⟩ := Option.bind_eq_some_iff.1 h
  have e : v.p = p := State.view_p hv
  exact ⟨by rw [e]; exact hp, by rw [e]; exact hv⟩

theorem meets_admitted {s : State} {i : Instr} {need : View → Need} {k : View → Bool} (h : meets s i need k = true) :
    ∃ v, Admitted s v i (need v) ∧ k v = true := by
  unfold meets at h
  split at h
  · cases h
  · rename_i v hv
    simp only [Bool.and_eq_true] at h
    obtain ⟨⟨⟨⟨⟨⟨h3, h4⟩, h5⟩, h6⟩, h7⟩, h8⟩, h9⟩ := h
    refine ⟨v, ⟨(cur_view hv).1, (cur_view hv).2, h3, ?_, h5, h6, h7, ?_⟩, h9⟩
    · intro b hb
      rw [hb] at h4
      exact h4
    · intro hg
      simpa [hg] using h8

/-- The sources of a word are fetched, and what more a statement asks holds. -/
def fetches (s : State) (v : View) (ops : List (BitVec 8 × Nat)) (push : Option Nat) (dies : View → List Fetched → W32)
    (k : State → View → List Fetched → Bool) : Bool :=
  match fetchOps s v ops push dies with
  | .ok (t, w, fts) => k t w fts
  | .error _ => false

/-- `HasRoom` as a check. -/
def room (w : View) (d : BitVec 8) : Bool :=
  match pushOf d with
  | some c => decide ((w.b.chans.getD c []).length < chanDepth)
  | none => true

theorem room_hasRoom {w : View} {d : BitVec 8} (h : room w d = true) : HasRoom w d := by
  intro c hc
  unfold room at h
  rw [hc] at h
  simpa using h

/-- No lane consumes poison. -/
def noDies (_ : View) (_ : List Fetched) : W32 := 0

/-- The hypotheses of `LaneWordCompletes`. -/
def laneMet (m : W16) (i : Instr) (ok : View → Bool) (ops : View → List (BitVec 8 × Nat)) (d : BitVec 8) (dn : View → Nat) : Bool :=
  let s := withMode m base
  meets s i (fun v => { streams := .g, feat := laneFeat v, ok := ok v && laneDstOk v (dn v) d, lats := (ops v).map Prod.fst })
    (fun v => fetches s v (ops v) (pushOf d) (fun v fts => diesOf s v v.active fts (ops v)) (fun _ w _ => room w d))

/-- The hypotheses of `ScalarCompletes`, in a group and in the bellwether. -/
def scalarMet (s : State) (i : Instr) (srcs : List (BitVec 8)) (d : BitVec 8) : Bool :=
  meets s i (fun v => { streams := .gb, ok := srcs.all (sSrcOk v true) && sDstOk v true d, lats := srcs })
    (fun v => fetches s v (srcs.map (fun x => (x, 0))) (pushOf d) noDies (fun _ w _ => room w d))

/-- `JobGoes` as a check. -/
def jobMet (s : State) (v : View) (j : LaneJob) : Bool :=
  let st := jobStart s v j
  let r := resolveAll j.resolve st.2 (laneList.filter (inMask (v.active &&& ~~~v.perf)))
  let q := j.perform r.1 st.1 (jobTargets r.2)
  (List.range 32).all (fun l => !inMask v.active l || (j.addr l).toNat % j.align == 0) &&
    (v.ctl.openOp.isSome || !counterFull s v.p j.cls) && r.2.all (fun x => (resTgt x).isSome) && q.1.cur.isSome &&
    q.2.all (fun x => laneMade x.2) &&
    (!v.ctl.replays || !jobFlying (lateLanes (commitLanes q.1 v st.1 j.dst q.2) v j q.2) v st.1)

theorem targets_of_all {l : List (Nat × LRes)} (h : l.all (fun x => (resTgt x).isSome) = true) :
    l = (jobTargets l).map (fun x => (x.1, LRes.goes x.2)) := by
  induction l with
  | nil => rfl
  | cons x l ih =>
    obtain ⟨a, r⟩ := x
    simp only [List.all_cons, Bool.and_eq_true] at h
    cases r with
    | goes t =>
      have e : jobTargets ((a, LRes.goes t) :: l) = (a, t) :: jobTargets l := rfl
      rw [e, List.map_cons, ← ih h.2]
    | fault c w b => exact absurd h.1 (by simp [resTgt])
    | page q => exact absurd h.1 (by simp [resTgt])
    | hold w => exact absurd h.1 (by simp [resTgt])

theorem jobMet_goes {s : State} {v : View} {j : LaneJob} (h : jobMet s v j = true) : JobGoes s v j := by
  unfold jobMet at h
  simp only [Bool.and_eq_true] at h
  obtain ⟨⟨⟨⟨⟨h1, h2⟩, h3⟩, h4⟩, h5⟩, h6⟩ := h
  refine ⟨?_, ?_, _, _, Prod.ext rfl (targets_of_all h3), h4, ?_, ?_⟩
  · intro l hl ha
    have := List.all_eq_true.1 h1 l (List.mem_range.2 hl)
    simpa [ha] using this
  · intro ho
    simpa [ho] using h2
  · intro x hx
    exact List.all_eq_true.1 h5 x hx
  · intro hr
    simpa [hr] using h6

/-- The hypotheses of `LaneLoadCompletes` and of the loads' frame. -/
def loadMet (s : State) (i : Instr) (ok : Bool) (d a : BitVec 8) (sr : BitVec 5) (bypass fill near : Bool)
    (addr : View → List Fetched → Nat → W64) (resolve : View → State → W64 → State × LRes) : Bool :=
  meets s i (fun v => { streams := .g, feat := laneFeat v, ok := ok && byteTy v && loadDstOk v d && offsetOk v a, lats := [a] })
    (fun v => v.b.pair.isNone && (match fetchLanes s v [(a, 1), (sField v sr, 0)] with
      | .ok (t, w, fts) => decide ((resvLanes w (addr w fts)).length ≤ ringFree w.b) &&
          jobMet t w (loadJob w d (addr w fts) bypass fill near (resolve w))
      | .error _ => false))

/-- The hypotheses of `LaneStoreCompletes` and of the stores' frame. -/
def storeMet (s : State) (i : Instr) (ok : Bool) (d a : BitVec 8) (sr : BitVec 5) (fence : Option Nat)
    (addr : View → List Fetched → Nat → W64) (resolve : View → List Fetched → State → W64 → State × LRes)
    (perform : View → State → Nat → List (Nat × Tgt) → (Nat → List Byte) → State × List (Nat × LOut)) : Bool :=
  meets s i (fun v => { streams := .g, feat := laneFeat v, ok := ok && byteTy v && copySrcOk v d && offsetOk v a, lats := [a, d] })
    (fun v => v.b.pair.isNone && (match fence with | some sc => (fenceWait s v sc).isNone | none => true) &&
      (match fetchLanes s v [(a, 1), (sField v sr, 0), (d, tyRegs v.ty)] with
      | .ok (t, w, fts) =>
          jobMet (fenceOver t w (fence.getD 0)) w
            (storeJob w (addr w fts) (resolve w fts) (fun s id ts => perform w s id ts (storeBytes w fts)))
      | .error _ => false))

/-- The hypotheses of `AtomicCompletes`. -/
def atomMet (s : State) (i : Instr) (scope : Nat) (feat : View → Option Nat) (ok : View → Bool) (a : BitVec 8)
    (srcs : View → List (BitVec 8 × Nat)) (align : View → Nat) (cls : Cls) (dst : View → Dst) (words : List Byte → List W32)
    (op : View → List Fetched → Nat → SyncOp) : Bool :=
  meets s i (fun v => { streams := .g, feat := feat v, ok := decide (scope ≤ 5) && vregsOk v 2 a && ok v, lats := (srcs v).map Prod.fst })
    (fun v => v.b.pair.isNone && (match fetchLanes s v (srcs v ++ [(a, 2)]) with
      | .ok (t, w, fts) => jobMet t w (atomJob w scope a (align w) cls (dst w) words (op w fts))
      | .error _ => false))

/-- `Reaches` as a check, with what more is asked of the state and the leaf. -/
def reaches (s : State) (v : View) (va : W64) (n : Nat) (acc : Acc) (k : State → Leaf → Bool) : Bool :=
  va.toNat % n == 0 && (match memTgt s v va acc with | (t, .goes (.mem l _)) => k t l | _ => false)

/-- FT 100; lanes 0 and 31; u32; s1 = 1 MiB; v1 = 4 × lane, (v4, v5) = 1 MiB + 16 × lane. -/
def ready : State :=
  pth (fun p => { p with mask := 0x80000001 }) (atFt 100 (withV 4 (fun l => BitVec.ofNat 32 (0x100000 + 16 * l)) (withV 1 (fun l => BitVec.ofNat 32 (4 * l)) (withS [(1, 0x100000), (2, 0x200)] (withMode mU32 base)))))

/-- The path's host drain has completed. -/
def drained : State := ready.modMem (fun m => { m with drains := [{ party := { blk := 0, who := .path 0 false }, issued := 99 }] })

/-- The values of path-wide fields are fetched, and what more is asked of them holds. -/
def given (s : State) (v : View) (ops : List (BitVec 8)) (k : State → View → (Nat → W64) → Bool) : Bool :=
  fetches s v (ops.map (fun x => (x, 0))) none noDies (fun t w fts => k t w (pathVal w fts))

/-- The needs of a word of path-wide sources. -/
def pathNeed (v : View) (lats : List (BitVec 8)) (ok : Bool := true) (feat : Option Nat := none) : Need :=
  { streams := .gb, feat := feat, ok := lats.all (sSrcOk v false) && ok, lats := lats }

/-- Node 5 of context 0, with records of 8 bytes. -/
def node5 : Node :=
  { ctx := 0, index := 5, decl := { placedDecl with node := true, recSize := 8 }, timeout := 10, grid := 0, replace := none }

/-- A run starts at `a`. -/
def runsAt (s : State) (b : Block) (a : W64) : Bool := match (isRunStart s b a).2 with | .ok true => true | _ => false

/-- The code at 0x10000 goes on with words that end their run. -/
def code : State := withMem 0x10004 (leBytes 4 0x81000000 ++ leBytes 4 0x81000000 ++ leBytes 4 0x81000000) ready

/-- The states of a handler: of the bellwether, of a path whose trap came in mid-run, of one at a run start. -/
def inHandler (pos : Nat) : State :=
  grp (fun g => { g with k := (g.k.set 0 0x10000).set 1 (BitVec.ofNat 64 (pos * 2 ^ 24)), tbase := 0x14000 })
    (pth (fun p => { p with ctl := { p.ctl with handler := true, trapPc := 0x10000, trapStart := 0x10000 } }) code)

/-- A monitor of the group's path that has found its word. -/
def found : Monitor :=
  { party := { blk := 0, who := .path 0 false }, born := 0, loc := .mem 0x20000, va := 0x100000, pa := 0x100000, width := 8, cond := 5,
    signed := false, v := 5, counter := false, hit := some 7, far := none }

/-! ## Witnesses: states and operands that meet the hypotheses of the statements. A statement put together of several parts has a witness under the name of
each part. -/

theorem witness_LaneArithmeticWordsComplete :
    ((([(.opAdd, tyArith, mF32), (.opSub, tyArith, mI32), (.opMul, tyArith, mF32), (.opMin, tyArith, mI32), (.opMax, tyArith, mF32),
        (.opMulh, tyInt, mI32)] : List ((Bool → BitVec 8 → BitVec 8 → BitVec 8 → Instr) × (Ty → Bool) × W16)).all (fun x =>
      laneMet x.2.2 (x.1 false 1#8 2#8 0xE3#8) (fun v => x.2.1 v.ty && arithSrcOk v true 2#8 && arithSrcOk v true 0xE3#8)
        (fun v => [(2#8, tyRegs v.ty), (0xE3#8, tyRegs v.ty)]) 1#8 (fun v => tyRegs v.ty))) &&
    (([(.opAbs, tySign, mF32), (.opNeg, tySign, mI32), (.opNot, tyInt, mU32), (.opRcp, tyFloat, mF32), (.opRsq, tyFloat, mF32),
        (.opSqrt, tyFloat, mF32), (.opExp2, tyFloat, mF32), (.opLog2, tyFloat, mF32), (.opSin, tyFloat, mF32), (.opCos, tyFloat, mF32),
        (.opRint, tyFloat, mF32), (.opClz, tyInt, mU32), (.opPopc, tyInt, mU32), (.opBrev, tyInt, mU32), (.opClass, tyFloat, mF32)] :
        List ((Bool → BitVec 8 → BitVec 8 → Instr) × (Ty → Bool) × W16)).all (fun x =>
      laneMet x.2.2 (x.1 false 0xC8#8 2#8) (fun v => x.2.1 v.ty && arithSrcOk v true 2#8) (fun v => [(2#8, tyRegs v.ty)]) 0xC8#8
        (fun v => tyRegs v.ty))) &&
    laneMet mF32 (.opMad false 3#8 4#8 5#8)
      (fun v => tyArith v.ty && vregsOk v (tyRegs v.ty) 3#8 && arithSrcOk v true 4#8 && arithSrcOk v true 5#8)
      (fun v => [(4#8, tyRegs v.ty), (5#8, tyRegs v.ty), (3#8, tyRegs v.ty)]) 3#8 (fun v => tyRegs v.ty) &&
    laneMet mU32 (.opBfe false 1#8 2#8 3#8) (fun v => tyBf v.ty && arithSrcOk v false 2#8 && laneSrcOk v 1 true false 3#8)
      (fun v => [(2#8, tyRegs v.ty), (3#8, 1)]) 1#8 (fun v => tyRegs v.ty) &&
    laneMet mU32 (.opBfi false 1#8 2#8 3#8)
      (fun v => tyBf v.ty && vregsOk v (tyRegs v.ty) 1#8 && arithSrcOk v false 2#8 && laneSrcOk v 1 true false 3#8)
      (fun v => [(2#8, tyRegs v.ty), (3#8, 1), (1#8, tyRegs v.ty)]) 1#8 (fun v => tyRegs v.ty) &&
    laneMet mF32 (.opCvt false 4#8 2#8 7#4)
      (fun v => !(v.ty == .f4 || v.ty == .f4s) && !(tyOf 7 == .f4 || tyOf 7 == .f4s) && arithSrcOk v true 2#8)
      (fun v => [(2#8, tyRegs v.ty)]) 4#8 (fun _ => tyRegs (tyOf 7)) &&
    laneMet mU64 (.opMov false 4#8 2#8) (fun v => copySrcOk v 2#8) (fun v => [(2#8, tyRegs v.ty)]) 4#8 (fun v => tyRegs v.ty) &&
    laneMet mI32 (.opGscan false 4#8 2#8) (fun v => tyArith v.ty && arithSrcOk v true 2#8) (fun v => [(2#8, tyRegs v.ty)]) 4#8
      (fun v => tyRegs v.ty)) = true := by decide +kernel

/-- The shifts and the bitwise words, and a type and a constant that they do not take. -/
theorem witness_ShiftRules_BitwiseRules :
    ((([.opShl, .opShr, .opSar] : List (Bool → BitVec 8 → BitVec 8 → BitVec 8 → Instr)).all (fun mk =>
      laneMet mI32 (mk false 1#8 2#8 0xE4#8) (fun v => tyInt v.ty && arithSrcOk v false 2#8 && laneSrcOk v 1 true false 0xE4#8)
        (fun v => [(2#8, tyRegs v.ty), (0xE4#8, 1)]) 1#8 (fun v => tyRegs v.ty))) &&
    (([.opAnd, .opOr, .opXor] : List (Bool → BitVec 8 → BitVec 8 → BitVec 8 → Instr)).all (fun mk =>
      laneMet mU64 (mk false 4#8 2#8 0xE4#8) (fun v => tyInt v.ty && arithSrcOk v true 2#8 && arithSrcOk v true 0xE4#8)
        (fun v => [(2#8, tyRegs v.ty), (0xE4#8, tyRegs v.ty)]) 4#8 (fun v => tyRegs v.ty))) &&
    (match base.cur.bind base.view with
      | some v => !v.isBell && !tyInt v.ty
      | none => false) &&
    isFC 0xF2#8 && isIC 0xE4#8 && tyInt (tyOf 4) && decide (0x80000010 < 2 ^ tyBits .i32)) = true := by decide +kernel

theorem witness_SelectCompareAndBlockFormatWordsComplete :
    (meets base (.opSel false 3#8 4#8 5#8)
        (fun v => { streams := .g, feat := laneFeat v, ok := copySrcOk v 4#8 && copySrcOk v 5#8 && laneDstOk v (tyRegs v.ty) 3#8,
                    lats := [4#8, 5#8] })
        (fun v => fetches base v [(4#8, tyRegs v.ty), (5#8, tyRegs v.ty)] none (fun u fts =>
          diesOf base u (u.live &&& u.guardMask) (fts.take 1) [(4#8, tyRegs v.ty)] |||
            diesOf base u (u.live &&& ~~~u.guardMask) (fts.drop 1) [(5#8, tyRegs v.ty)]) (fun _ w _ => room w 3#8)) &&
      meets base (.opCmp false 2#4 1#4 2#8 0xE0#8)
        (fun v => { streams := .g, feat := laneFeat v, lats := [2#8, 0xE0#8],
                    ok := tyArith v.ty && decide (2 ≤ (if tyFloat v.ty then 13 else 5)) && arithSrcOk v true 2#8 && arithSrcOk v true 0xE0#8 })
        (fun v => fetches base v [(2#8, tyRegs v.ty), (0xE0#8, tyRegs v.ty)] none
          (fun u fts => diesOf base u u.active fts [(2#8, tyRegs v.ty), (0xE0#8, tyRegs v.ty)]) (fun _ _ _ => true)) &&
      [true, false].all (fun given =>
        meets (withMode mF4 base) (if given then .opCvtbGiven false 10#8 2#8 else .opCvtb false 10#8 2#8)
          (fun v => { streams := .g, feat := some 3, lats := [2#8],
                      ok := (v.ty == .f4 || v.ty == .f4s) && vregsOk v 1 10#8 && laneSrcOk v 1 false false 2#8 })
          (fun v => fetches (withMode mF4 base) v [(2#8, 1)] none (fun v fts => diesOf (withMode mF4 base) v v.active fts [(2#8, 1)])
            (fun t w _ => !t.poisoned (.vlane w.p.blk w.gi 10 4)))) &&
      meets (withMode mF4 base) (.opUnpb false 3#8 10#8)
        (fun v => { streams := .g, feat := some 3, ok := (v.ty == .f4 || v.ty == .f4s) && vregsOk v 1 10#8 && laneDstOk v 1 3#8 })
        (fun v => room v 3#8 && (List.range 5).all (fun l => !(withMode mF4 base).poisoned (.vlane v.p.blk v.gi 10 l)))) = true := by decide +kernel

theorem witness_CrossLaneWordsComplete :
    ((([(.opShfl, fun _ n => n), (.opShfx, fun l n => Nat.xor l n), (.opShup, fun l n => if n ≤ l then l - n else l),
        (.opShdn, fun l n => if l + n ≤ 31 then l + n else l)] :
        List ((Bool → BitVec 8 → BitVec 8 → BitVec 8 → Instr) × (Nat → Nat → Nat))).all (fun x =>
      meets base (x.1 false 3#8 2#8 0xE1#8)
        (fun v => { streams := .g, feat := laneFeat v, lats := [2#8, 0xE1#8],
                    ok := copySrcOk v 2#8 && laneSrcOk v 1 true false 0xE1#8 && laneDstOk v (tyRegs v.ty) 3#8 })
        (fun v => fetches base v [(2#8, tyRegs v.ty), (0xE1#8, 1)] none (shuffleDies base x.2 (tyRegs v.ty) 2#8 0xE1#8)
          (fun _ w _ => room w 3#8)))) &&
    (([.opVany, .opVall, .opVuni, .opVbal] : List (Bool → BitVec 8 → BitVec 8 → Instr)).all (fun mk =>
      meets base (mk false 0x82#8 0xB1#8) (fun v => { streams := .g, ok := isPred 0xB1#8 && (isPred 0x82#8 || isS 0x82#8 || laneDstOk v 1 0x82#8) })
        (fun v => room v 0x82#8))) &&
    meets base (.opPcnt false 0x82#8 0xB5#8) (fun v => { streams := .g, ok := isPred 0xB5#8 && (isS 0x82#8 || laneDstOk v 1 0x82#8) })
      (fun v => room v 0x82#8) &&
    (([.opGsum, .opGmin, .opGmax] : List (Bool → BitVec 8 → BitVec 8 → Instr)).all (fun mk =>
      meets (withMode mI32 base) (mk false 5#8 4#8)
        (fun v => { streams := .g, feat := laneFeat v, lats := [4#8],
                    ok := tyArith v.ty && arithSrcOk v true 4#8 && (isS 5#8 || laneDstOk v (tyRegs v.ty) 5#8) })
        (fun v => fetches (withMode mI32 base) v [(4#8, tyRegs v.ty)] none
          (fun u fts => diesOf (withMode mI32 base) u u.active fts [(4#8, tyRegs v.ty)]) (fun _ w _ => room w 5#8)))) &&
    (([.opPand false 0xB3#8 0xB1#8 2#4, .opPor false 0xB3#8 0xB1#8 2#4, .opPxor false 0xB3#8 0xB1#8 2#4, .opPnot false 0xB3#8 0xB1#8]).all
      (fun i => meets base i (fun _ => { streams := .g, ok := isPred 0xB3#8 && isPred 0xB1#8 }) (fun _ => true))) &&
    (([.opPset, .opPsetFirst] : List (Bool → BitVec 8 → BitVec 8 → Instr)).all (fun mk =>
      meets base (mk false 0xB2#8 0x82#8) (fun v => { streams := .g, ok := isPred 0xB2#8 && sSrcOk v false 0x82#8, lats := [0x82#8] })
        (fun v => fetches base v [(0x82#8, 0)] none noDies (fun _ _ _ => true)))) &&
    meets base (.opPsetNz false 0xB2#8 5#8)
      (fun v => { streams := .g, ok := isPred 0xB2#8 && laneSrcOk v 1 (!tyStorage v.ty) (tyFloat v.ty) 5#8, lats := [5#8] })
      (fun v => fetches base v [(5#8, 1)] none (fun v fts => diesOf base v v.active fts [(5#8, 1)]) (fun _ _ _ => true))) = true := by decide +kernel

/-- In a group, with an s register, and in the bellwether, with w registers. -/
theorem witness_ScalarWordsComplete :
    ((([.opSadd, .opSsub, .opSmul, .opSand, .opSor, .opSxor, .opSshl, .opSshr, .opSmin, .opSmax] :
        List (Bool → BitVec 8 → BitVec 8 → BitVec 8 → Instr)).all (fun mk =>
      scalarMet base (mk false 0x81#8 0x82#8 0xE4#8) [0x82#8, 0xE4#8] 0x81#8 &&
        scalarMet (onBell base) (mk false 1#8 2#8 0x47#8) [2#8, 0x47#8] 1#8)) &&
    scalarMet base (.opSmov false 0xC1#8 0x82#8) [0x82#8] 0xC1#8 && scalarMet (onBell base) (.opSmov false 0#8 0x47#8) [0x47#8] 0#8 &&
    scalarMet base (.opSli false 0x83#8 0xFFFE#16) [] 0x83#8 && scalarMet (onBell base) (.opSli false 3#8 0xFFFE#16) [] 3#8 &&
    meets base (.opSlh false 0x9F#8 1#16) (fun v => { streams := .gb, ok := sRegOk v 0x9F#8 })
      (fun v => fetches base v [(0x9F#8, 0)] none noDies (fun _ _ _ => true)) &&
    ([base, onBell base]).all (fun s => meets s (.opScmp false 10#4 2#4 0xE3#8 0xE4#8)
      (fun v => { streams := .gb, lats := [0xE3#8, 0xE4#8],
                  ok := scmpOk 10 && (!v.isBell || decide (2 < 8)) && sSrcOk v true 0xE3#8 && sSrcOk v true 0xE4#8 })
      (fun v => fetches s v [(0xE3#8, 0), (0xE4#8, 0)] none noDies (fun _ _ _ => true)))) = true := by decide +kernel

theorem witness_ModeControlAndSystemWordsComplete :
    (meets base (.opNop false) (fun _ => { streams := .gb }) (fun _ => true) &&
    meets base (.opSetm false 0xA0#16) (fun v => { streams := .gb, ok := modeOk v 0xA0#16 }) (fun _ => true) &&
    meets base (.opSetmx false 0x83#8) (fun v => { streams := .gb, ok := sSrcOk v true 0x83#8, lats := [0x83#8] })
      (fun v => fetches base v [(0x83#8, 0)] none noDies (fun _ w fts =>
        decide (((fts.map (sval w)).getD 0 0).toNat < 2 ^ 16) && modeOk w (((fts.map (sval w)).getD 0 0).setWidth 16))) &&
    meets base (.opGetm false 0x81#8) (fun v => { streams := .gb, ok := sDstOk v true 0x81#8 }) (fun v => room v 0x81#8) &&
    meets base (.opCrd false 0x83#8 6#16)
      (fun v => { streams := (cregStream 6).getD .gb, ok := (cregStream 6).isSome && sDstOk v true 0x83#8 }) (fun v => room v 0x83#8) &&
    meets (onBell base) (.opCwr false 2#8 0x100#16)
      (fun v => { streams := (cregStream 0x100).getD .gb, ok := (cregStream 0x100).isSome && sSrcOk v false 2#8, lats := [2#8] })
      (fun v => fetches (onBell base) v [(2#8, 0)] none noDies (fun _ _ _ => true)) &&
    meets base (.opChq false 0x82#8 0xC3#8) (fun v => { streams := .gb, ok := decide (3 < v.b.decl.channels) && sDstOk v false 0x82#8 })
      (fun _ => chanOf 0xC3#8 == some 3) &&
    meets base (.opYield false) (fun _ => { streams := .gb }) (fun _ => true) &&
    meets (onBell base) (.opCkpt false) (fun _ => { streams := .gb }) (fun _ => true) &&
    meets (atFt 7 base) (.opSysv false 0x83#8 0xE#16)
      (fun v => { streams := .gb, feat := if sysvVec v 0x83#8 then laneFeat v else none, ok := sysvOk v 0x83#8 0xE })
      (fun v => ftRead (atFt 7 base) v && room v 0x83#8) &&
    meets base (.opSysv false 3#8 0#16)
      (fun v => { streams := .gb, feat := if sysvVec v 3#8 then laneFeat v else none, ok := sysvOk v 3#8 0 })
      (fun v => room v 3#8)) = true := by decide +kernel

/-! ### Memory words -/

/-- The loads, and LDS from the scratchpad. -/
theorem witness_LaneLoadsComplete_LaneAccessesFrame :
    (loadMet ready (.opLd false 2#8 1#8 1#5 0#3) (hintOk false 0#3) 2#8 1#8 1#5 false true false (fun v fts l => laneVa v 1#5 fts l)
        (fun v s x => memTgt s v x .read) &&
      loadMet ready (.opLd false 2#8 1#8 1#5 3#3) (hintOk false 3#3) 2#8 1#8 1#5 true false false (fun v fts l => laneVa v 1#5 fts l)
        (fun v s x => memTgt s v x .read) &&
      loadMet ready (.opLda false 2#8 1#8 1#5 4#3) true 2#8 1#8 1#5 true false true (fun v fts l => laneVa v 1#5 fts l)
        (fun v s x => noSm (memTgt s v x .read) false) &&
      loadMet ready (.opLda false 2#8 1#8 2#5 0#3) true 2#8 1#8 2#5 true false true (fun v fts l => laneVa v 2#5 fts l)
        (fun v s x => noPort (lresOf s (scratchTgt64 s v x false) false)) &&
      loadMet ready (.opLds false 2#8 1#8 2#5) true 2#8 1#8 2#5 true false true (fun v fts l => laneScr v 2#5 fts l)
        (fun v s x => lresOf s (scratchTgt s v x.toNat false) false)) = true := by decide +kernel

theorem witness_LaneStoresComplete_LaneAccessesFrame :
    (storeMet ready (.opSt false 2#8 1#8 1#5 0#3) (hintOk true 0#3) 2#8 1#8 1#5 none (fun v fts l => laneVa v 1#5 fts l)
        (fun v _ s x => memTgt s v x .write) (plainStores 0) &&
      storeMet drained (.opStl false 2#8 1#8 1#5 5#3) true 2#8 1#8 1#5 (some 5) (fun v fts l => laneVa v 1#5 fts l)
        (fun v _ s x => noSm (memTgt s v x .write) true) syncStores &&
      storeMet ready (.opStl false 2#8 1#8 2#5 0#3) true 2#8 1#8 2#5 (some 0) (fun v fts l => laneVa v 2#5 fts l)
        (fun v _ s x => lresOf s (scratchTgt64 s v x true) true) syncStores &&
      storeMet ready (.opSts false 2#8 1#8 2#5) true 2#8 1#8 2#5 none (fun v fts l => laneScr v 2#5 fts l)
        (fun v fts s x => lresOf s (scratchTgt s (portsFirst v (laneScr v 2#5 fts) (storeBytes v fts)) x.toNat true) true)
        (plainStores 0)) = true := by decide +kernel

theorem witness_AtomicWordsComplete :
    (atomMet ready (.opAtom false 8#8 4#8 0#4 3#3) 3 (aopFeat 0) (fun v => aopOk 0 v.ty && vregsOk v (tyRegs v.ty) 8#8) 4#8
        (fun v => [(8#8, tyRegs v.ty)]) (fun v => tyBytes v.ty) .ac (fun v => .vreg 8 (tyRegs v.ty)) rawWords
        (fun v fts l => .rmw 0 (tyCode v) (atomData v fts l)) &&
      atomMet ready (.opRed false 0xE1#8 4#8 0#4 4#3) 4 (aopFeat 0) (fun v => aopOk 0 v.ty && arithSrcOk v true 0xE1#8) 4#8
        (fun v => [(0xE1#8, tyRegs v.ty)]) (fun v => tyBytes v.ty) .sc (fun _ => .none) (fun _ => [])
        (fun v fts l => .rmw 0 (tyCode v) (atomData v fts l)) &&
      atomMet ready (.opCas false 8#8 4#8 5#3) 5 (fun _ => none) (fun v => casTy v.ty && vregsOk v (2 * tyRegs v.ty) 8#8) 4#8
        (fun v => [(8#8, 2 * tyRegs v.ty)]) (fun v => tyBytes v.ty) .ac (fun v => .vreg 8 (tyRegs v.ty)) rawWords
        (fun v _ l => .cas (leBytes 4 (v.g.vlane 8 l).toNat) (leBytes 4 (v.g.vlane 9 l).toNat)) &&
      atomMet (withMode mU64 ready) (.opCas128 false 8#8 4#8 3#3) 3 (fun _ => some 6)
        (fun v => (v.ty == .i64 || v.ty == .u64) && vregsOk v 8 8#8) 4#8 (fun _ => [(8#8, 8)]) (fun _ => 16) .ac (fun _ => .vreg 8 4)
        rawWords (fun v _ l => .cas (leBytes 8 (pairVal v 8 l) ++ leBytes 8 (pairVal v 10 l)) (leBytes 8 (pairVal v 12 l) ++ leBytes 8 (pairVal v 14 l))) &&
      atomMet (withMode mU64 ready) (.opAtom2 false 8#8 4#8 0#4 3#3) 3 (aopFeat 0) (fun v => aopOk 0 v.ty && vregsOk v (2 * tyRegs v.ty) 8#8) 4#8
        (fun v => [(8#8, 2 * tyRegs v.ty)]) (fun v => 2 * tyBytes v.ty) .ac (fun v => .vreg 8 (2 * tyRegs v.ty)) rawWords
        (fun v _ l => .rmw2 0 (tyCode v) (leBytes 8 (pairVal v 8 l)) (leBytes 8 (pairVal v 10 l)))) = true := by decide +kernel

/-- A tag that takes the type f32. -/
theorem witness_HerdReductionCompletes :
    (meets (withMode mF32 ready) (.opRedh false 0xF2#8 4#8 3#4 4#3)
      (fun v => { streams := .g, feat := some 5, lats := [0xF2#8],
                  ok := decide (1 ≤ 4) && decide (4 ≤ 4) && tagTy 3 v.ty && vregsOk v 2 4#8 && arithSrcOk v true 0xF2#8 })
      (fun v => v.b.pair.isNone && (match fetchLanes (withMode mF32 ready) v [(0xF2#8, tyRegs v.ty), (4#8, 2)] with
        | .ok (t, w, fts) => jobMet t w (herdJob w 4#8 3 (fun l => atomData w fts l))
        | .error _ => false))) = true := by decide +kernel

/-- SLD into a register, into a channel, and SST. -/
theorem witness_ScalarMemoryWordsComplete :
    (([(0x85#8, none), (0xC3#8, some 3)] : List (BitVec 8 × Option Nat)).all (fun x =>
      meets ready (.opSld false x.1 0x82#8 1#5 0#3)
        (fun v => { streams := .gb, ok := hintOk false 0#3 && sSrcOk v true 0x82#8 && sDstOk v true x.1, lats := [0x82#8] })
        (fun v => pushOf x.1 == x.2 && (match fetchOps ready v [(0x82#8, 0), (sField v 1#5, 0)] (pushOf x.1) noDies with
          | .ok (t, w, fts) => !counterFull ready v.p .lc && reaches t w (baseOf w 1#5 + pathVal w fts 0) 8 .read (fun t₁ l =>
              match readFor t₁ w l 8 false true with
              | (t₂, .ok (.ok (bs, _))) =>
                match x.2 with
                | none => true
                | some c => match (newOp t₂ w .lc .none).2.block? w.p.blk with
                  | some b => (pushChan b.chans c (.sc (BitVec.ofNat 64 (leNat bs)))).isSome
                  | none => false
              | _ => false)
          | .error _ => false))) &&
    meets ready (.opSst false 0x85#8 0x82#8 1#5 0#3)
      (fun v => { streams := .gb, ok := hintOk true 0#3 && sSrcOk v true 0x82#8 && sSrcOk v true 0x85#8, lats := [0x82#8, 0x85#8] })
      (fun v => match fetchFirst ready v [(0x82#8, 0), (sField v 1#5, 0)] [(0x85#8, 0)] none noDies with
        | .ok (t, w, fts) => !counterFull ready v.p .sc && !lastPoison ready v fts && reaches t w (baseOf w 1#5 + pathVal w fts 0) 8 .write (fun t₁ l =>
            match newOp t₁ w .sc .none with
            | (id, u) => match storeMem u w id 0 (baseOf w 1#5 + pathVal w fts 0) l (leBytes 8 (pathVal w fts 2).toNat) 0 with
              | (_, .wrote _ _) => true
              | _ => false)
        | .error _ => false)) = true := by decide +kernel

/-- The last row of the window, and its last segment. -/
theorem witness_AccumulatorWordsComplete :
    let s := grp (fun g => { g with path0 := { g.path0 with win := (2, 8) } }) (withS [(3, 7), (4, 3)] (withMode mI32 base))
    ([true, false].all (fun data =>
      meets s (if data then .opStacc false 6#8 0x83#8 0x84#8 else .opLdacc false 6#8 0x83#8 0x84#8)
        (fun v => { streams := .g, lats := [0x83#8, 0x84#8],
                    ok := vregsOk v 1 6#8 && sSrcOk v false 0x83#8 && sSrcOk v false 0x84#8 && segOk v 0x84#8 && (v.ty == .f32 || v.ty == .i32 || v.ty == .u32) })
        (fun v => match fetchOps s v ([(0x83#8, 0), (0x84#8, 0)] ++ (if data then [(6#8, 1)] else [])) none
            (fun v fts => diesOf s v v.active fts ([(0x83#8, 0), (0x84#8, 0)] ++ (if data then [(6#8, 1)] else []))) with
          | .ok (t, w, fts) => (pathVal w fts 0).toNat == 7 && (pathVal w fts 1).toNat == 3 && decide (w.path.win.1 ≤ 7) &&
              decide (7 < w.path.win.2) && w.b.mops.all (fun o => !o.targets 7) &&
              (if data then !itemHeld t w.p.blk (.acc w.p.blk 0)
               else laneList.all (fun l => !inMask w.active l || !t.poisoned (.acc w.p.blk (7 * 128 + 96 + l))))
          | .error _ => false))) = true := by decide +kernel

theorem witness_PrefetchCompletes :
    meets ready (.opPref false 1#8 1#5 0#3)
      (fun v => { streams := .g, feat := laneFeat v, ok := hintOk false 0#3 && byteTy v && offsetOk v 1#8, lats := [1#8] })
      (fun v => match fetchChans [1#8] v.b.chans [] with | .ok _ => true | .error _ => false) = true := by decide +kernel

/-- One query, one write and one exchange by tag of a block whose CREG is valid. -/
theorem witness_TagWordsComplete :
    let s := blk (fun b => { b with creg := BitVec.ofNat 128 (1 + 0x100000 * 2 ^ 64) }) (withP 2 1#32 ready)
    (([(0, .opTagq false 6#8 4#8), (1, .opTagw false 8#8 4#8), (2, .opTagx false 8#8 4#8)] : List (Nat × Instr)).all (fun x =>
      let d := if x.1 == 0 then 6#8 else 8#8
      meets s x.2
        (fun v => { streams := .g, ok := (if x.1 = 0 then laneDstOk v 1 d else vregsOk v 4 d) && (isS 4#8 || vregsOk v 2 4#8) && v.b.creg.getLsbD 0 })
        (fun v => match fetchOps s v [(4#8, 2)] (if x.1 = 0 then pushOf d else none) (fun v fts => diesOf s v v.active fts [(4#8, 2)]) with
          | .ok (t, w, _) => (x.1 == 0 || (tagHeld t w 4#8).isEmpty) &&
              (match tagLanes w x.1 4#8 t (laneList.filter (inMask w.active)) with
               | (u, res) => res.all (fun y => (tagGot res y.1).map (fun q => TagOut.got q.1 q.2) == some y.2) && u.cur.isSome &&
                  (match u.view w.p with | some w' => room w' d | none => false))
          | .error _ => false))) = true := by decide +kernel

/-! ### Waits, counters, locks and barriers -/

theorem witness_MemoryWaitsComplete :
    (meets drained (.opFence false 5#3) (fun _ => { streams := .gb, ok := decide (5 ≤ 5) })
        (fun v => (takeDeferred drained v (fun _ => true)).isNone && (fenceWait drained v 5).isNone) &&
      meets ready (.opWaitc false 1#2 0xE0#8) (fun v => { streams := .g, ok := sSrcOk v false 0xE0#8, lats := [0xE0#8] })
        (fun v => given ready v [0xE0#8] (fun _ w x => decide ((x 0).toNat ≤ 1023) &&
          (takeDeferred ready v (fun d => d.cls == clsOf 1#2)).isNone && decide (countOps w.g.ops (clsOf 1#2) ≤ (x 0).toNat))) &&
      meets ready (.opWaitg false) (fun _ => { streams := .g }) (fun v => (takeDeferred ready v (fun _ => true)).isNone &&
        countOps v.g.ops .sc == 0 && countOps v.g.ops .ac == 0 && decide (v.g.gwmax < ready.ft))) = true := by decide +kernel

/-- An 8-byte word at 1 MiB that holds 9. -/
def counting : State := withMem 0x100000 (leBytes 8 9) ready

/-- A word that meets its condition (9 ≥ 5, unsigned), and one that a monitor has found. -/
theorem witness_MonitorWaitCompletes :
    ((([false, true]).all (fun hit =>
      let s₀ := withMode mU64 (withS [(6, 5)] counting)
      let s := if hit then s₀.modMem (fun m => { m with monitors := [found] }) else s₀
      meets s (.opMwait false 0x86#8 0x81#8 5#4)
        (fun v => { streams := .gb, ok := mwaitCond 5 && casTy v.ty && sRegOk v 0x86#8 && sRegOk v 0x81#8 })
        (fun v => v.b.pair.isNone && (match fetchFirst s v [(0x81#8, 0)] [(0x86#8, 0)] none noDies with
        | .error _ => false
        | .ok (_, w, fts) => !lastPoison s v fts && reaches s w (pathVal w fts 0) (tyBytes w.ty) .read (fun t₁ l =>
          l.typ == 0 && region t₁ l.pa != .host && (match lineReady t₁ (w.cause t₁) l.pa (tyBytes w.ty) l.typ .read with
          | (t₂, .go) => match t₂.mem.monitors.find? (fun q => q.party == w.p) with
            | some q => hit && q.hit.isSome
            | none => !hit && !physPoison t₂ l.pa (tyBytes w.ty) &&
              ({ party := w.p, born := 0, loc := .mem (l.pa / 8), va := pathVal w fts 0, pa := l.pa, width := tyBytes w.ty, cond := 5, signed := tySigned w.ty,
                 v := pathVal w fts 1, counter := false, hit := none, far := none } : Monitor).holds (leNat (ownRead t₂ l.pa (tyBytes w.ty)))
          | _ => false))))))) = true := by decide +kernel

/-- A counter of the scratchpad at 0x40 and one of global memory; the one waited for has reached 9. -/
theorem witness_CompletionCounterWordsComplete :
    let s := blk (fun b => { b with scratch := [(0x40, 9)] }) (withS [(5, 0x41), (6, 3)] counting)
    (meets s (.opCnta false 0x85#8 0x86#8) (fun v => pathNeed v [0x85#8, 0x86#8]) (fun v => given s v [0x85#8, 0x86#8] (fun t w x =>
        (x 0).toNat / 2 % 4 == 0 && (match ctrRef (x 0) with | .inr o => o == 0x40 && decide (o < v.b.decl.scratch) | _ => false) &&
        !counterFull s w.p .sc && !ownBarred s w.b (0x40 / 128) && v.b.pair.isNone &&
        (match newOp t w .sc .none with
         | (_, u) => match syncScr u w.p.blk 0x40 true (.cnta (x 1)) (fun _ => []) with | (_, .value ..) => true | _ => false))) &&
      meets s (.opCnta false 0x81#8 0x86#8) (fun v => pathNeed v [0x81#8, 0x86#8]) (fun v => v.b.pair.isNone && given s v [0x81#8, 0x86#8]
        (fun t w x => (x 0).toNat / 2 % 4 == 0 && !counterFull s w.p .sc && (match ctrRef (x 0) with
          | .inl va => va.toNat % 8 == 0 && (match memTgtRw t w va with
            | (t₁, .goes (.mem l _)) => l.typ != 1 && (match newOp t₁ w .sc .none with
              | (id, u) => match syncLine u w id .none (fun _ => []) 0 l.pa l.typ [{ lane := 0, pa := l.pa, va := va, op := .cnta (x 1) }] with
                | (_, [(0, .value ..)]) => true
                | _ => false)
            | _ => false)
          | _ => false))) &&
      meets s (.opCntw false 0x85#8 0x86#8) (fun v => pathNeed v [0x85#8, 0x86#8]) (fun v => v.b.pair.isNone && given s v [0x85#8, 0x86#8] (fun t w x =>
        (x 0).toNat / 2 % 4 == 0 && (match ctrRef (x 0) with | .inr o => o == 0x40 | _ => false) &&
        (t.mem.monitors.find? (fun q => q.party == w.p)).isNone && !scratchPoison t w.p.blk 0x40 8 &&
        decide (leNat (scratchRead t w.p.blk 0x40 8) % 2 ^ 63 ≥ (x 1).toNat % 2 ^ 63))) &&
      meets s (.opCntw false 0x81#8 0x86#8) (fun v => pathNeed v [0x81#8, 0x86#8]) (fun v => v.b.pair.isNone && given s v [0x81#8, 0x86#8]
        (fun t w x => (x 0).toNat / 2 % 4 == 0 && (match ctrRef (x 0) with
          | .inl va => reaches t w va 8 .read (fun t₁ l => l.typ != 1 && match lineReady t₁ (w.cause t₁) l.pa 8 l.typ .read with
            | (t₂, .go) => (t₂.mem.monitors.find? (fun q => q.party == w.p)).isNone && !physPoison t₂ l.pa 8 &&
                decide (leNat (ownRead t₂ l.pa 8) % 2 ^ 63 ≥ (x 1).toNat % 2 ^ 63)
            | _ => false)
          | _ => false)))) = true := by decide +kernel

/-- Lock 63, the highest of the context: granted; and written back. -/
theorem witness_LockWordsComplete :
    let held (a : Option Who) (g : Option Nat) : State := blk (fun b => { b with locks :=
      [{ num := 63, off := 0x800, ranges := [(0x100000, 1)], marked := [], asker := a, giver := none, word := 0x6A858600#32, rel := g }] }) (withS [(5, 63), (6, 0x800)] ready)
    let s := held (some (.path 0 false)) none
    let r := held none (some 99)
    (meets s (.opLock false 0x85#8 0x86#8) (fun v => pathNeed v [0x85#8, 0x86#8] true (some 9)) (fun v => v.b.pair.isNone &&
        given s v [0x85#8, 0x86#8] (fun _ _ x => (match ctxOf s v.b with | some c => decide ((x 0).toNat < c.desc.lklim) | none => false) &&
          (match v.b.locks.find? (fun h => h.num == (x 0).toNat) with | some h => h.asker == some v.p.who | none => false))) &&
      meets r (.opUnlk false 0x85#8) (fun v => pathNeed v [0x85#8] true (some 9)) (fun v => v.b.pair.isNone &&
        given r v [0x85#8] (fun _ _ x => (match ctxOf r v.b with | some c => decide ((x 0).toNat < c.desc.lklim) | none => false) &&
          (match v.b.locks.find? (fun h => h.num == (x 0).toNat && h.asker.isNone) with
           | some h => (match h.rel with | some g => decide (g < r.ft) | none => false)
           | none => false)))) = true := by decide +kernel

/-- Barrier 15, expected 2: an arrival; one passed by BARS and by BARW; a grid barrier passed. -/
theorem witness_BarrierWordsComplete :
    let bar (ph : Bool) : State := pth (fun p => { p with ctl := { p.ctl with pend := 0x8000, arrived := some 15 } })
      (blk (fun b => { b with bars := b.bars.set 15 { (b.bars.getD 15 { exp := 0, arr := 0, phase := false, users := 0, standing := 0, counted := 0 }) with
        exp := 2, phase := ph } }) ready)
    let s := pth (fun p => { p with ctl := { p.ctl with arrived := none } }) (bar false)
    let p := bar true
    let h := onBell (bel (fun b => { b with hbar := some 3 }) ready)
    (meets s (.opBara false 0xEF#8 0xE2#8) (fun v => barNeed v [0xEF#8, 0xE2#8]) (fun v => v.b.pair.isNone &&
        given s v [0xEF#8, 0xE2#8] (fun t w x => barLimits v (x 0).toNat (x 1).toNat && (barArrive t w (x 0).toNat (x 1).toNat).isSome)) &&
      meets p (.opBars false 0xEF#8 0xE2#8) (fun v => barNeed v [0xEF#8, 0xE2#8]) (fun v => v.ctl.arrived == some 15 && barPassed p v.p 15) &&
      meets p (.opBarw false 0xEF#8) (fun v => barNeed v [0xEF#8]) (fun v => given p v [0xEF#8] (fun t w x =>
        (w.b.bars[(x 0).toNat]?).isSome && bitOf v.ctl.pend (x 0).toNat && barPassed t v.p (x 0).toNat)) &&
      meets h (.opHbar false 4#3) (fun _ => { streams := .b, ok := decide (4 ≤ 4) }) (fun v => (takeEngine h v).isNone &&
        v.b.bell.hbar == some 3 && ((h.grids[v.b.grid]?).map Grid.phase).getD 0 != 3)) = true := by decide +kernel

/-- Entry 0 of the table at 0xA0000: free, and live with generation 1, expected 2, one arrival, phase 5. -/
theorem witness_BarrierObjectWordsComplete :
    let live : BarObj := { gen := 1, arrived := 1, expected := 2, phase := 5 }
    let f := withS [(5, 1048575)] ready
    let s := withMem 0xA0000 (leBytes 8 (objNat live)) (withS [(5, 0x100000), (6, 4)] ready)
    let entry (t : State) (w : View) (h : W64) (k : BarObj → Bool) : Bool := decide (h.toNat % 2 ^ 20 < objMax) &&
      (match objRead t w (h.toNat % 2 ^ 20) with
       | .ok (_, _, o) => h.toNat / 2 ^ 20 % 2 ^ 12 != 0 && o.gen == h.toNat / 2 ^ 20 % 2 ^ 12 && o.expected != 0 && k o
       | .error _ => false)
    (meets f (.opBnew false 0x87#8 0x85#8) (fun v => pathNeed v [0x85#8] (sRegOk v 0x87#8)) (fun v => v.b.pair.isNone &&
        given f v [0x85#8] (fun t w x => decide (1 ≤ (x 0).toNat) && decide ((x 0).toNat ≤ 1048575) &&
          (match objFree w objMax 0 t with | .ok (_, some _) => true | _ => false))) &&
      meets s (.opBdel false 0x85#8) (fun v => pathNeed v [0x85#8]) (fun v => v.b.pair.isNone && given s v [0x85#8]
        (fun t w x => entry t w (x 0) (fun _ => true))) &&
      meets s (.opBoa false 0x87#8 0x85#8) (fun v => pathNeed v [0x85#8] (sRegOk v 0x87#8)) (fun v => v.b.pair.isNone && given s v [0x85#8]
        (fun t w x => entry t w (x 0) (fun o => o.arrived + 1 == o.expected))) &&
      meets s (.opBow false 0x85#8 0x86#8) (fun v => pathNeed v [0x85#8, 0x86#8]) (fun v => v.b.pair.isNone && given s v [0x85#8, 0x86#8]
        (fun t w x => entry t w (x 0) (fun o => o.phase != (x 1).toNat % 4096)))) = true := by decide +kernel

/-- Two lanes post records of 8 bytes from scratchpad offset 0x1000 to node 5; no node is registered, and a node is. -/
theorem witness_PostCompletes :
    (([false, true]).all (fun reg =>
      let s₀ := withS [(5, BitVec.ofNat 64 (0x1000 * 2 ^ 16 + 5))] ready
      let s := if reg then s₀.modFe (fun f => { f with nodes := [node5] }) else s₀
      meets s (.opPost false 0xB2#8 4#8 0x85#8)
        (fun v => { streams := .g, feat := some 8, ok := isPred 0xB2#8 && (isS 4#8 || vregsOk v 2 4#8) && sSrcOk v false 0x85#8, lats := [0x85#8] })
        (fun v => v.b.pair.isNone && (match fetchLanes s v [(0x85#8, 0), (4#8, 2)], ctxOf s v.b with
          | .ok (t, w, fts), some c =>
            let desc := (pathVal w fts 0).toNat
            let nd := s.fe.nodes.find? (fun n => n.ctx == v.b.ctx && n.index == desc % 4096)
            let size := match nd with | some n => n.decl.recSize | none => 4
            desc / 2 ^ 40 == 0 && desc / 2 ^ 12 % 16 == 0 && desc / 2 ^ 16 % 2 ^ 24 % 4 == 0 && nd.isSome == reg &&
            laneList.all (fun l => !inMask w.active l || decide (desc / 2 ^ 16 % 2 ^ 24 + l * size + size ≤ v.b.decl.scratch)) &&
            fenceReady s v 3 &&
            (match postLanes w c (desc % 4096) size (desc / 2 ^ 16 % 2 ^ 24) nd.isSome (tagAddr w 4#8) (laneList.filter (inMask w.active)) t with
             | (u, _, dead, _) => dead == 0 && u.cur.isSome)
          | _, _ => false)))) = true := by decide +kernel

/-! ### The branch row, the matrix commands, the copies and exceptions -/

theorem witness_BranchesAndCallsComplete :
    let c := withP 1 0 (withS [(5, 0x10008)] code)
    let n (v : View) : Need := { streams := .gb, ok := condOk v 1#4 }
    let y (v : View) : Need := { streams := .gb, ok := condOk v 0#4 }
    let r := pth (fun p => { p with ctl := { p.ctl with ret := [0x1000C] } }) c
    (meets c (.opBra 1#4 2#20) n (fun v => uniform v 1#4 == some false) &&
      meets c (.opBra 0#4 2#20) y (fun v => uniform v 0#4 == some true && runsAt c v.b (v.ctl.pc + ((2#20).signExtend 64) * 4)) &&
      meets c (.opBrx 0x85#8) (fun v => { streams := .gb, ok := sRegOk v 0x85#8 }) (fun v => given c v [0x85#8] (fun t w x =>
        (x 0).toNat % 4 == 0 && runsAt t w.b (x 0))) &&
      meets c (.opCall 1#4 2#20) n (fun v => uniform v 1#4 == some false) &&
      meets c (.opCall 0#4 2#20) y (fun v => uniform v 0#4 == some true && (match isRunStart c v.b (v.ctl.pc + ((2#20).signExtend 64) * 4) with
        | (t, .ok true) => (match pushRet t v (v.ctl.pc + 4) with | .ok _ => true | .error _ => false)
        | _ => false)) &&
      meets c (.opRet 1#4) n (fun v => uniform v 1#4 == some false) &&
      meets r (.opRet 0#4) y (fun v => uniform v 0#4 == some true && (match popRet r v with
        | .ok (t, _, a) => (match isRunStart t v.b a with
          | (u, .ok true) => (match popRet u v with | .ok _ => true | .error _ => false)
          | _ => false)
        | .error _ => false))) = true := by decide +kernel

/-- No lane stays; none is taken; a top-level split; a nested one. -/
theorem witness_DivergentBranchCompletes :
    let m : W32 := 0x80000001
    ([(0, m, false), (1, 0, false), (2, 1, false), (2, 1, true)] : List (Nat × W32 × Bool)).all (fun x =>
      let s := grp (fun g => { g with split := x.2.2, join := 0x1000C }) (withP 2 x.2.1 (withP 1 x.2.1 code))
      meets s (.opBrd (BitVec.ofNat 4 x.1) 2#10 3#10) (fun _ => { streams := .g, ok := (2#10 : BitVec 10) != 0 && (3#10 : BitVec 10) != 0 })
        (fun v =>
          let tk := v.live &&& v.g.pred x.1
          let n := v.path.mask &&& ~~~tk
          v.path.mask == m && tk == x.2.1 && v.g.split == x.2.2 &&
          (match isRunStart s v.b (v.ctl.pc + ((2#10).signExtend 64) * 4) with
           | (s₁, .ok true) => match isRunStart s₁ v.b (v.ctl.pc + ((3#10 : BitVec 10).setWidth 64) * 4) with
             | (s₂, .ok true) =>
               if n == 0 || tk == 0 then true
               else if v.g.split then
                 (match pushDiv s₂ v { start := v.ctl.pc + 8, join := v.ctl.pc + 12, waitMask := tk, parent := m } with
                  | .ok _ => true
                  | .error _ => false)
               else (match copyRetSpill s₂ v v.ctl.retSpill with | .ok _ => true | .error _ => false)
             | _ => false
           | _ => false))) = true := by decide +kernel

/-- A dispatch table of one bucket, 0 to 5, at 1 MiB. -/
theorem witness_DispatchAndEndWordsComplete :
    let s := withW [(5, 0x100000)] (onBell (near 1 (withMem 0x100000 (leBytes 4 1 ++ leBytes 4 1 ++ leBytes 8 0 ++ leBytes 8 5 ++ leBytes 8 0x10000) code)))
    (meets s (.opDisp 5#8) (fun v => { streams := .b, ok := sRegOk v 5#8 }) (fun v => given s v [5#8] (fun t w x =>
        (x 0).toNat % 8 == 0 && (match dispRead t w (x 0).toNat 8 with
        | .ok (t₁, hd) => leNat (hd.take 4) == 1 && leNat (hd.drop 4) == 1 && (match dispRead t₁ w ((x 0).toNat + 8) 24 with
          | .ok (t₂, bs) => (match dispFind w.b.bell 1 1 bs with
            | some (_, _, entry) => runsAt (fillTake t₂ w.b.core (.party w.p)) w.b entry
            | none => false)
          | .error _ => false)
        | .error _ => false))) &&
      meets s .opExit (fun _ => { streams := .gb, guarded := false }) (fun v => v.isBell && v.b.engFault.isNone) &&
      meets code .opExit (fun _ => { streams := .gb, guarded := false }) (fun v => !v.isBell && !v.g.split && v.path.div.isEmpty &&
        v.path.divSpill == 0) &&
      meets code .opDone (fun _ => { streams := .g }) (fun _ => true)) = true := by decide +kernel

/-- The fields of a matrix descriptor in w8 to w11. -/
def matrix (d0 cs m d2 d3 : Nat) : State :=
  blk (fun b => { b with pendFmt := b.pendFmt.set 0 (some 12) })
    (withW [(8, BitVec.ofNat 64 d0), (9, BitVec.ofNat 64 (cs + m * 2 ^ 32)), (10, BitVec.ofNat 64 d2), (11, BitVec.ofNat 64 d3)] (onBell ready))

/-- A WLD in FP8 and in MXFP8-like blocks; an MSTR of the last 8 rows; a convert, a Herd-add and a scratchpad drain; an MCLR of all rows. -/
theorem witness_MatrixCommandsJoin :
    let src (s : State) (v : View) (k : View → (Nat → Nat → Nat → Nat) → Bool) : Bool :=
      given s v (descRegs 8#8) (fun _ w d => v.b.engFault.isNone && decide (w.b.mops.length < 32) && k w (fun i lo n => bitsOf (d i) lo n))
    (((([(12, 384, 0, 0), (14, 512, 32, 0x200000)]) : List (Nat × Nat × Nat × Nat)).all (fun x =>
      let s := matrix 0x100000 x.2.1 x.2.2.1 x.1 x.2.2.2
      meets s (.opWld false 8#8 1#1) (fun v => { streams := .b, feat := matFeat (bitsOf (v.sreg 10) 0 4), ok := descBase 8#8 })
        (fun v => src s v (fun _ d => d 2 4 60 == 0 && weightFmt (d 2 0 4) && decide (384 ≤ d 1 0 32) && d 0 0 64 % 128 == 0 &&
          d 1 0 32 % 128 == 0 && (!blockFmt (d 2 0 4) || (d 1 32 32 % 16 == 0 && d 3 0 64 % 16 == 0)))))) &&
    (let s := matrix 0x100000 384 8 12 (120 + 2 ^ 16);
      meets s (.opMstr false 8#8 0#1) (fun v => { streams := .b, feat := matFeat (bitsOf (v.sreg 10) 0 4), ok := descBase 8#8 })
        (fun v => src s v (fun w d => d 1 48 16 == 0 && d 3 15 1 == 0 && d 3 17 47 == 0 && decide (1 ≤ d 1 32 16) && decide (d 1 32 16 ≤ 16384) &&
          (match w.b.pendFmt.toList.getD 0 none with | some wf => (pairing wf (d 2 0 4)).isSome | none => false) &&
          decide (d 3 0 15 + d 1 32 16 ≤ w.b.decl.acc) && d 0 0 64 % 128 == 0 && d 1 0 32 % 128 == 0 && (freeSlot w.b).isSome))) &&
    (([(0, 0x100000, 512, 12), (1, 0x100000, 512, 0), (2, 0x100000, 512, 0), (0, 0x2000, 512, 0)] : List (Nat × Nat × Nat × Nat)).zipIdx.all (fun x =>
      let scr := x.2 == 3
      let s := matrix x.1.2.1 x.1.2.2.1 8 (x.1.2.2.2 + x.1.1 * 2 ^ 8 + (if scr then 2 ^ 10 else 0) + 5 * 2 ^ 11) 120
      meets s (.opMdrn false 8#8) (fun v => { streams := .b, feat := if bitsOf (v.sreg 10) 8 2 == 2 then some 5 else none, ok := descBase 8#8 })
        (fun v => src s v (fun w d => d 2 8 2 == x.1.1 && (d 2 10 1 == 1) == scr && d 1 48 16 == 0 && d 2 7 1 == 0 && d 2 14 50 == 0 &&
          d 3 15 49 == 0 && decide (1 ≤ d 1 32 16) && decide (d 1 32 16 ≤ 16384) && [0, 1, 2, 4, 12, 13].contains (d 2 0 4) &&
          (x.1.1 == 0 || d 2 0 4 == 0) && (x.1.1 != 2 || (v.b.pair.isNone && w.b.pair.isNone)) && (!scr || d 0 24 40 == 0) &&
          decide (d 2 11 3 < 6) && decide (128 * drainSize (d 2 0 4) ≤ d 1 0 32) && decide (d 3 0 15 + d 1 32 16 ≤ w.b.decl.acc) &&
          d 0 0 64 % 128 == 0 && d 1 0 32 % 128 == 0 && (x.1.1 != 1 || (d 0 0 64 % 4096 == 0 && d 1 0 32 == 512 && d 1 32 16 % 8 == 0)) &&
          (!scr || decide (d 0 0 64 + (d 1 32 16 - 1) * d 1 0 32 + 128 * drainSize (d 2 0 4) ≤ w.b.decl.scratch)) && (freeSlot w.b).isSome)))) &&
    (let s := withW [(5, 0), (6, 128)] (onBell ready);
      meets s (.opMclr false 5#8 6#8) (fun _ => { streams := .b, ok := matSrcOk 5#8 && matSrcOk 6#8 }) (fun v => given s v [5#8, 6#8]
        (fun _ w x => v.b.engFault.isNone && decide (w.b.mops.length < 32) && x 1 != 0 && decide ((x 0).toNat + (x 1).toNat ≤ w.b.decl.acc))))) =
      true := by decide +kernel

/-- The window of the last group and to the last row; a batch of a complete operation that has retired. -/
theorem witness_MatrixControlWordsComplete :
    let s := withW [(5, 0), (6, 120), (7, 128)] (onBell ready)
    let r := withW [(5, 1)] (bel (fun b => { b with mbatch := 2 }) (blk (fun b => { b with retired := 2 }) (onBell ready)))
    (meets s (.opMwin false 5#8 6#8 7#8) (fun _ => { streams := .b, ok := matSrcOk 5#8 && matSrcOk 6#8 && matSrcOk 7#8 })
        (fun v => v.b.engFault.isNone && given s v [5#8, 6#8, 7#8] (fun _ w x => decide ((x 0).toNat < w.b.groups.length) &&
          decide ((x 1).toNat ≤ (x 2).toNat) && decide ((x 2).toNat ≤ w.b.decl.acc))) &&
      meets s (.opMfence false 63#8) (fun _ => { streams := .b, ok := decide ((63#8).toNat < 64) })
        (fun v => v.b.engFault.isNone && given s v [] (fun _ _ _ => true)) &&
      meets r (.opMwaitb false 5#8) (fun _ => { streams := .b, ok := matSrcOk 5#8 }) (fun v => v.b.engFault.isNone &&
        given r v [5#8] (fun _ w x => bitsOf (x 0) 32 32 == 0 && lo32 (x 0) != 0 && decide (2 ^ 31 ≤ batchDist w.b.bell.mbatch (lo32 (x 0))) &&
          batchDone w.b (lo32 (x 0))))) = true := by decide +kernel

/-- From 1 MiB into the block's scratchpad at 0x1000: of 2 lines, of a shape of 2 rows, of a full entry. -/
theorem witness_CopyWordsPublish :
    let dst := 0x1000 + 16
    ([(0, .opCpy false 8#8 12#8, 2), (1, .opCpy2d false 8#8 12#8, 2 * 2 ^ 24 + 1 * 2 ^ 12), (2, .opCpyw false 8#8, 2 * 2 ^ 24 + 1)] :
        List (Nat × Instr × Nat)).all (fun x =>
      let s := withW [(8, 0x100000), (9, BitVec.ofNat 64 dst), (10, 0), (11, BitVec.ofNat 64 x.2.2), (12, BitVec.ofNat 64 x.2.2)] (onBell ready)
      let k := x.1
      meets s x.2.1 (fun v => { streams := .ba, ok := cpyBase v 8#8 && (if k = 2 then true else sSrcOk v false 12#8), lats := if k = 2 then [] else [12#8] })
        (fun v => fetches s v (if k = 2 then [(8#8 + 0, 0), (8#8 + 1, 0), (8#8 + 2, 0), (8#8 + 3, 0)] else [(8#8 + 0, 0), (8#8 + 1, 0), (8#8 + 2, 0), (12#8, 0)])
          none noDies (fun t w fts =>
            (match (if k = 0 then (cpyShape (pathVal w fts 3).toNat).map (fun w3 =>
                ({ w0 := (pathVal w fts 0).toNat % 2 ^ 57, w1 := (pathVal w fts 1).toNat, w2 := (pathVal w fts 2).toNat, w3 := w3 } : CopyEntry))
              else if (pathVal w fts 3).toNat / 2 ^ 40 ≠ 0 ∨ (k = 2 ∧ (pathVal w fts 0).toNat / 2 ^ 57 ≠ 0) then none
              else some { w0 := (pathVal w fts 0).toNat % 2 ^ 57, w1 := (pathVal w fts 1).toNat, w2 := (pathVal w fts 2).toNat,
                          w3 := (pathVal w fts 3).toNat }) with
             | some en => !en.bad w.b
             | none => false) &&
            w.b.tail == w.b.resv && ringFree w.b != 0 && !counterFull s v.p .cc &&
            !ownBarred t w.b (32 * (w.b.resv.toNat % 64) / 128) && !itemHeld t w.p.blk (.scratch w.p.blk (32 * (w.b.resv.toNat % 64) / 128))))) = true := by decide +kernel

theorem witness_ExceptionWordsComplete :
    let t := grp (fun g => { g with tbase := 0x14000 }) code
    let b := bel (fun b => { b with ctl := { b.ctl with handler := true } }) (onBell code)
    let tn (_ : View) : Need := { streams := .gb }
    let rn (_ : View) : Need := { streams := .gb, guarded := false }
    (meets t (.opTrap false 0xFFFF#16) tn (fun v => v.traps) && meets code (.opTrap false 0xFFFF#16) tn (fun v => !v.traps) &&
      meets b (.opRte false) rn (fun v => v.ctl.handler && v.isBell) &&
      meets (inHandler 5) (.opRte false) rn (fun v => v.ctl.handler && !v.isBell && (rteTo v).2) &&
      meets (inHandler 0) (.opRte false) rn (fun v => v.ctl.handler && !v.isBell && !(rteTo v).2 && runsAt (inHandler 0) v.b (rteTo v).1) &&
      (match base.cur.bind base.view with
       | some v => streamOk v ((opStreams 0#32).getD .gb) && opStreams 0#32 == none
       | none => false)) = true := by decide +kernel

/-! ### Decoding, steps, traps and frames -/

theorem witness_DecodeOfEncode : (Instr.opAdd true 1#8 2#8 3#8).wellFormed = true ∧ (Instr.opAdd true 1#8 2#8 3#8).isEvent = false := by
  decide

/-- NOP at the PC of the party that holds the issue. -/
theorem witness_StepRunsTheDecodedWord :
    (match base.cur.bind base.view with
     | some v =>
       let s' := { base with ft := base.ft + 1, engineTurn := true }
       !base.engineTurn && blockRuns s' v.b && !v.ctl.ended &&
         (match fetchWord s' v with
          | .ok (u, w) => w == 0x01000000 && (holdWord u v (decode w) w).2.isNone && (awaited v (decode w)).isNone && v.g.deferred.isEmpty &&
              !w.getLsbD 31 && decode w == .opNop false
          | .error _ => false) &&
         v.ctl.pc.toNat % 4 == 0 && (match xlateOne base v v.ctl.pc .fetch with
          | .ok (u, l) => (match lineReady u (v.cause u) l.pa 4 l.typ .read with | (r, .go) => !physPoison r l.pa 4 | _ => false)
          | .error _ => false)
     | none => false) = true := by decide +kernel

/-- A device with a stimulus waiting. -/
theorem witness_EveryStepGoesOn : ({ State.reset with inbox := [.evPowerLimit true] } : State).stimuliOk := by
  intro i hi
  cases List.mem_singleton.1 hi
  decide

theorem witness_StepKeepsMemories :
    (Memory.wf base.mem.cells && base.blocks.all (fun b => Memory.wf b.scratch) && base.snaps.isEmpty &&
      (match step base with | .next _ => true | _ => false)) = true := by decide +kernel

/-- A path and a bellwether with a handler's address, outside a handler; a path in a handler, and a source that names a latch. -/
theorem witness_TrapEntry :
    let g := grp (fun g => { g with tbase := 0x14000 }) code
    let b := bel (fun b => { b with tbase := 0x14000 }) (onBell code)
    (([g, b].all (fun s => (match s.cur.bind s.view with
       | some v => (v.isBell == decide (s.cur = b.cur)) && !v.ctl.handler && v.traps &&
           (if v.isBell then v.b.bell.tbase != 0 else v.g.tbase != 0)
       | none => false) &&
       meets s (.opTrap false 1#16) (fun _ => { streams := .gb }) (fun v => v.traps))) &&
     (match (inHandler 5).cur.bind (inHandler 5).view with
      | some v => v.path.ctl.handler && !v.isBell && v.ctl.handler && isLatch 0xA1#8 && streamOk v .g && endOk v (encode (.opMov false 1#8 0xA1#8))
      | none => false)) = true := by decide +kernel

theorem witness_FaultWithoutHandlerStops :
    (match base.cur.bind base.view with
     | some v => ((base.ctxs[v.b.ctx]?).map Ctx.state == some .running) && !v.traps
     | none => false) = true := by decide +kernel

/-- A bellwether word in a group; a reserved major; a word at run position 23; both halves with a reserved branch-row word. -/
theorem witness_StreamChecks_RunsEndWithE :
    (match base.cur.bind base.view, (onBell base).cur.bind (onBell base).view with
     | some v, some b =>
       !(Instr.opWld false 0#8 0#1).isEvent &&
       opStreams (encode (.opWld false 0#8 0#1)) == some .b && !streamOk v .b &&
       !(Instr.evReservedEncoding 0x0D000000).isEvent && opStreams (encode (.evReservedEncoding 0x0D000000)) == none &&
       !(0x76000000#32).getLsbD 31 && ((0x76000000#32).extractLsb' 24 7).toNat / 8 == 0xE && earlyOk v (decode 0x76000000) && b.isBell
     | _, _ => false) &&
    (match (pth (fun p => { p with ctl := { p.ctl with runPos := 23 } }) base).cur.bind
        (pth (fun p => { p with ctl := { p.ctl with runPos := 23 } }) base).view with
     | some v => v.ctl.runPos == 23 && earlyOk v (.opNop false) && !(encode (.opNop false)).getLsbD 31 && !(Instr.opNop false).isEvent
     | none => false) = true := by decide +kernel

/-- A lane word and a scalar word of a bellwether that have retired. -/
theorem witness_RegisterWordsFrame :
    ([(code, .opAdd false 6#8 1#8 0xE1#8), (onBell code, .opSadd false 6#8 5#8 0x47#8)] : List (State × Instr)).all (fun x =>
      registerWord x.2 && !(encode x.2).getLsbD 31 && (match x.1.cur.bind x.1.view with
        | some v => (match exec x.2 x.1 with
          | .next t => (match t.view v.p with
            | some u => u.ctl.pc == v.ctl.pc + 4 && u.ctl.handler == v.ctl.handler && u.g.dead == v.g.dead
            | none => false)
          | _ => false)
        | none => false)) = true := by decide +kernel

/-- A handler run of one word, RTE, whose brand the map holds. -/
def rteState (pos : Nat) : State :=
  let s := placeProgram State.reset (encode (.opRte true))
  let s := { s with cur := some { blk := 0, who := .path 0 false } }
  grp (fun g => { g with k := (g.k.set 0 0x10000).set 1 (BitVec.ofNat 64 (pos * 2 ^ 24)) })
    (pth (fun p => { p with ctl := { p.ctl with handler := true, trapPc := 0x10000, inRun := true } }) s)

/-- Back to mid-run and to a run start; from the bellwether; outside a handler; to what is no run start. -/
theorem witness_ReturnFromTrap :
    (([5, 0].all (fun k => match (rteState k).cur.bind (rteState k).view with
      | some v => !v.isBell && v.ctl.handler &&
          (match endOfRun (retirePath (rteState k) v (encode (.opRte true)) .invalid (v.ctl.pc + 4) 0) v id with | (_, r) => r) &&
          v.g.k.toList.getD 0 0 == v.ctl.trapPc && (((v.g.k.toList.getD 1 0).extractLsb' 24 5).toNat == k)
      | none => false)) &&
     (match (onBell code).cur.bind (onBell code).view with | some v => v.isBell | none => false) &&
     meets code (.opRte false) (fun _ => { streams := .gb, guarded := false }) (fun v => !v.ctl.handler) &&
     (let s := grp (fun g => { g with k := g.k.set 0 0x30000 }) (inHandler 0);
      meets s (.opRte false) (fun _ => { streams := .gb, guarded := false }) (fun v => v.ctl.handler && !v.isBell && !(rteTo v).2 &&
        (match (isRunStart s v.b (rteTo v).1).2 with | .ok false => true | _ => false)))) = true := by decide +kernel

/-! ## Witnesses of the events' statements -/

/-- The group's path, and the bellwether. -/
def path0 : Party := { blk := 0, who := .path 0 false }
def bell0 : Party := { blk := 0, who := .bell }
/-- An operation of the group: outstanding load data for s5, or a store performed. -/
def someOp (load : Bool) : OutOp :=
  { id := 7, cls := if load then .lc else .sc, side := none, done := false, g := 3, dst := if load then .sreg 5 else .none,
    pending := if load then [(0, 0, 9)] else [], miss := [], lines := [], posted := false, stopped := false, made := 0, acq := false }
/-- No party holds the issue. -/
def idle : State := { ready with cur := none }

theorem witness_IssueEventsComplete :
    (let l := grp (fun g => { g with ops := [someOp true] }) ready
     let w := grp (fun g => { g with ops := [someOp false] }) ready
     let p := pth (fun p => { p with ctl := { p.ctl with wait := .waitg } }) idle
     idle.cur == none && oldest (slotReady idle 0 0) == some path0 && (idle.view path0).isSome &&
     oldest (bellReady idle 0) == some bell0 &&
     (match findOp l path0 7 with | some o => !o.pending.isEmpty && o.cls == .lc | none => false) &&
     (let e := grp (fun g => { g with ops := [{ someOp true with pending := [] }] }) ready
      match findOp e path0 7 with
      | some o => o.pending.isEmpty && (e.mem.reads.filter (fun r => r.op == 7)).isEmpty && !opFlying e o
      | none => false) &&
     (match findOp w path0 7 with | some o => opPerformed (performOp w path0 o) o | none => false) &&
     (match p.view path0 with | some v => blockRuns p v.b && p.cur != some path0 && waitHolds p v | none => false)) = true := by decide +kernel

/-- A write held at its slice, of global memory or of the host's. -/
def heldReq (pa : Nat) (acks : List Nat) : HeldReq :=
  { party := path0, op := 7, line := pa / 128, lanes := [{ lane := 0, pa := pa, va := 0x100000, op := .rmw 0 5 [1, 0, 0, 0] }],
    dst := .none, words := 0, acks := acks, seq := 0, obj := false, far := none }

theorem witness_SliceEventsComplete :
    (([(0x100000, false), (0x10C000000000, true)] : List (Nat × Bool)).all (fun x =>
       let s := ready.modMem (fun m => { m with held := [heldReq x.1 []] })
       let line := x.1 / 128
       (match heldFirst s line with
        | some h => !h.lanes.isEmpty && syncReady s (line * 128) &&
            (match s.block? h.party.blk with | some b => !pageHeld s (line * 128) 128 (preCut s b.ctx h.op) && h.lanes.all (fun r => !regionBars s b.ctx r.va) | none => false) &&
            (h.lanes.any (isHostAtomic (s.modMem (fun m => { m with held := m.held.erase h }))) == x.2)
        | none => false)) &&
     (ready.modMem (fun m => { m with held := [heldReq 0x100000 [3]] })).mem.held.any (fun h => h.line == 0x2000 && h.acks.contains 3) &&
     (let s := withMem (0x30000 + 64 * 63) (leBytes 8 0x100000 ++ leBytes 4 2)
        (ready.modMem (fun m => { m with locks := [{ die := 0, num := 63, holder := none, queue := [{ party := path0, num := 63, off := 0x800, word := 0x6A858600#32 }] }] }))
      let s := rebindAll s
      (match s.mem.locks.find? (fun l => l.die == 0 && l.num == 63), s.view path0 with
       | some l, some v => l.holder.isNone && (l.queue.map LockReq.party == [path0]) && v.b.pair.isNone && (match ctxOf s v.b with
         | some c => c.state == .running && c.rebind.isEmpty && (match devRead s .front c (lockVa c 63).toNat 64 with
           | (s₁, .ok bs) => lockDescOk bs && (
             let rs := (lockRanges bs).map (fun r => (BitVec.ofNat 64 r.1, r.2))
             let vas := (rs.map (fun r => (List.range r.2).map (fun k => r.1 + BitVec.ofNat 64 (128 * k)))).flatten
             (List.range vas.length).all (fun k => !itemHeld s₁ 0 (.scratch 0 (0x800 / 128 + k))) &&
             decide (0x800 + 128 * vas.length ≤ v.b.decl.scratch) && (lockSoft s₁ v.b vas).isNone &&
             (barredLine s₁ v.b 0x800 vas.length).isNone &&
             (match lockLines v.b v.ctl.outcomes vas s₁ with
              | .ok _ => true
              | .error _ => false))
           | _ => false)
         | none => false)
       | _, _ => false))) = true := by decide +kernel

/-- A matrix operation of number 3 and its kinds. -/
def mop (k : MKind) (prog : Nat) : MOp :=
  { id := 3, seq := 3, kind := k, prog := prog, slot := some 0, batch := some 1, failed := false, entered := false, performed := false, g := 0, lines := [], req := none,
    outcomes := [] }
/-- The block with open matrix operations, idle. -/
def withMops (l : List MOp) : State := blk (fun b => { b with
  mops := l, bankDesc := b.bankDesc.set 0 (some { addr := 0x100000, cstride := 384, sstride := 0, fmt := 12, sptr := 0 }) }) (near 384 idle)
/-- A bank of block 0 in FP8. -/
def bank0 : Bank := { blk := 0, fmt := 12, cols := [], scales := [], poison := false }

theorem witness_ArrayEngineEventsComplete :
    (let w := withMops [mop (.wld false 0x100000 384 0 12 0) 0]
     let m := withMops [mop (.mstr false 0x100000 384 2 12 0 120 true) 1]
     let r := setBank m 0 false bank0
     let d (scr : Bool) := withMops [mop (.mdrn (if scr then 0x2000 else 0x100000) 512 9 0 0 false 0 scr 3 112) 8]
     (match engOp w 0 3 with
      | some (b, o) => wldReady w 0 b o false && (match readTile w 0 3 o.prog b o.outcomes { addr := 0x100000, cstride := 384, sstride := 0, fmt := 12, sptr := 0 } with
        | .ok _ => true
        | .error _ => false)
      | none => false) &&
     (match engOp m 0 3 with
      | some (b, o) => mstrReady m 0 b o false (120 + o.prog) && (bankOf m b.core false).map Bank.blk != some 0 &&
          (match b.bankDesc.toList.getD 0 none with
           | some d => (match readTile m 0 3 o.prog b o.outcomes d with | .ok _ => true | .error _ => false)
           | none => false)
      | none => false) &&
     (let l := blk (fun b => { b with reload := [{ bank := false, req := none, outcomes := [] }] }) m
      match l.block? 0 with
      | some b => blockRuns l b && (match b.reload, b.bankDesc.toList.getD 0 none with
          | [x], some d => x.req.isNone && (match readTile l 0 0 0 b x.outcomes d with | .ok _ => true | .error _ => false)
          | _, _ => false)
      | none => false) &&
     (match engOp r 0 3 with
      | some (b, o) => mstrReady r 0 b o false (120 + o.prog) && !itemHeld r 0 (.acc 0 ((120 + o.prog) / 8)) &&
          (match bankOf r b.core false with
           | some k => k.blk == 0 && !blockFmt 12 &&
               (match engRead r b (some (.mop 0 3, o.prog)) o.outcomes (0x100000 + BitVec.ofNat 64 (o.prog * 384)) (rowBytes k.fmt 12) with | .ok _ => true | .error _ => false)
           | none => false)
      | none => false) &&
     ([true, false].all (fun scr => match engOp (d scr) 0 3 with
      | some (b, o) =>
        let n := min 8 (9 - o.prog)
        let lines := ((List.range n).map (fun k => (rowPieces (drainRow (d scr) b 0 (112 + o.prog + k) 0 0 false).1).map (fun p =>
          (0x100000 + BitVec.ofNat 64 ((o.prog + k) * 512 + p.1), p.2,
            lineElts (drainRow (d scr) b 0 (112 + o.prog + k) 0 0 false).2 p.1 (drainSize 0))))).flatten
        rowsFree b 3 (112 + o.prog) n && (scr || (match drainLeaves b o.outcomes (lines.map Prod.fst) (d scr) with | .ok _ => true | .error _ => false))
      | none => false))) = true := by decide +kernel

theorem witness_BatchAndEngineFaultEventsComplete :
    (let done := withMops [{ mop (.wld false 0 0 0 12 0) 0 with performed := true, g := 9 }]
     let clr := withMops [mop (.mclr 120 8) 0]
     (match idle.block? 0, done.block? 0, clr.block? 0 with
      | some a, some b, some c => a.mops.isEmpty && (match b.mops, c.mops with
        | [o], [q] => !mclrReady done 0 b o && mopPassed done o && mclrReady clr 0 c q
        | _, _ => false)
      | _, _, _ => false) &&
     (engLive clr 0 3).isSome) = true := by decide +kernel

/-- A published ring entry at index 0: 2 lines from 1 MiB into the scratchpad at 0x1000. -/
def copying (done : Bool) : State :=
  blk (fun b => { b with
    scratch := cellsWrite b.scratch 0 (leBytes 8 0x100000 ++ leBytes 8 (0x1000 + 16) ++ leBytes 8 0 ++ leBytes 8 (2 * 2 ^ 24 + 1)), resv := 1, tail := 1
    copies := [{ idx := 0, issuer := none, op := 7, prog := if done then 2 else 1, done := done, status := 0, g := 9, req := none, outcomes := [] }] }) (near 2 idle)

theorem witness_CopyEngineEventsComplete :
    ((match muleEntry (copying false) 0 0, (copying false).view bell0 with
      | some (b, c), some v =>
        let e := ringEntry b 0
        !scratchPoison (copying false) 0 0 32 && !e.bad b && decide (c.prog < e.total) &&
          (match copyTgt (copying false) v c.outcomes e.w0 (e.lineOff (!e.side) c.prog) false with
           | .ok (t, src) => (match copyTgt t v c.outcomes e.w1 (e.lineOff e.side c.prog) true with
             | .ok (t₂, dst) => (match copyRead t₂ v 0 c.prog src with
               | .ok (t₃, bs, bad) => (match copyWrite t₃ v 0 dst bs bad with | .ok _ => true | .error _ => false)
               | .error _ => false)
             | .error _ => false)
           | .error _ => false)
      | _, _ => false) &&
     (match (copying true).block? 0 with
      | some b => (match b.copies with
        | c :: _ => c.done && decide (c.g < (copying true).ft) && c.req.isNone && b.stat == .resident && !itemHeld (copying true) 0 (.scratch 0 0) &&
            (match arrivalMeets (copying true) 0 b (ringEntry b c.idx) with
             | (s₁, true) => (match copyAdd s₁ 0 b c (ringEntry b c.idx) with | .made _ _ => true | _ => false)
             | _ => false)
        | [] => false)
      | none => false)) = true := by decide +kernel

/-- A packet that the sequencer has started in slot 0 of queue 1 of context 0. -/
def packet (body : List Byte) (step : Nat) : Pkt := { slot := 0, len := 1, body := body, step := step, complete := false, seq := 0 }
/-- Its queue. -/
def queue1 (l : List Pkt) : Queue :=
  { ctx := 0, queue := 1, qcb := 0x98000, rbase := 0x99000, rlog2 := 6, prio := 0, state := 1, head := 1, done := 0, tail := 1, started := l, req := none,
    outcomes := [], prog := 0, load := .done }
/-- Its place. -/
def q0 : PktRef := { ctx := 0, queue := 1, slot := 0 }
/-- A kernel descriptor of one group at 0x48000, loaded; `flags` 4 makes it a node's, with records of 8 bytes. -/
def withKernel (flags : Nat) (s : State) : State :=
  withMem 0x48000 (leBytes 8 0 ++ leBytes 4 0 ++ [1, 16, 32, 16] ++ leBytes 2 16 ++ leBytes 2 16 ++ [16, 0] ++ leBytes 2 0 ++ leBytes 2 1 ++
    leBytes 2 flags ++ leBytes 2 8) (s.modFe (fun f => { f with kernels := [{ ctx := 0, addr := 0x48000, text := 0x10000, rodata := 0x11000 }] }))
/-- A packet started, with both kinds of kernel at hand. -/
def queued (flags : Nat) (body : List Byte) (step : Nat) : State :=
  (withKernel flags idle).modFe (fun f => { f with queues := [queue1 [packet body step]] })
/-- The grid changed. -/
def grd (f : Grid → Grid) (s : State) : State := s.modGrid 0 f
/-- Block 0 fills core 0, the only one of its context; its bellwether has ended and its group waits for a monitor; its grid has one more
block. -/
def full : State :=
  let d (x : Decl) : Decl := { x with scratch := 0xC0000 }
  grd (fun g => { g with dimX := 2, spillN := 2, decl := d g.decl }) (ctx (fun c => { c with desc := { c.desc with cores := 1 } })
    (bel (fun b => { b with ctl := { b.ctl with ended := true } }) (pth (fun p => { p with ctl := { p.ctl with wait := .monitor true } })
      (blk (fun b => { b with decl := d b.decl })
        (idle.modMem (fun m => { m with monitors := [{ found with hit := none }] }))))))

theorem witness_GridScheduleEventsComplete :
    ([(false, none), (true, none), (true, some 0)].all (fun (x : Bool × Option Nat) =>
       let h := grd (fun g => { g with arrived := [0], moved := x.1, told := x.2 }) idle
       match h.grids[0]? with
       | some g => allDispatched g && !g.arrived.isEmpty && (gridBlocks h 0).all (fun x => !arrives x.1 || g.arrived.contains x.2) && g.phase == 0
       | none => false) &&
     (let n := grd (fun g => { g with dimX := 2, spillN := 2 }) idle
     let w := blk (fun b => { b with stat := .swapped }) idle
     (match n.ctxs[0]?, n.grids with
      | some c, [g] => c.state == .running && !n.fe.restart && gridOrder n 0 == [(g, 0)] && (dispatchNext n 0 0 c g).isSome
      | _, _ => false) &&
     (match full.ctxs[0]?, full.grids[0]? with
      | some c, some g => c.state == .running && (longestWait full (swapClusters full 0 g)).isSome &&
          !gridMoves full 0 0 c g && gridMoves (swapBlocks full (swapClusters full 0 g).flatten) 0 0 c g
      | _, _ => false) &&
     (match w.block? 0, w.grids[0]?, w.ctxs[0]? with
      | some b, some g, some c => (returnCores w c g b 0).isSome
      | _, _, _ => false))) = true := by decide +kernel

/-- The block finished, with a lock `l`. -/
def finished (l : List HeldLock) : State :=
  blk (fun b => { b with locks := l }) (bel (fun b => { b with ctl := { b.ctl with ended := true } })
    (grp (fun g => { g with retired := true }) idle))
/-- Lock 63, its line marked or written back. -/
def lock63 (rel : Option Nat) : HeldLock :=
  { num := 63, off := 0x800, ranges := [(0x100000, 1)], marked := if rel.isSome then [] else [0], asker := none,
    giver := none, word := 0x6A858600#32, rel := rel }

/-- The finished block as a secondary copy. -/
def secondary : State :=
  let p : Pair :=
    { mate := 0, primary := false, shadow := [], runSum := 0, failed := false, isThird := false, run3 := none, g := 0, points := [], passed := [] }
  blk (fun b => { b with bell := { b.bell with ctl := { b.bell.ctl with cmpOk := true } }, pair := some p }) (finished [lock63 (some 9)])

theorem witness_GridEndEventsComplete :
    ((match secondary.block? 0, secondary.view bell0 with
      | some b, some v => (ctxOf secondary b).any (fun c => c.state == .running) && blockFinished secondary b 0 && pairPassed b && v.isBell &&
          (b.locks.find? (fun h => !h.written)).isNone && !b.locks.isEmpty && b.pair.any (fun p => !p.primary)
      | _, _ => false) &&
     [finished [], finished [lock63 (some 9)], finished [lock63 none]].all (fun s => match s.block? 0, s.view bell0 with
       | some b, some v => (match ctxOf s b with | some c => c.state == .running | none => false) && blockFinished s b 0 && pairPassed b &&
          b.pair.isNone && (match b.locks with
            | [] => true
            | h :: _ => if h.written then decide (h.rel.getD 0 < s.ft)
              else match runBack s v h none 0 with | .ok _ => true | .error _ => false)
       | _, _ => false) &&
     (let s := grd (fun g => { g with pkt := some q0 }) (blk (fun b => { b with stat := .ended }) (finished []))
      match s.grids[0]?, s.ctxs[0]? with
      | some g, some c => !g.complete && g.node.isNone && allDispatched g && gridDrained s 0 && !s.fe.restart && (s.fns[c.fn]?).isSome && !g.graph && g.drain.isNone
      | _, _ => false) &&
     (let s := grd (fun g => { g with pkt := some q0, graph := true, complete := true }) ((blk (fun b => { b with stat := .ended }) (finished [])).modFe
        (fun f => { f with nodes := [node5] }))
      match s.grids[0]? with
      | some g => graphQuiet s g && !s.fe.restart && g.drain.isNone && drainOver s { g with drain := some (99, 1) }
      | none => false)) = true := by decide +kernel

/-- Records of node 5 at die 0's gatherer, and spilled ones. -/
def gather5 (r s : List (Nat × List Byte)) : Gather := { ctx := 0, node := 5, die := 0, recs := r, spilled := s }

theorem witness_NodeEventsComplete :
    (let n := (queued 4 (leBytes 8 3 ++ leBytes 8 0 ++ leBytes 2 5 ++ leBytes 2 20 ++ leBytes 4 0 ++ leBytes 8 0x48000) 0).modFe
        (fun f => { f with nodes := [{ node5 with grid := 1, replace := some (q0, node5.decl) }] })
     let g (r s : List (Nat × List Byte)) := idle.modFe (fun f => { f with nodes := [node5], gathers := [gather5 r s] })
     (match n.fe.nodes.find? (fun n => n.ctx == 0 && n.index == 5), pktOf n q0, n.ctxs[0]? with
      | some m, some _, some _ => m.replace == some (q0, node5.decl) && nodeQuiet n m
      | _, _, _ => false) &&
     (match gatherOf (g [(50, [1, 2, 3, 4])] []) 0 5 0 with | some x => (match x.recs ++ x.spilled with | r :: _ => decide (r.1 + node5.timeout ≤ idle.ft) | [] => false) | none => false) &&
     (let s := g [] [(50, [1, 2, 3, 4])]
      match gatherOf s 0 5 0, s.ctxs[0]? with
      | some x, some c => (match x.spilled with
        | r :: _ => decide ((gatherUsed s 0 0).1 + r.2.length ≤ gatherShare c.desc.cores 0)
        | [] => false)
      | _, _ => false)) = true := by decide +kernel

/-- The body of a packet of type `ty` without a completion record, and its bytes from 16 on. -/
def body (ty : Nat) (bs : List Byte) : List Byte := leBytes 16 ty ++ bs
/-- The packet in slot 0 is there to be taken. -/
def taken (s : State) (ty : Nat) (k : State → Pkt → Ctx → Queue → Bool) : Bool :=
  match takePkt s q0 (· == ty) with
  | (u, some (p, c, x)) => k u p c x
  | _ => false
/-- A context that checkpoints, changed further. -/
def chained (f : Ctx → Ctx) (s : State) : State :=
  ctx (fun c => f { c with desc := { c.desc with chain := 0xC0000, cset := [] } }) s
/-- An increment of a context, with what is left to read. -/
def increment (committed : Bool) (todo : List (Item × Nat)) : Increment :=
  { n := 1, time := 50, prev := 0, featmask := BitVec.ofNat 64 (Config.featmask.toNat % 2 ^ 64), below := 5, blocks := [], late := [], marks := [],
    mons := [], todo := todo, items := [], snatch := [], recalls := [], tables := [], grids := [], queues := [], nodes := [], gathers := [], unlks := [],
    staged := true, closed := true, committed := committed, parts := [], pieces := [] }

/-- NOP; LAUNCH and GRAPH of a 2 by 1 by 1 grid; NODE of a fresh node and of one registered. -/
theorem witness_GridPacketsComplete :
    (let launch := leBytes 8 0x48000 ++ leBytes 4 2 ++ leBytes 2 1 ++ leBytes 2 1 ++ leBytes 4 0 ++ leBytes 4 2 ++ leBytes 8 0xB0000
     let node := leBytes 2 5 ++ leBytes 2 10000 ++ leBytes 4 0 ++ leBytes 8 0x48000
     let again := (queued 4 (body 3 node) 0).modFe (fun f => { f with nodes := [node5] })
     (takePkt (queued 0 (body 0 []) 0) q0 (fun t => t == 0 || (pktLen t).isNone)).2.isSome &&
     [1, 2].all (fun ty => taken (queued 0 (body ty launch) 0) ty (fun u p c x => u.grids.all (fun g => g.pkt != some q0) && launchLimits p &&
        (match pktKernel u q0 c x (pktNat p.body 16 8) with
         | (t, .ok d) => !d.node && d.spill != 0 && (match qXlate t c x (BitVec.ofNat 64 (pktNat p.body 40 8)) .read with
           | (t', .ok _) => couldFit t' 0 c.desc.cores d (min (2 ^ pktNat p.body 32 1) (pktNat p.body 24 4 * pktNat p.body 28 2 * pktNat p.body 30 2))
           | _ => false)
         | _ => false))) &&
     [queued 4 (body 3 node) 0, again].all (fun s => taken s 3 (fun u p c x => decide (pktNat p.body 16 2 ≤ 4095) && decide (pktNat p.body 18 2 ≤ 10000) &&
        (match pktKernel u q0 c x (pktNat p.body 24 8) with
         | (t, .ok d) => d.node && (match t.fe.nodes.find? (fun n => n.ctx == 0 && n.index == 5) with | some n => n.replace.isNone | none => true)
         | _ => false)))) = true := by decide +kernel

/-- The least code object: a header, and one word of .text. -/
def objImage : List Byte := leBytes 4 0x48C0B1EC ++ leBytes 4 256 ++ leBytes 64 0 ++ leBytes 4 256 ++ leBytes 4 4 ++ leBytes 176 0 ++ leBytes 4 0x81000000

theorem witness_LoadPacketCompletes :
    (let s (step : Nat) := withMem 0x100000 objImage (queued 0 (body 4 (leBytes 8 0x100000 ++ leBytes 8 260 ++ leBytes 8 0x200000)) step)
     taken (s 99) 4 (fun u p _ _ => p.step != 0 && decide (p.step < u.ft)) &&
     taken (s 0) 4 (fun u p c x => p.step == 0 && (match qRead u c x (pktNat p.body 16 8) (pktNat p.body 24 4) with
       | (t, .ok img) => img == objImage && objFormat img && objResource img && objFeature img && (
           let y := layoutOf img (pktNat p.body 32 8) 0
           match relocateAll y (field img 136 4) (Config.symbolValue t.fresh) (fun _ _ => .ok true) ((secOf img 4).2 / 16) (secBytes img 4)
               { text := secBytes img 0, rodata := secBytes img 1, data := secBytes img 2, veneer := [], touched := [], starts := [] } with
           | .ok _ => (match roomFor c x (up4k y.stop / 4096 - pktNat p.body 32 8 / 4096) (pktNat p.body 32 8 / 4096 * 4096) t with | (_, some true) => true | _ => false)
           | .error _ => false)
       | _ => false))) = true := by decide +kernel

theorem witness_ContextPacketsComplete :
    (let cut (step : Nat) := chained (fun c => { c with lastCommit := 1 }) (queued 0 (body 6 []) step)
     let stop (step : Nat) (st : CtxState) := chained (fun c => { c with state := st, cause := if st == .stopped then some .preempt else none })
        (queued 0 (body 7 (leBytes 4 0x1000)) step)
     let resume := chained (fun c => { c with state := .stopped, lastCommit := 1, chain := [increment true []] })
        (withMem 0xC0000 (leBytes 64 1 ++ leBytes 8 1 ++ leBytes 4 0 ++ leBytes 4 1 ++ leBytes 16 0) (queued 0 (body 8 (leBytes 4 0x1000)) 0))
     let inval (step : Nat) := queued 0 (body 10 (leBytes 4 0x1000 ++ leBytes 4 0 ++ leBytes 8 0x100000 ++ leBytes 8 0x1000)) step
     let heap (step : Nat) (st : CtxState) := ctx (fun c => { c with state := st, cause := if st == .stopped then some .heapq else none })
        (queued 0 (body 11 (leBytes 8 0x100000 ++ [1])) step)
     taken (withMem 0x100000 [9] (queued 0 (body 5 (leBytes 8 0x100000 ++ leBytes 8 9)) 0)) 5 (fun u p c x => pktNat p.body 16 8 % 8 == 0 &&
       (match qRead u c x (pktNat p.body 16 8) 8 with | (_, .ok bs) => decide (pktNat p.body 24 8 ≤ leNat bs % 2 ^ 63) | _ => false)) &&
     taken (cut 0) 6 (fun _ p c _ => p.step == 0 && c.desc.chain != 0) && taken (cut 2) 6 (fun _ p c _ => p.step != 0 && decide (p.step ≤ c.lastCommit + 1)) &&
     taken (stop 0 .running) 7 (fun u p _ _ => p.step == 0 && (match targetCtx u p with
       | some ci => (match u.ctxs[ci]? with | some k => k.desc.chain != 0 | none => false)
       | none => false)) &&
     taken (stop 1 .stopped) 7 (fun u p _ _ => p.step != 0 && (match targetCtx u p with
       | some ci => (match u.ctxs[ci]? with | some k => stoppedFast k | none => false)
       | none => false)) &&
     taken resume 8 (fun u p _ _ => match targetCtx u p with
       | some ci => (match u.ctxs[ci]? with
         | some k => (match resumeDesc u ci k with
           | (v, true) =>
             let t := resumeFrom v ci ((v.ctxs[ci]?).getD k)
             (match t.ctxs[ci]? with | some k' => resumeStatus t ci k' == 0 | none => false)
           | _ => false)
         | none => false)
       | none => false) &&
     taken (inval 0) 10 (fun u p _ _ => p.step == 0 && (u.mem.invals.find? (fun x => x.pkt == some q0)).isNone) &&
     taken (let s := inval 1; s.modMem (fun m => { m with invals := [invalOpen s 0 0x1000 0x100000 0x1000 false (some q0)] })) 10
       (fun u _ _ _ => match u.mem.invals.find? (fun x => x.pkt == some q0) with | some i => accessesDone u i | none => false) &&
     ([(0, .running), (1, .stopped)] : List (Nat × CtxState)).all (fun y => taken (heap y.1 y.2) 11 (fun u p c x => p.step == y.1 && c.state == y.2 &&
       (y.1 == 0 || c.cause == some .heapq) && decide (pktNat p.body 24 1 ≤ 32) &&
       (match qRead u c x (pktNat p.body 16 8) (16 * pktNat p.body 24 1) with | (_, .ok _) => true | _ => false)))) = true := by decide +kernel

/-- Both switches begun; each about to end. -/
theorem witness_RegionPacketCompletes :
    (let s (to_ step : Nat) := queued 0 (body 9 (leBytes 8 0x100000 ++ leBytes 8 0x2000 ++ [BitVec.ofNat 8 to_])) step
     ([(1, 0), (0, 0), (0, 1), (1, 101)] : List (Nat × Nat)).all (fun y => taken (s y.1 y.2) 9 (fun u p c _ =>
       pktNat p.body 16 8 % 4096 == 0 && pktNat p.body 24 8 % 4096 == 0 && pktNat p.body 32 1 == y.1 && p.step == y.2 && c.region.isNone &&
       (match pagesOf u c (pktNat p.body 16 8) (pktNat p.body 24 8) with
        | (_, none) => false
        | (t, some pages) => pages.length == 2 && (y.2 != 1 || (toSoftware t (causeOf t 0 .other) pages false).2) && (y.2 < 2 || decide (p.step < t.ft + 2)))))) = true := by
  decide +kernel

/-- A tail latch of queue 1 of the placed context. -/
def latch1 (q : Nat) : TailLatch := { fn := 0, pasid := 0x1000, queue := q, tail := 3, seen := 3, fresh := true, recorded := false }
/-- Function 0 with queues, and a latch. -/
def bells : State :=
  ((queued 0 (body 0 []) 0).modFn 0 (fun f => { f with pasidlim := 0x1001 })).modFe (fun f => { f with latches := [latch1 1] })

/-- A reserved bit and a PASID out of the limit; a queue without a latch; one with a latch; a latch to read. -/
theorem witness_DoorbellEventsComplete :
    ((match bells.fns[0]? with
      | some f => decide ((0x0000010000000000 : W64).toNat / 2 ^ 40 % 16 ≠ 0) && decide (f.pasidlim ≤ (0x0100100000000000 : W64).toNat / 2 ^ 44) &&
          [0x0100000200000007, 0x0100000100000007].all (fun (v : W64) => decide (v.toNat / 2 ^ 40 % 16 = 0) && decide (v.toNat / 2 ^ 44 < f.pasidlim)) &&
          bells.fe.latches.all (fun l => l.queue != (0x0100000200000007 : W64).toNat / 2 ^ 32 % 256) && decide (bells.fe.latches.length < 4096) &&
          bells.fe.latches.any (fun l => l.fn == 0 && l.pasid == (0x0100000100000007 : W64).toNat / 2 ^ 44 &&
            l.queue == (0x0100000100000007 : W64).toNat / 2 ^ 32 % 256)
      | none => false) &&
     (match bells.fe.latches[0]? with
      | some l =>
          let t := bells.modFe (fun e => { e with latches := e.latches.map (fun k =>
            if k.fn == l.fn && k.pasid == l.pasid && k.queue == l.queue then { k with seen := k.tail } else k) })
          !bells.fe.restart && !bells.mgmt.bootfail && !queueSuspended t l.fn l.pasid l.queue && (walkQueue t l.fn l.pasid l.queue).2.isSome
      | none => false)) = true := by decide +kernel

theorem witness_RegisterEventsComplete :
    (!(0x0100000200000000 : W64).getLsbD 0 && State.reset.ctxs.isEmpty && State.reset.fe.queues.isEmpty && State.reset.fe.reread.isEmpty &&
      (State.reset.modMgmt (fun g => { g with owner := some .host })).mgmt.owner == some .host &&
      State.reset.mgmt.owner != some .host) = true := by decide +kernel

/-- A bundle of one entry, of rollback number 1. -/
def bundle : List Byte := leBytes 4 0x0F1EA7C4 ++ leBytes 4 1 ++ leBytes 2 1 ++ leBytes 6 0 ++ leBytes 2 5 ++ leBytes 14 0xABC ++ leBytes 64 0

/-- Whether a signature is good is the device's key's to say: the bundle has the result 0 where it is, and 2 where it is not. -/
theorem witness_PatchEventsComplete :
    bundleResult 0 [] ≠ 0 ∧ (Config.sigVerifies 0 (bundle.take 32) (bundle.drop 32) = true → bundleResult 0 bundle = 0) ∧
      ({ FrontEnd.reset with restart := true } : FrontEnd).restart = true ∧ FrontEnd.reset.queues = [] ∧ FrontEnd.reset.reread = [] := by
  refine ⟨by decide, ?_, rfl, rfl, rfl⟩
  intro h
  have e : bundleResult 0 bundle = if !Config.sigVerifies 0 (bundle.take 32) (bundle.drop 32) then 2 else 0 := by rfl
  rw [e, h]
  rfl

/-- The placed context with a checkpoint chain, stopping for `cause`. -/
def stopping (cause : StopCause) : State := chained (fun c => { c with state := .stopping, cause := some cause }) idle

theorem witness_StopEventsComplete :
    (let c := chained id idle
     let i := chained (fun c => { c with nextCkpt := 100 }) idle
     let t := chained (fun c => { c with cutTime := some 99 }) idle
     (match c.ctxs[0]?, idle.ctxs[0]? with
      | some x, some y => x.desc.chain != 0 && x.state == .running && x.cutTime.isNone && !x.cutWant && y.desc.chain == 0
      | _, _ => false) &&
     (match i.ctxs[0]? with | some x => x.nextCkpt != 0 && decide (x.nextCkpt ≤ i.ft) && x.state == .running | none => false) &&
     (match (chained (fun c => { c with state := .stopping, cutCores := [7] }) idle).ctxs[0]? with
      | some x => x.cutTime.isNone && !x.cutCores.isEmpty && x.cutCores.all (fun k => k == 7)
      | none => false) &&
     [(t, false), (withMem 0xC0008 (leBytes 8 0x100000) t, true)].all (fun y => match y.1.ctxs[0]? with
      | some x => (match x.cutTime with | some k => decide (k < y.1.ft) | none => false) && x.state == .running && x.desc.cores.getLsbD 7 &&
          tierUp y.1 x && chainRoom y.1 x (cutSizes y.1 0 x) == y.2
      | none => false) &&
     (let down : State := ctx (fun c => { c with desc := { c.desc with chain := 0xC000000000 } }) (t.modMem (fun m => { m with tierDown := (true, true) }))
      match down.ctxs[0]? with
      | some x => x.cutTime.isSome && !tierUp down x && x.state == .running && x.desc.cores.getLsbD 7
      | none => false) &&
     [(stopping .coreDisabled, true), (withMem 0xC0008 (leBytes 8 0x100000) (stopping .coreDisabled), false)].all (fun y => match y.1.ctxs[0]? with
      | some x => (evacCut (closeDrains (passUnlks (passLocks y.1 0) 0) 0) 0 x).isNone == y.2
      | none => false) &&
     (let s := chained (fun c => { c with state := .running, chain := [{ increment false [] with closed := false, recalls := [0x2000] }] }) idle
      match s.ctxs[0]? with
      | some x => (match closing x with
        | some inc => closureReady s 0 x inc.below && backsDone s inc.unlks && inc.recalls.all (fun l => !s.mem.fabricBits.contains l) && (match mergeAllSealed s 0 with
          | (v, true) => (match v.ctxs[0]? with | some x' => (closing x').isSome | none => false)
          | _ => false)
        | none => false)
      | none => false) &&
     [StopCause.discard, .flr, .faultStop, .rollback, .coreDisabled, .heapq].all (fun cause =>
       match (stopping cause).ctxs[0]? with
       | some x => x.state == .stopping && (closing x).isNone && closureReady (stopping cause) 0 x (stopping cause).nextId &&
          backsDone (stopping cause) (backsOf (stopping cause) 0) && x.cause == some cause
       | none => false)) = true := by decide +kernel

theorem witness_CheckpointEventsComplete :
    (let item (i : Item) (k : Nat) : Piece := { part := 0, off := 4096 + 128 * k, size := 128, what := .item i 0 }
     let s (todo : List Item) := chained (fun c => { c with chain :=
       [{ increment false [] with pieces := todo.zipIdx.map (fun x => item x.1 x.2), snatch := [(.acc 0 2, 0)] }] }) idle
     let r (st : CtxState) := ctx (fun c => { c with state := st, cause := some .rollback }) idle
     (match (s [.scratch 0 3, .acc 0 2]).ctxs[0]?, (s []).ctxs[0]? with
      | some c, some d => (match streaming c, streaming d with
        | some i, some j => tierUp (s []) c &&
            (nextPiece (s [.scratch 0 3, .acc 0 2]) (chainPort (s []) c)).any (fun x => x.1 == 0) && ((snatchPiece i).map Piece.what == some (.item (.acc 0 2) 0)) && j.pieces.isEmpty
        | _, _ => false)
      | _, _ => false) &&
     [CtxState.stopped, .resuming].all (fun st => match (r st).ctxs[0]?, idle.ctxs[0]? with
      | some c, some d => c.state == st && c.cause == some .rollback && !d.moving && d.state == .running && (1 : W64) != Config.featmask
      | _, _ => false)) = true := by decide +kernel

/-- A copy of the placed block at a compare point, with its run digest. -/
def copyAt (mate : Nat) (primary third : Bool) (digest : W64) (run3 : Option Nat) (b : Block) : Block :=
  { b with
    groups := b.groups.map (fun g => { g with path0 := { g.path0 with ctl := { g.path0.ctl with wait := .compare 0 } } })
    pair := some { mate := mate, primary := primary, shadow := [], runSum := digest, failed := false, isThird := third, run3 := run3, g := 0, points := [], passed := [] } }
/-- A pair, and its third run where the copies disagree. -/
def paired (x y z : W64) (third : Bool) : State :=
  { idle with blocks := (idle.blocks.map (copyAt 1 true false x (if third then some 2 else none))) ++ (idle.blocks.map (copyAt 0 false false y none)) ++
      (if third then idle.blocks.map (copyAt 0 true true z none) else []) }

/-- Two copies that agree; two that do not; a third run that agrees with the first, with the second, with none. -/
theorem witness_PairEventsComplete :
    ([(paired 1 1 0 false, true), (paired 1 2 0 false, false), (paired 1 2 1 true, false), (paired 1 2 2 true, false), (paired 1 2 3 true, false)] :
        List (State × Bool)).zipIdx.all (fun x =>
      let s := x.1.1
      match copiesOf s 0 with
      | some (a, b) => (sharedPoint s (a.1, a.2.1) (b.1, b.2.1)).isSome && pairAgree a.2.2 b.2.2 == x.1.2 && blockRuns s a.2.1 && blockRuns s b.2.1 &&
          ((s.ctxs[a.2.1.ctx]?).map Ctx.state == some .running) && a.2.2.run3.isSome == decide (2 ≤ x.2) &&
          (x.2 < 2 || (match s.block? 2 with
            | some t => (match t.pair with
              | some p => (sharedPoint s (a.1, a.2.1) (2, t)).isSome && (sharedPoint s (b.1, b.2.1) (2, t)).isSome &&
                  pairAgree a.2.2 p == decide (x.2 = 2) && pairAgree b.2.2 p == decide (x.2 = 3)
              | none => false)
            | none => false))
      | none => false) = true := by decide +kernel

/-- A page request with group index 4. -/
def asked4 (pasid : Nat) : PageReq :=
  { id := 9, fn := 0, pasid := pasid, stage2 := false, page := 0x100, write := false, idx := some 4, opened := 0 }

theorem witness_PageEventsComplete :
    (let s (pasid : Nat) := ({ idle with ft := 1000000000 } : State).modMem (fun m => { m with pageReqs := [asked4 pasid] })
     (idle.mem.pageReqs.find? (fun r => r.fn == 0 && r.idx == some 4)).isNone &&
     ((s 0x1000).mem.pageReqs.find? (fun r => r.fn == 0 && r.idx == some 4)).isSome &&
     ([(0x1000, true), (0x77, false)] : List (Nat × Bool)).all (fun x => match (s x.1).mem.pageReqs.find? (fun r => r.id == 9 && r.fn == 0), (s x.1).fns[0]? with
       | some r, some f => decide (r.opened + 1000000 * f.prtimeout ≤ (s x.1).ft) &&
           ((findCtx (prPump (answerReq (s x.1) r .invalid) 0 512) 0 r.pasid).isSome == x.2)
       | _, _ => false)) = true := by decide +kernel

theorem witness_InvalidationCompletes :
    (let mine (x : AtsInval) : Bool := x.pkt.isNone && x.fn == 0 && x.pasid == 0x1000 && x.base == 0 && x.len == 0x1000 && x.all == false
     let s := idle.modMem (fun m => { m with invals := [invalOpen idle 0 0x1000 0 0x1000 false none] })
     (idle.mem.invals.find? mine).isNone && (s.mem.invals.find? mine).any (accessesDone s)) = true := by decide +kernel

/-- A line behind memory-tier port 0. -/
theorem witness_FaultEventsComplete_device : ∃ dev, tierDevice State.reset (0x180000000 * 128) = some dev := ⟨_, rfl⟩

/-- A column group of zero words: clean; with one horizontal parity byte wrong; with two of one class wrong; with a wrong V. -/
theorem witness_FaultEventsComplete :
    (let g (h : List Byte) (v : W64) : ColumnGroup := { words := List.replicate 64 0, hpar := h ++ List.replicate (64 - h.length) 0, v := v, vpar := 0 }
     !anyFlagged (g [] 0) && groupS (g [] 0) == 0 && anyFlagged (g [1] 0) && (rebuild (g [1] 0)).all (· != .poison) &&
     anyFlagged (g [1, 1] 0) && (rebuild (g [1, 1] 0)).contains .poison && !anyFlagged (g [] 0x101) && groupS (g [] 0x101) != 0 &&
     (match State.reset.cores[127]?, (State.reset.modCore 127 (fun c => { c with rows := List.replicate 192 .inUse ++ List.replicate 4 .disabled })).cores[127]? with
      | some c, some d => c.rows[0]? == some .inUse && ((c.rows.set 0 .disabled).findIdx? (· == .spare)).isSome &&
          d.rows[0]? == some .inUse && ((d.rows.set 0 .disabled).findIdx? (· == .spare)).isNone
      | _, _ => false)) = true := by decide +kernel

/-- Line 0x2000 (1 MiB) as the fabric knows it. -/
def fab (st : FState) (req : Nat) : FabLine :=
  { line := 0x2000, st := st, lease := 150, gRemote := 0, acks := 0, early := 0, lend := 0, req := req, reqAt := 0, holdVer := 0, retryAt := 0,
    tag := 0, owner := 0, waiters := [], errs := [], kept := none, errEnd := 0, grantAt := 0, sw := 0 }
/-- A package that holds it so. -/
def withFab (f : FabLine) : State := idle.modMem (fun m => { m with fab := [f] })
/-- A synchronisation write held on it. -/
def withHeld : State := idle.modMem (fun m => { m with held := [heldReq 0x100000 []] })
/-- A Herd line at its home, with a lease that keeps its merge back or without. -/
def herded (lease : Nat) : State := idle.modMem (fun m => { m with
  herd := [{ line := 0x2000, tag := 3, parts := [(0, List.replicate 128 0)], sealedParts := [], sealers := [], stamp := 0 }], leases := [(0x2000, lease)] })
/-- A line of another package. -/
def away : Nat := 2 ^ 39

/-- The page of line 0x2000 is still to be saved. -/
def saving : State :=
  ctx (fun c => { c with desc := { c.desc with cset := [(0x100000, 0x100000)] }, chain := [increment false [(.page 0x100000, 0)]] }) idle

theorem witness_SupplyEventsComplete :
    (!isRemote idle (0x2000 * 128) && heldOn withHeld 0x2000 && (homeMerge (herded 200) 0x2000).isNone && !heldOn (herded 50) 0x2000 &&
      (homeMerge (herded 50) 0x2000).isSome && !heldOn (withFab (fab .modified 0)) 0x2000 && (fabOf (withFab (fab .modified 0)) 0x2000).owns &&
      [true, false].all (fun kept =>
        let s := (herded (if kept then 200 else 50)).modMem (fun m => { m with herd := m.herd.map (fun h => { h with sealedParts := h.parts, sealers := h.parts.map (fun p => (p.1, 0)) }) })
        !heldOn s 0x2000 && (homeJoin s 0x2000).isNone == kept) &&
      !heldOn saving 0x2000 && pageHeld saving (0x2000 * 128) 128 none && !pageHeld (herded 50) (0x2000 * 128) 128 none &&
      !linkShut idle 0 (dirOf idle 0x2000) && windowCode idle 0 (0x2000 * 128) 128 0 == 0 && windowCode idle 5 (0x2000 * 128) 128 0 != 0 &&
      (let t : Terms := { owner := 5, leaseEnd := 0, invs := 0, lend := 0, floor := 0 }
       supplyCode idle 0x2000 t 0 != 0 && supplyCode idle 0x2000 t 1 != 0 && supplyCode idle 0x2000 { t with owner := 0 } 1 == 0 &&
       !linkShut idle 5 (dirOf idle 0x2000)) && !watched idle 0x2000 &&
      watched ((withFab (fab .modified 0)).modMem (fun m => { m with monitors := [found] })) (lineOf found.pa)) = true := by
  decide +kernel

theorem witness_AnswerEventsComplete :
    ([1, 2, 3, 4].all (fun r => (fabOf (withFab (fab .inv r)) 0x2000).req == r) && (fPERM != 0 && fPERM != fPOISON) &&
      (fabOf (withFab (fab .shared 0)) 0x2000).readable idle.ft false && (fabOf (withFab (fab .shared 0)) 0x2000).st == .shared &&
      (fabOf (withFab { fab .shared 0 with lease := 50 }) 0x2000).lease ≤ idle.ft && (fabOf idle 0x2000).st != .shared &&
      (fabOf (withFab { fab .modified 0 with acks := 1 }) 0x2000).acks == 1 && (fabOf (withFab (fab .inv 2)) 0x2000).acks == 0 &&
      (fabOf (withFab { fab .modified 0 with lend := 9 }) 0x2000).lend == 9 && (fabOf idle 0x2000).lend == 0 &&
      !answerShut idle 0x2000 &&
      asked (idle.modMem (fun m => { m with asks := [{ line := 0x2000, recalls := false, owner := 0, sw := 0, holdVer := 0, retryAt := 0 }] })) 0x2000 false) = true := by
  decide +kernel

theorem witness_MergeEventsComplete :
    (heldOn withHeld 0x2000 && !heldOn (withFab (fab .excl 0)) 0x2000 && (fabOf (withFab (fab .excl 0)) 0x2000).owns &&
      (fabOf (withFab (fab .herd 0)) 0x2000).st == .herd && !heldOn (withFab (fab .herd 0)) 0x2000 && (herdOf (herded 50) 0x2000).isSome &&
      !isRemote idle (0x2000 * 128) && !pageHeld idle (0x2000 * 128) 128 (recallPre idle 0x2000) && leaseEnd idle 0x2000 ≤ idle.ft &&
      (fabOf idle 0x2000).lend < idle.ft && idle.ft ≤ (fabOf (withFab { fab .inv 0 with lend := 500 }) 0x2000).lend &&
      !pageHeld (withFab { fab .inv 0 with lend := 500 }) (0x2000 * 128) 128 (recallPre (withFab { fab .inv 0 with lend := 500 }) 0x2000) &&
      idle.fabric.lost.isEmpty && isRemote idle (away * 128) &&
      [none, some 0].all (fun v =>
        let s := idle.modFab (fun f => { f with censusLog := v })
        let t := dropLine s away
        let u := dropLine (physPoisonWrite s (0x2000 * 128) 128) 0x2000
        (t.fabric.censusLog == some t.fabric.dirmapVer) == v.isSome && (u.fabric.censusLog == some u.fabric.dirmapVer) == v.isSome) &&
      (let s := idle.modFab (fun f => { f with windows := f.windows.set 0 { importer := 5, any := false, rights := 7, size := 30, base := 0, state := 2 } })
       revokedFor s 5 0x2000 && !revokedFor s 0 0x2000)) = true := by
  decide +kernel

/-- A request put off until 100, one that waits for 4 ms, and DIRMAP versions 0 and 1. -/
theorem witness_RequestEventsComplete :
    (let w := withFab { fab .inv 1 with retryAt := 100 }
     let o : State := { withFab (fab .inv 1) with ft := 4000000 }
     (fabOf w 0x2000).req != 0 && (fabOf w 0x2000).retryAt != 0 && (fabOf w 0x2000).retryAt ≤ w.ft && 0 ≤ w.fabric.dirmapVer && w.fabric.dirmapVer < 1 &&
     (fabOf o 0x2000).req != 0 && (fabOf o 0x2000).retryAt == 0 && (fabOf o 0x2000).holdVer == 0 && (fabOf o 0x2000).reqAt + 4000000 ≤ o.ft && idle.mem.fab.isEmpty) = true := by
  decide +kernel

/-- Owner 5 on link 1, with the key of epoch 2, whose next packet is number 3. -/
def owner5 : LinkOwner := { LinkOwner.start 5 1 with keys := [(2, 9)], seqs := [(2, 3)] }

/-- A request of owner 5 that no window covers, and one that window 0 lets through; an atomic operation at its place, and behind another. -/
theorem witness_WindowEventsComplete :
    (let s := idle.modFab (fun f => { f with windows := f.windows.set 0 { importer := 5, any := false, rights := 7, size := 30, base := 0, state := 1 } })
     let v := s.modFab (fun f => { f with windows := f.windows.map (fun w => if w.state == 1 then { w with state := 2 } else w) })
     let o := s.modMgmt (fun g => { g with owner := some .fabric })
     let l := idle.modFab (fun f => { f with links := [owner5] })
     let rmw : SyncOp := .rmw 0 5 [1, 0, 0, 0]
     let placed (acks : List Nat) := s.modMem (fun m => { m with held := [{ heldReq 0x100000 acks with lanes := [], far := some (6, 0x100000, .atomic rmw) }] })
     !(linkOf l 5 1).quarantined && (assocGet (linkOf l 5 1).keys 2).isSome && (linkOf l 5 1).nextSeq 2 == 3 && (linkOf l 5 2).keys.isEmpty &&
     !isRemote s 0x100000 && 0x100000 % 128 == 0 && !linkShut s 5 (.pkg 6) && windowCode idle 5 0x100000 (reqSize .read) (reqRight .read) != 0 &&
     [ReqKind.read, .write [1, 2], .atomic rmw].all (fun k => windowCode s 5 0x100000 (reqSize k) (reqRight k) == 0) &&
     !heldOn s (lineOf 0x100000) && !queuedOn s (lineOf 0x100000) && (farPlace s 6 0x100000 (.atomic rmw)).isNone && syncReady s 0x100000 &&
     (match farPlace (placed []) 6 0x100000 (.atomic rmw) with
      | some h => lineFirst (placed []) (lineOf 0x100000) h.seq && h.acks.isEmpty
      | none => false) &&
     heldOn withHeld (lineOf 0x100000) && (farPlace withHeld 6 0x100000 (.atomic rmw)).isNone &&
     (let k (v : W64) : ReqKind := .watch 8 0 false v
      let m (v : W64) : Monitor := farMonitor 6 0x100000 (k v) 8 0 false v
      let hit := s.modMem (fun x => { x with monitors := [{ m 0 with hit := some 7 }] })
      windowCode s 5 0x100000 (reqSize (k 0)) (reqRight (k 0)) == 0 && (farWatch s 6 0x100000 (k 0)).isNone && !physPoison s 0x100000 8 &&
      [(0 : W64), 1].all (fun v => (m v).holds (leNat (ownRead s 0x100000 8)) == (v == 0)) &&
      decide (monitorsOf s (sliceOf s (lineOf 0x100000)) < monitorMax) && ((farWatch hit 6 0x100000 (k 0)).bind Monitor.hit == some 7)) &&
     (match homeMerge s (lineOf 0x100000) with
       | some t => !physPoison t 0x100000 128 && !pageHeld t 0x100000 4 none && (syncLane t 0x100000 rmw none).2.isSome
       | none => false) &&
     o.mgmt.owner == some .fabric && ((o.fabric.windows[0]?).map ExportWin.state == some 1) && ((v.fabric.windows[0]?).map ExportWin.state == some 2)) =
      true := by decide +kernel

/-- A packet in order whose tag is that of its key. -/
theorem witness_TagVerifies : ∃ p : LinkPacket, p.seq = owner5.nextSeq p.epoch ∧ tagVerifies p 5 owner5 = true :=
  ⟨{ link := 1, epoch := 2, seq := 3, covered := [], tag := Config.gmac 9 (packetIv 3 5 1) [] }, by decide, by
    simp [tagVerifies, owner5, assocGet]⟩

/-- An AtomicOp in flight. -/
def atomic9 : HostAtomic :=
  { id := 9, party := path0, op := 7, lane := 0, pa := 0x10C000000000, va := 0x100000, req := .rmw 0 5 [1, 0, 0, 0], dst := .none, words := 1 }

theorem witness_HostLinkEventsComplete :
    (inHdm idle { fn := 0, mem := false } 0x100000 8 && inHdm idle { fn := 0, mem := true } 0x100000 8 &&
     let s := idle.modMem (fun m => { m with atomics := [atomic9], sectors := [{ addr := 0x10C000000000 / 64, modified := false, mask := 0, bytes := [] }] })
     let away (t : State) (wr : Bool) := (linePieces 0x100000 8).foldl (fun (r : State × Bool) p => if r.2 then hostReady r.1 0 p.1 wr else r) (t, true)
     packageMem idle 0x100000 && packageMem idle (0x100000 + 8 - 1) && !heldOn idle (lineOf 0x100000) && !onFabric idle 0x100000 &&
     (herdOf idle (lineOf 0x100000)).isNone && !physPoison idle 0x100000 8 && physPoison (idle.addPoison (.mem (0x100000 / 8))) 0x100000 8 &&
     !pageHeld idle 0x100000 1 none && [true, false].all (fun wr => (away idle wr).2 && !physPoison (away idle wr).1 0x100000 8 && !(away withHeld wr).2) &&
     (match s.mem.atomics.find? (fun a => a.id == 9) with
      | some a => (leBytes 4 41).length == a.req.size && (a.req.apply (leBytes 4 41)).isSome &&
          (({ a with req := .cas [1, 0, 0, 0] [2, 0, 0, 0] } : HostAtomic).req.apply (leBytes 4 41)).isNone
      | none => false) &&
     (let l := grp (fun g => { g with ops := [{ someOp true with dst := .vreg 1 1 }] }) ready
      (l.mem.atomics.find? (fun a => a.id == 7)).isNone && loadParty l 7 == some path0 && ((findOp l path0 7).map OutOp.dst == some (.vreg 1 1))) &&
     region s (0x10C000000000 / 64 * 64) == .host && s.mem.sectors.all (fun x => !x.modified)) = true := by decide +kernel

theorem witness_ResetAndLinkEventsComplete :
    (idle.ctxs.any (fun c => c.fn == 0 && c.state != .discarded) && idle.ctxs.all (fun c => c.fn != 64) && State.reset.fabric.pkg == 0) = true := by
  decide +kernel

/-- The host's claim and the board's: the better one, and two alike. -/
theorem witness_OwnershipEventsComplete :
    (let el (p : Nat × Nat × Nat) : State := { State.reset.modMgmt (fun g => { g with
        election := some [{ m := .host, nonce := 7 }, { m := .board, nonce := 7 }], prios := p }) with ft := 100000000 }
     let own (ft : Nat) : State := { State.reset.modMgmt (fun g => { g with owner := some .host, succ := some .fabric }) with ft := ft }
     State.reset.mgmt.owner.isNone && State.reset.mgmt.election.isNone &&
     ([((1, 2, 3), true), ((1, 1, 1), false)] : List ((Nat × Nat × Nat) × Bool)).all (fun x => match (el x.1).mgmt.election with
       | some l => (el x.1).mgmt.owner.isNone && (el x.1).mgmt.electAt + 100000000 ≤ (el x.1).ft &&
           ((l.find? (fun c => l.all (fun d => d == c || beats (el x.1) c d))).isSome == x.2)
       | none => false) &&
     (own 5).mgmt.owner == some .host && (own 5).mgmt.owner != some .board && (own 5).mgmt.succ == some .fabric &&
     (own 5).ft < (own 5).mgmt.succAt + 1000000000 && (own 1000000000).mgmt.succAt + 1000000000 ≤ (own 1000000000).ft &&
     (own 10000000000).mgmt.lastCmd + 10000000000 ≤ (own 10000000000).ft) = true := by decide +kernel

/-- Measurement blocks 0, 7 and 6; an image below its rollback counter; images whose signatures are good, where the device's key says so. -/
theorem witness_AttestationEventsComplete :
    State.reset.mgmt.meas.length < 7 ∧ (State.reset.mgmt.meas[6 - 1]?).isSome = true ∧
      imageOk { data := [], svn := 0, sig := [] } 1 = false ∧
      (Config.sigVerifies 1 [] [] = true → imageOk { data := [], svn := 0, sig := [] } State.reset.mgmt.svns.1 = true) := by
  refine ⟨by decide, by decide, ?_, ?_⟩
  · show (Config.sigVerifies 1 [] [] && false) = false
    exact Bool.and_false _
  · intro h
    show (Config.sigVerifies 1 [] [] && true) = true
    rw [h]
    rfl

/-! ## One step: the worked values of the spec -/

/-- What the word leaves. -/
def ran (s : State) (w : W32) (k : State → Bool) : Bool := match exec (decode w) s with | .next t => k t | _ => false
/-- A lane of a vector register of group 0. -/
def lane (t : State) (r l : Nat) : W32 := match t.view path0 with | some v => v.g.vlane r l | none => 0
/-- An s register, a predicate, a w register. -/
def sval' (t : State) (r : Nat) : W64 := match t.view path0 with | some v => v.sreg r | none => 0
def pval (t : State) (r : Nat) : W32 := match t.view path0 with | some v => v.g.pred r | none => 0
def wval (t : State) (r : Nat) : W64 := match t.view bell0 with | some v => v.sreg r | none => 0
/-- Some lanes of a vector register. -/
def lanesOf (l : List W32) (x : Nat) : W32 := l.getD x 0
/-- The cause of the trap or of the stop that the word raises. -/
def code? (t : State) : Nat := match t.ctxs[0]? with | some c => c.stopCode | none => 0

/-- 15_ref_a_b ABS; 18_ref_m_p MAD and its single rounding; 18_ref_m_p MAX of zeros; 19_ref_r_s RINT. -/
theorem test_float_lane :
    (ran (withV 7 (fun _ => 0xC0E00000) base) 0x20030700 (fun t => lane t 3 31 == 0x40E00000) &&
      ran (withV 3 (fun _ => 0xBF800002) (withV 4 (fun _ => 0x3F800001) (withV 5 (fun _ => 0x3F800001) base))) 0x13030405
        (fun t => lane t 3 0 == 0x28800000) &&
      ran (withV 2 (fun _ => 0x80000000) base) 0x15010203 (fun t => lane t 1 9 == 0) &&
      ran (withV 2 (lanesOf [0x40200000, 0xBF000000]) base) 0x2001020A (fun t => lane t 1 0 == 0x40000000 && lane t 1 1 == 0x80000000)) = true := by
  decide +kernel

/-- 19_ref_r_s RCP, RSQ, SQRT and SIN; 17_ref_d_l EXP2 and LOG2. -/
theorem test_transcendental :
    (let one (w x y : W32) : Bool := ran (pth (fun p => { p with mask := 1 }) (withV 2 (lanesOf [x]) base)) w (fun t => lane t 1 0 == y)
     one 0x20010203 0x40400000 0x3EAAAAAB && one 0x20010204 0x40800000 0x3F000000 && one 0x20010205 0x40000000 0x3FB504F3 &&
     one 0x20010208 0x3E000000 0x3F3504F3 && one 0x20010206 0x3F000000 0x3FB504F3 && one 0x20010206 0xC3000000 0x00200000 &&
     one 0x20010207 1 0xC3150000) = true := by decide +kernel

/-- 15_ref_a_b BREV, 18_ref_m_p NOT and POPC, 19_ref_r_s SAR, under i8, u8 and 32-bit types (R114). -/
theorem test_integer_lane :
    (ran (withMode mU32 (withV 2 (fun _ => 1) base)) 0x2001020D (fun t => lane t 1 0 == 0x80000000) &&
      ran (withMode mI32 (withV 2 (fun _ => 0x80000010) base)) 0x1B0102E4 (fun t => lane t 1 0 == 0xF8000001) &&
      ran (withMode 0x140 (withV 2 (fun _ => 1) base)) 0x2001020D (fun t => lane t 1 0 == 0xFFFFFF80) &&
      ran (withMode 0x140 (withV 2 (fun _ => 0x0F) base)) 0x20010202 (fun t => lane t 1 0 == 0xFFFFFFF0) &&
      ran (withMode 0x140 (withV 2 (fun _ => 0xFFFFFF80) base)) 0x2001020C (fun t => lane t 1 0 == 1)) = true := by decide +kernel

/-- 16_ref_c CLASS, CMP and CVT. -/
theorem test_classify_compare_convert :
    (ran (withV 2 (lanesOf [0x80000001, 0x7F800001, 0x7FCBF800]) base) 0x2001020E
        (fun t => lane t 1 0 == 0x10 && lane t 1 1 == 1 && lane t 1 2 == 2) &&
      ran (withV 2 (lanesOf [0x80000000, 1, 0x7FC00000, 0xBF800000]) base) 0x1E2102E0 (fun t => pval t 1 == 8) &&
      ran (withV 2 (lanesOf [0x80000000, 1, 0x7FC00000, 0xBF800000]) base) 0x1EA102E0 (fun t => pval t 1 == 0xC) &&
      ran (withV 2 (lanesOf [0x43E60000, 0x43FA0000, 0x80000000, 0x7FCBF800]) base) 0x2104020C
        (fun t => lane t 4 0 == 0x7E && lane t 4 1 == 0x7F && lane t 4 2 == 0x80 && lane t 4 3 == 0x7F)) = true := by decide +kernel

/-- 05_numbers and 16_ref_c CVTB: the packing example, and a block that it is given. -/
theorem test_block_format :
    (let s := withV 2 (fun l => if l == 0 then 0xC0E00000 else if l == 5 then 0x40200000 else 0x3F800000) base
     ran (withMode 0x1E0 s) 0x220A0200 (fun t => lane t 10 0 == 0x22422228 && lane t 10 1 == 0x22222222 && lane t 10 4 == 0xCE7F) &&
     ran (withMode mF4 (withV 10 (lanesOf [0, 0, 0, 0, 0x7F]) s)) 0x220A0201 (fun t => lane t 10 0 == 0x2242222F && lane t 10 4 == 0x7F)) = true := by
  decide +kernel

/-- 19_ref_r_s SHFX: a dead lane reads as 0; 17_ref_d_l GSUM, saturating at each node; 05_numbers: GSUM of −0. -/
theorem test_cross_lane :
    (ran (grp (fun g => { g with dead := 0x20 }) (withMode mU32 (withV 2 (fun l => BitVec.ofNat 32 (l + 100)) (withV 3 (fun _ => 7) base)))) 0x310302E1
        (fun t => lane t 3 4 == 0 && lane t 3 5 == 7 && lane t 3 6 == 107 && (match t.view path0 with | some v => v.g.gstat.getLsbD 0 | none => false)) &&
      ran (grp (fun g => { g with dead := 0xFFFFFFF0 }) (withMode 0x880 (withV 4 (lanesOf [0x7FFFFFFF, 1, 0xFFFFFFFB]) base))) 0x35050400
        (fun t => lane t 5 0 == 0x7FFFFFFA && lane t 5 3 == 0x7FFFFFFA) &&
      ran (grp (fun g => { g with dead := 0xFFFFFF77 }) (withV 4 (fun _ => 0x80000000) base)) 0x35050400 (fun t => lane t 5 3 == 0x80000000)) = true := by
  decide +kernel

/-- 18_ref_m_p PAND and PSET.FIRST; 16_ref_c CWR of GSTAT. -/
theorem test_predicates_and_registers :
    (ran (pth (fun p => { p with mask := 0xFF }) (withP 1 0xFFFF (withP 2 0xFF00FF (withP 3 0xFFFF0000 base)))) 0x36B3B120 (fun t => pval t 3 == 0xFFFF00FF) &&
      ran (blk (fun b => { b with chans := b.chans.set 0 [.sc 27] }) base) 0x37B2C001 (fun t => pval t 2 == 0x07FFFFFF) &&
      ran (grp (fun g => { g with gstat := 0x121 }) (withS [(2, 0x21)] base)) 0x07820001
        (fun t => match t.view path0 with | some v => v.g.gstat == 0x100 | none => false)) = true := by decide +kernel

/-- 19_ref_r_s SLI, SLH and SMIN; 15_ref_a_b BRA and BRX to an address that is not aligned. -/
theorem test_scalar_and_branch :
    (ran (withS [(31, 0x400000010000)] base) 0x4D9F0A40 (fun t => sval' t 31 == 0x4000000100000A40) &&
      ran base 0x4C83FFFE (fun t => sval' t 3 == 0xFFFFFFFFFFFFFFFE) && ran (withS [(2, 0xFFFFFFFFFFFFFFFF), (3, 5)] base) 0x48818283
        (fun t => sval' t 1 == 0xFFFFFFFFFFFFFFFF) &&
      ran (withS [(31, 0x10002)] base) 0xF2009F00 (fun t => code? t == fALIGN)) = true := by decide +kernel

/-- 17_ref_d_l DISP: the second bucket, and none. -/
theorem test_dispatch :
    (let s (h0 : W64) := near 1 (withMem 0x20000 [2] (withMem 0x100000 (leBytes 4 2 ++ leBytes 4 1 ++ leBytes 8 1 ++ leBytes 8 64 ++ leBytes 8 0x10000 ++ leBytes 8 65 ++ leBytes 8 256 ++
       leBytes 8 0x10008) (bel (fun b => { b with h := b.h.set 0 h0 }) (withW [(12, 0x100000)] (onBell code)))))
     ran (s 100) 0xF5000C00 (fun t => wval t 55 == 1 && wval t 56 == 156 && wval t 57 == 0 && (match t.view bell0 with | some v => v.ctl.pc == 0x10008 | none => false)) &&
     ran (s 300) 0xF5000C00 (fun t => code? t == fILLOP && wval t 55 == 0)) = true := by decide +kernel

/-- 16_ref_c CAS128: lane 0 succeeds, lane 1 fails; 19_ref_r_s ST: the highest lane's value stands. -/
theorem test_memory_words :
    (let p (a b : Nat) (l : List W32) (s : State) := withV a (lanesOf l) (withV b (fun _ => 0) s)
     let c := pth (fun p => { p with mask := 3 }) (withMode mU64 (withMem 0x100000 (leBytes 8 0x10 ++ leBytes 8 1)
       (p 20 21 [0x100000, 0x100000] (p 8 9 [0x10, 0x10] (p 10 11 [1, 1] (p 12 13 [0x20, 0x30] (p 14 15 [2, 2] ready)))))))
     ran c 0x62081407 (fun t => lane t 8 0 == 0x10 && lane t 8 1 == 0x20 && lane t 10 1 == 2 && leNat (cellsRead t.mem.cells 0x100000 16) == 0x20 + 2 * 2 ^ 64) &&
     ran (pth (fun p => { p with mask := 3 }) (withMode mU32 (withS [(5, 0x100000)] (withV 3 (lanesOf [1, 2]) base)))) 0x51030128
       (fun t => leNat (cellsRead t.mem.cells 0x100000 4) == 2)) = true := by decide +kernel

/-- 16_ref_c CPY: word 3 of 8,192 lines, and ILLOP for 5,000. -/
theorem test_copy_word :
    (let s (n : W64) := withW [(4, 0x10000000), (5, 0x20000000), (6, 0), (8, n)] (onBell ready)
     ran (s 8192) 0x7F040800 (fun t => match t.block? 0 with | some b => (ringEntry b 0).w3 == 0x1000001FFF && b.tail == 1 | none => false) &&
     ran (s 5000) 0x7F040800 (fun t => code? t == fILLOP && (match t.block? 0 with | some b => b.resv == 0 | none => false))) = true := by decide +kernel

/-- 10_faults: the column group of the example is corrected. -/
theorem test_parity_rebuild :
    (let good : List W64 := (List.replicate 64 0).set 5 0x0123456789ABCDEF
     let hp (w : W64) : Byte := (List.range 8).foldl (fun (f : Byte) j =>
       if (List.range 8).foldl (fun b k => b ^^ w.getLsbD (j + 8 * k)) false then f ||| (1 <<< j) else f) 0
     let g : ColumnGroup := { words := (good.set 5 0x0123456789ABCDF7).set 20 0x20000, hpar := good.map hp, v := 0x0123456789ABCDEF, vpar := hp 0x0123456789ABCDEF }
     groupS g == 0x20018 && (rebuild g)[5]? == some (.fix 0x0123456789ABCDEF) && (rebuild g)[20]? == some (.fix 0) && (rebuild g)[6]? == some .keep) = true := by
  decide +kernel

/-! ## Terms that stand for nothing of the device -/

/-- A core 128, a slot 8, a group 32, a die 4, a lock 4,096, a node 4,096, a function 65, a latch 4,096, a queue 256, a slot 2³², an array row 196, a
port 2, a window 256, data of 1 byte, and a word that an instruction has. -/
theorem test_illformed :
    ([.evBellwetherIssue 128, .evSlotArbitration 0 8, .evSlotArbitration 128 0, .evLoadDataArrival { blk := 0, who := .path 32 false } 0,
      .evStoreCompletion { blk := 0, who := .path 32 true } 0, .evWaitSatisfied { blk := 0, who := .path 32 false }, .evRevocation 128 0, .evLockGrant 4 0,
      .evLockGrant 0 4096, .evNodeReplace 0 4096, .evGatherTimeout 0 4096 0, .evGatherTimeout 0 0 4, .evSpillReturn 0 4096 0, .evDoorbell 65 0,
      .evReadAndMark 4096, .evFlushq 65 0, .evDrops 65, .evNopPacket { q0 with queue := 256 }, .evLaunch { q0 with slot := 4294967296 },
      .evCutTimePassed 0 128, .evPageResponse 65 0 .success, .evPageRequestTimeout 65 0, .evAtsInvalidate 65 0 0 0 false, .evArrayRowFailure 0 196,
      .evHostMemAccess { fn := 65, mem := false } 0 1 none, .evFunctionLevelReset 65, .evTierLinkFailure 2, .evTierLinkRestore 2, .evRevoke .host 256, .evRevokeComplete 256,
      .evReservedEncoding 0x01000000, .evPriReenable 65, .evPageRequestAllocation 65 0, .evWback 0 { bytes := [1], idle := false, owner := 0 }, .evData 0 [1] .shared 0 0 0 0 0] :
      List Instr).all (fun i => !i.wellFormed) = true := by decide

/-- R8, R272: a device reset gives FT its reset value and keeps a fused counter. -/
theorem test_device_reset :
    let s : State := { State.reset with fe := { FrontEnd.reset with svn := 3, restart := true }, ft := 77 }
    (deviceReset s).fe.svn = 3 ∧ (deviceReset s).fe.restart = false ∧ (deviceReset s).ft = 0 := by decide +kernel

end Sys2Proof.Tests
end

/-! ## Ends of runs (R81): a word without E at run position 23, and a branch-row word without E -/

namespace Sys2Proof.Machine

open Sys2Proof

/-! ### The streams that an opcode's row names (R327, R328) -/

/-- R327: below the copy family, the streams of a word are those of its OP alone. -/
theorem opStreams_word {e : Bool} {op : BitVec 7} {low : BitVec 24} (h : op.toNat ≠ 0x7F) :
    opStreams (word e op low) = opStreams (word false op 0#24) := by
  have hop : ∀ e low, (word e op low).extractLsb' 24 7 = op := fun e low => fOp_word e op low
  have hle : op.toNat ≤ 0x7E := by have := op.isLt; omega
  simp only [opStreams, hop, hle, if_true]

/-- R328: in the copy family, the streams of a word are those of its member, bits 2:0. -/
theorem opStreams_copy {e : Bool} {low : BitVec 24} {k : BitVec 3} (h : low.extractLsb' 0 3 = k) :
    opStreams (word e 0x7F#7 low) = opStreams (word false 0x7F#7 (0#21 ++ k)) := by
  have hop : ∀ e low, (word e 0x7F#7 low).extractLsb' 24 7 = 0x7F#7 := fun e low => fOp_word e 0x7F#7 low
  have hk : (0#21 ++ k).extractLsb' 0 3 = k := by
    rw [BitVec.extractLsb'_append_eq_of_add_le (by decide), BitVec.extractLsb'_eq_self]
  simp only [opStreams, hop, extract_word _ _ _ 0 3 (by decide), h, hk]

/-! ### The checks before the field checks (R330) -/

/-- R330: the device has the feature that a word needs, if it needs one. -/
def FeatHeld (feat : Option Nat) : Prop := ∀ b, feat = some b → Config.featmask.getLsbD b = true

theorem featHeld_none : FeatHeld none := nofun

theorem featHeld_some {b : Nat} (h : Config.featmask.getLsbD b = true) : FeatHeld (some b) := by
  intro c hc
  cases hc
  exact h

theorem featHeld_ite {c : Prop} [Decidable c] {x y : Option Nat} (hx : FeatHeld x) (hy : FeatHeld y) : FeatHeld (if c then x else y) := by
  split
  · exact hx
  · exact hy

theorem featHeld_laneFeat (v : View) : FeatHeld (laneFeat v) := featHeld_ite (featHeld_some (by decide)) featHeld_none

theorem featHeld_matFeat (fmt : Nat) : FeatHeld (matFeat fmt) := by
  unfold matFeat
  split
  iterate 7 exact featHeld_some (by decide)
  exact featHeld_none

/-- The FP64 minimum and maximum apart, an atomic operation needs a feature that the device has. -/
theorem featHeld_aopFeat {o : Nat} {v : View} (h : aopFeat o v ≠ some 10) : FeatHeld (aopFeat o v) := by
  unfold aopFeat at h ⊢
  split
  · split
    · simp_all
    · exact featHeld_some (by decide)
  · exact featHeld_none

/-- R330: a word that passes its early checks may run in its opcode's streams. -/
theorem streamOk_of_earlyOk {v : View} {i : Instr} {st : Streams} (h : earlyOk v i = true) (hs : opStreams (encode i) = some st) :
    streamOk v st = true := by
  unfold earlyOk at h
  split at h
  case h_1 | h_2 =>
    obtain rfl := Option.some.inj (hs.symm.trans (opStreams_word (by decide)))
    rfl
  case h_3 | h_4 | h_5 =>
    obtain rfl := Option.some.inj (hs.symm.trans (opStreams_word (by decide)))
    exact (Bool.and_eq_true_iff.1 h).1
  case h_6 =>
    rw [hs] at h
    exact (Bool.and_eq_true_iff.1 h).1

/-! ### Every instruction word takes the common course (R330) -/

/-- The meaning of `i` is the common course of words, and a word that has passed its early checks has the stream and the feature that
it needs there. -/
def HasCourse (i : Instr) : Prop :=
  ∃ (need : View → Need) (act : State → View → Act), (∀ s, exec i s = wordExec i s need (act s)) ∧
    ∀ v, earlyOk v i = true → streamOk v (need v).streams = true ∧ FeatHeld (need v).feat

/-- A word whose need names the streams of its opcode has the common course, with a feature that the device has. -/
theorem hasCourse_of {i : Instr} {st : Streams} {need : View → Need} {act : State → View → Act}
    (hx : ∀ s, exec i s = wordExec i s need (act s)) (hn : ∀ v, (need v).streams = st) (hs : opStreams (encode i) = some st)
    (hf : ∀ v, earlyOk v i = true → FeatHeld (need v).feat) : HasCourse i :=
  ⟨need, act, hx, fun v h => ⟨by rw [hn v]; exact streamOk_of_earlyOk h hs, hf v h⟩⟩

/-- What a word of no instruction needs (R327 to R330): the streams and the feature of its opcode, and no field check lets it pass. -/
def reservedNeed (w : W32) (v : View) : Need :=
  match opStreams w with
  | none => { streams := .gb, ok := false }
  | some st => { streams := st, feat := opFeat v w, ok := false }

theorem exec_evReservedEncoding (w : W32) (s : State) :
    exec (.evReservedEncoding w) s = wordExec (.evReservedEncoding w) s (reservedNeed w) (fun _ => .done s .invalid) := rfl

theorem reservedNeed_ok (w : W32) (v : View) : (reservedNeed w v).ok = false := by
  unfold reservedNeed
  split <;> rfl

theorem reservedNeed_early {w : W32} {v : View} (h : earlyOk v (.evReservedEncoding w) = true) :
    streamOk v (reservedNeed w v).streams = true ∧ FeatHeld (reservedNeed w v).feat := by
  unfold reservedNeed
  split
  case h_1 => exact ⟨rfl, featHeld_none⟩
  case h_2 st hs =>
    have hf : opFeat v w = none := Option.isNone_iff_eq_none.1 (Bool.and_eq_true_iff.1 h).2
    exact ⟨streamOk_of_earlyOk h hs, by rw [hf]; exact featHeld_none⟩

/-- R327, R330: every instruction word has the common course, in the streams of its row, with a feature that the device has. -/
theorem hasCourse_of_isEvent {i : Instr} (hi : i.isEvent = false) : HasCourse i := by
  cases i with
  -- words that need no feature beyond bit 0
  | opNop | opSetm | opGetm | opSetmx | opTrap | opRte | opYield | opCkpt | opChq | opVany | opVall | opVuni | opVbal | opPand | opPor
  | opPxor | opPnot | opPset | opPsetFirst | opPsetNz | opPcnt | opSadd | opSsub | opSmul | opSand | opSor | opSxor | opSshl | opSshr
  | opSmin | opSmax | opSmov | opScmp | opSli | opSlh | opSld | opSst | opLdacc | opStacc | opTagq | opTagw | opTagx | opFence
  | opWaitc | opWaitg | opCas | opMwait | opBara | opBarw | opBars | opHbar | opBnew | opBdel | opBoa | opBow | opBra | opBrd | opBrx
  | opCall | opRet | opDisp | opExit | opDone | opMfence | opMwaitb | opMclr | opMwin =>
    exact hasCourse_of (fun _ => rfl) (fun _ => rfl) ((opStreams_word (by decide)).trans rfl) (fun _ _ => featHeld_none)
  -- words of one feature
  | opCvtb | opCvtbGiven | opUnpb | opCas128 | opRedh | opLock | opUnlk | opPost =>
    exact hasCourse_of (fun _ => rfl) (fun _ => rfl) ((opStreams_word (by decide)).trans rfl) (fun _ _ => featHeld_some (by decide))
  -- lane words, whose feature follows from TYPE
  | opAdd | opSub | opMul | opMad | opMin | opMax | opAnd | opOr | opXor | opShl | opShr | opSar | opSel | opMulh | opCmp | opMov
  | opAbs | opNeg | opNot | opRcp | opRsq | opSqrt | opExp2 | opLog2 | opSin | opCos | opRint | opClz | opPopc | opBrev | opClass
  | opCvt | opBfe | opBfi | opShfl | opShfx | opShup | opShdn | opGsum | opGmin | opGmax | opGscan | opLd | opSt | opLda | opStl
  | opLds | opSts | opPref =>
    exact hasCourse_of (fun _ => rfl) (fun _ => rfl) ((opStreams_word (by decide)).trans rfl) (fun v _ => featHeld_laneFeat v)
  | opSysv =>
    exact hasCourse_of (fun _ => rfl) (fun _ => rfl) ((opStreams_word (by decide)).trans rfl)
      (fun v _ => featHeld_ite (featHeld_laneFeat v) featHeld_none)
  -- matrix words, whose feature follows from their descriptor
  | opWld | opMstr =>
    exact hasCourse_of (fun _ => rfl) (fun _ => rfl) ((opStreams_word (by decide)).trans rfl) (fun _ _ => featHeld_matFeat _)
  | opMdrn =>
    exact hasCourse_of (fun _ => rfl) (fun _ => rfl) ((opStreams_word (by decide)).trans rfl)
      (fun _ _ => featHeld_ite (featHeld_some (by decide)) featHeld_none)
  -- atomic words, whose feature follows from TYPE and operation
  | opAtom | opRed | opAtom2 =>
    exact hasCourse_of (fun _ => rfl) (fun _ => rfl) ((opStreams_word (by decide)).trans rfl)
      (fun _ h => featHeld_aopFeat (bne_iff_ne.1 (Bool.and_eq_true_iff.1 h).2))
  -- control registers, whose streams follow from the register
  | opCrd | opCwr => exact ⟨_, _, fun _ => rfl, fun _ h => ⟨h, featHeld_none⟩⟩
  | opCpy | opCpy2d | opCpyw | opCnta | opCntw =>
    exact hasCourse_of (fun _ => rfl) (fun _ => rfl)
      ((opStreams_copy (BitVec.extractLsb'_append_eq_of_add_le (by decide))).trans rfl) (fun _ _ => featHeld_none)
  | evReservedEncoding w =>
    exact ⟨_, fun s _ => .done s .invalid, exec_evReservedEncoding w, fun _ h => reservedNeed_early h⟩
  | _ => cases hi

/-! ### Where ILLOP is raised -/

/-- R330: a word of the right stream and feature that fails its field checks or the end of its run raises ILLOP. -/
theorem wordExec_illop {i : Instr} {s : State} {v : View} {need : View → Need} {act : View → Act} (hc : s.cur = some v.p)
    (hv : s.view v.p = some v) (he : streamOk v (need v).streams = true ∧ FeatHeld (need v).feat)
    (ho : ((need v).ok && endOk v (encode i)) = false) : wordExec i s need act = .next (raise s v (exc fILLOP)) :=
  wordExec_faulted hc hv (decodeFault_illop _ he.1 he.2 ho)

/-- R81: run position 23 asks for E. -/
theorem endOk_last {v : View} {w : W32} (hp : v.ctl.runPos = 23) (he : w.getLsbD 31 = false) : endOk v w = false := by
  unfold endOk
  rw [hp, he]
  rfl

/-- R81: a word at run position 23 without E raises ILLOP. -/
theorem exec_illop_of_endOk {i : Instr} {s : State} {v : View} (hi : i.isEvent = false) (hc : s.cur = some v.p)
    (hv : s.view v.p = some v) (hr : earlyOk v i = true) (he : endOk v (encode i) = false) :
    exec i s = .next (raise s v (exc fILLOP)) := by
  obtain ⟨need, act, hx, hn⟩ := hasCourse_of_isEvent hi
  rw [hx]
  exact wordExec_illop hc hv (hn v hr) (by rw [he, Bool.and_false])

/-- R330: a word of no instruction raises ILLOP. -/
theorem exec_evReservedEncoding_illop {w : W32} {s : State} {v : View} (hc : s.cur = some v.p) (hv : s.view v.p = some v)
    (hr : earlyOk v (.evReservedEncoding w) = true) : exec (.evReservedEncoding w) s = .next (raise s v (exc fILLOP)) := by
  rw [exec_evReservedEncoding]
  exact wordExec_illop hc hv (reservedNeed_early hr) (by rw [reservedNeed_ok, Bool.false_and])

/-- R81: a word of the branch row without E is of no instruction. -/
theorem decode_branchRow {w : W32} (he : w.getLsbD 31 = false) (ho : (w.extractLsb' 24 7).toNat / 8 = 0xE) :
    decode w = .evReservedEncoding w := by
  have he' : fE w = false := he
  have ho' : (fOp w).toNat = 0x70 ∨ (fOp w).toNat = 0x71 ∨ (fOp w).toNat = 0x72 ∨ (fOp w).toNat = 0x73 ∨ (fOp w).toNat = 0x74 ∨
      (fOp w).toNat = 0x75 ∨ (fOp w).toNat = 0x76 ∨ (fOp w).toNat = 0x77 := by
    unfold fOp
    omega
  rcases ho' with h | h | h | h | h | h | h | h <;> simp [decode, h, he']

/-- R20, R81: a bellwether gives up the pipeline after every word, with E or without. -/
theorem retire_bell_cur {s : State} {v : View} (hb : v.isBell = true) (w : W32) (l : LatchOut) (pc : W64) (fold : W32)
    (post : Group → Group) : (retire s v w l pc fold post).cur = none := by
  unfold retire
  rw [if_pos hb]
  rfl

/-- Settles O12: every instruction word takes the common course, whose check of the run's end fails at position 23 without E; a
branch-row word without E decodes to the reserved row, whose field check always fails. -/
theorem runsEndWithE : Obligations.RunsEndWithE := by
  refine ⟨?_, ?_, ?_, ?_⟩
  · intro i s v hi hc hv hr hp he
    exact exec_illop_of_endOk hi hc hv hr (endOk_last hp he)
  · intro w he ho
    exact decode_branchRow he ho
  · intro w s v hc hv he ho hr
    rw [decode_branchRow he ho] at hr ⊢
    exact exec_evReservedEncoding_illop hc hv hr
  · intro s v w l pc fold post hb
    exact retire_bell_cur hb w l pc fold post

end Sys2Proof.Machine

/-! ## AND, OR and XOR (R344, R428, R479): the course of a two-source lane operation, and where the three raise ILLOP -/

namespace Sys2Proof.Machine

open Sys2Proof

/-! ### Types and constants as sources -/

/-- R114: an integer type is no float type. -/
theorem tyFloat_of_tyInt {t : Ty} (h : tyInt t = true) : tyFloat t = false := by
  cases t with
  | i32 | u32 | i64 | u64 | i16 | u16 | i8 | u8 => rfl
  | _ => cases h

/-- R318: an FP-constant field is a lane source where FP constants are legal. -/
theorem laneSrcOk_fpConst {f : BitVec 8} (v : View) (n : Nat) (ic fc : Bool) (h : isFC f = true) : laneSrcOk v n ic fc f = fc := by
  have hx : f.toNat / 16 = 0xF := beq_iff_eq.1 h
  have hlo : 0xF0 ≤ f.toNat := by omega
  unfold laneSrcOk
  simp only [show ¬ f.toNat < 0x80 by omega, show ¬ f.toNat < 0xA7 by omega, show ¬ f.toNat < 0xC0 by omega,
    show ¬ f.toNat < 0xE0 by omega, show ¬ f.toNat < 0xF0 by omega, if_false]

/-- R322, R342: an arithmetic word takes an FP constant in a float type only. -/
theorem arithSrcOk_fpConst {v : View} {f : BitVec 8} (fc : Bool) (h : isFC f = true) : arithSrcOk v fc f = (fc && tyFloat v.ty) :=
  laneSrcOk_fpConst v _ _ _ h

/-- R321: an integer constant supplies its number in a type that is no float type. -/
theorem opnd_intConst {v : View} {t : Ty} {ft : Fetched} (l : Nat) (ht : tyFloat t = false) (h : isIC ft.f = true) :
    opnd v t ft l = ft.f.toNat % 16 := by
  unfold opnd intConstE
  rw [if_pos h, ht, if_neg Bool.false_ne_true]

/-- R322, R344: the field checks of a two-source word over the integer types fail for any other type and for an FP constant. -/
theorem intSources_fail {v : View} {a b : BitVec 8} (h : tyInt v.ty = false ∨ isFC a = true ∨ isFC b = true) :
    (tyInt v.ty && arithSrcOk v true a && arithSrcOk v true b) = false := by
  cases ht : tyInt v.ty with
  | false => rfl
  | true =>
    have hno : ∀ f, isFC f = true → arithSrcOk v true f = false := fun f hf => by
      rw [arithSrcOk_fpConst true hf, tyFloat_of_tyInt ht, Bool.and_false]
    rcases h with h | ha | hb
    · exact absurd h (by rw [ht]; decide)
    · rw [hno a ha, Bool.and_false, Bool.false_and]
    · rw [hno b hb, Bool.and_false]

/-! ### Lane words -/

/-- R330: a lane word of a group whose own field checks fail raises ILLOP, whatever its destination. -/
theorem laneWord_illop {i : Instr} {s : State} {v : View} {ok : View → Bool} {ops : View → List (BitVec 8 × Nat)} {d : BitVec 8}
    {dn : View → Nat} {lanes : View → W32} {f : View → List Fetched → Nat → Nat} (hc : s.cur = some v.p) (hv : s.view v.p = some v)
    (hb : v.isBell = false) (ho : ok v = false) : laneWord i s ok ops d dn lanes f = .next (raise s v (exc fILLOP)) :=
  wordExec_illop hc hv ⟨by simp only [streamOk, hb, Bool.not_false], featHeld_laneFeat v⟩ (by simp only [ho, Bool.false_and])

/-- R342: a word whose meaning is a two-source lane operation completes as one. -/
theorem twoSourceCompletes_of {mk : Bool → BitVec 8 → BitVec 8 → BitVec 8 → Instr} {tys : Ty → Bool} {op : Ty → Rm → Nat → Nat → Nat}
    (hx : ∀ e d a b s, exec (mk e d a b) s = arith2 (mk e d a b) tys op d a b s) : TwoSourceCompletes mk tys op :=
  fun e d a b => laneWord_completes (hx e d a b)

/-- R322, R344: a two-source lane operation over the integer types raises ILLOP for any other type and for an FP constant. -/
theorem arith2_int_illop {i : Instr} {s : State} {v : View} {op : Ty → Rm → Nat → Nat → Nat} {a b : BitVec 8} (d : BitVec 8)
    (hc : s.cur = some v.p) (hv : s.view v.p = some v) (hb : v.isBell = false)
    (h : tyInt v.ty = false ∨ isFC a = true ∨ isFC b = true) : arith2 i tyInt op d a b s = .next (raise s v (exc fILLOP)) :=
  laneWord_illop hc hv hb (intSources_fail h)

/-! ### AND, OR and XOR -/

/-- R344: AND is a two-source lane operation over the integer types. -/
theorem exec_opAnd (e : Bool) (d a b : BitVec 8) (s : State) :
    exec (.opAnd e d a b) s = arith2 (.opAnd e d a b) tyInt (fun _ _ x y => Nat.land x y) d a b s := rfl

/-- R428: OR is a two-source lane operation over the integer types. -/
theorem exec_opOr (e : Bool) (d a b : BitVec 8) (s : State) :
    exec (.opOr e d a b) s = arith2 (.opOr e d a b) tyInt (fun _ _ x y => Nat.lor x y) d a b s := rfl

/-- R479: XOR is a two-source lane operation over the integer types. -/
theorem exec_opXor (e : Bool) (d a b : BitVec 8) (s : State) :
    exec (.opXor e d a b) s = arith2 (.opXor e d a b) tyInt (fun _ _ x y => Nat.xor x y) d a b s := rfl

/-- Settles O16: the three words are two-source lane operations over the integer types, which complete as such; their field checks
fail for a type that is no integer type and, no integer type being a float type, for an FP constant. -/
theorem bitwiseRules : Obligations.BitwiseRules := by
  refine ⟨twoSourceCompletes_of exec_opAnd, twoSourceCompletes_of exec_opOr, twoSourceCompletes_of exec_opXor, ?_, ?_, ?_⟩
  · intro v ft l ht hf
    exact opnd_intConst l (tyFloat_of_tyInt ht) hf
  · intro e d a b s v hc hv hb h
    rw [exec_opAnd, exec_opOr, exec_opXor]
    exact ⟨arith2_int_illop d hc hv hb h, arith2_int_illop d hc hv hb h, arith2_int_illop d hc hv hb h⟩
  · decide

end Sys2Proof.Machine

/-! ## SHL, SHR and SAR (R449): their values on elements, and where the three raise ILLOP -/

namespace Sys2Proof.Machine

open Sys2Proof

/-! ### The values of the shifts -/

/-- R449: SHL's value needs no case of its own for a count past the width. -/
theorem shlE_eq (t : Ty) (x c : Nat) : shlE t x c = x * 2 ^ c % 2 ^ tyBits t := by
  unfold shlE
  split
  next h => exact (Nat.mod_eq_zero_of_dvd (Nat.dvd_mul_left_of_dvd (Nat.pow_dvd_pow 2 h) x)).symm
  next => rfl

/-- R449: SHR's value on an element needs no case of its own for a count past the width. -/
theorem shrE_eq {t : Ty} {x : Nat} (c : Nat) (hx : x < 2 ^ tyBits t) : shrE t x c = x / 2 ^ c := by
  unfold shrE
  split
  next h => exact (Nat.div_eq_of_lt (Nat.lt_of_lt_of_le hx (Nat.pow_le_pow_right Nat.two_pos h))).symm
  next => rfl

/-- R449: below the top bit, SAR shifts zeros in, by no more than the width. -/
theorem sarE_of_top_clear {t : Ty} {x : Nat} (c : Nat) (h : x.testBit (tyBits t - 1) = false) :
    sarE t x c = x / 2 ^ min c (tyBits t) := by
  simp only [sarE, h, Bool.false_eq_true, if_false]

/-- R449: with the top bit set, SAR places as many ones as it shifts by, at most the width, above the shifted element. -/
theorem sarE_of_top_set {t : Ty} {x : Nat} (c : Nat) (h : x.testBit (tyBits t - 1) = true) :
    sarE t x c = 2 ^ (tyBits t - min c (tyBits t)) * (2 ^ min c (tyBits t) - 1) + x / 2 ^ min c (tyBits t) := by
  simp only [sarE, h, if_true]
  rw [Nat.mul_sub, ← Nat.pow_add, Nat.sub_add_cancel (Nat.min_le_right _ _), Nat.mul_one, Nat.add_comm]

/-- An element shifted right by no more than its width has that much less of it. -/
theorem div_pow_min_lt {n x : Nat} (c : Nat) (hx : x < 2 ^ n) : x / 2 ^ min c n < 2 ^ (n - min c n) := by
  rw [Nat.div_lt_iff_lt_mul (Nat.two_pow_pos _), ← Nat.pow_add, Nat.sub_add_cancel (Nat.min_le_right _ _)]
  exact hx

/-- R449: SAR of an element is an element: the ones and the shifted element fill the width between them. -/
theorem sarE_lt {t : Ty} {x : Nat} (c : Nat) (hx : x < 2 ^ tyBits t) : sarE t x c < 2 ^ tyBits t := by
  cases h : x.testBit (tyBits t - 1) with
  | false =>
    rw [sarE_of_top_clear c h]
    exact Nat.lt_of_le_of_lt (Nat.div_le_self _ _) hx
  | true =>
    have hd := div_pow_min_lt c hx
    rw [sarE_of_top_set c h]
    calc _ < 2 ^ (tyBits t - min c (tyBits t)) * (2 ^ min c (tyBits t) - 1) + 2 ^ (tyBits t - min c (tyBits t)) :=
          Nat.add_lt_add_left hd _
      _ = 2 ^ (tyBits t - min c (tyBits t)) * 2 ^ min c (tyBits t) := by
          rw [← Nat.mul_succ, Nat.succ_eq_add_one, Nat.sub_add_cancel Nat.one_le_two_pow]
      _ = 2 ^ tyBits t := by rw [← Nat.pow_add, Nat.sub_add_cancel (Nat.min_le_right _ _)]

/-- R449: bit k of SAR is the element's bit k + c, or its top bit where that lies past the width. -/
theorem sarE_testBit {t : Ty} {x k : Nat} (c : Nat) (hx : x < 2 ^ tyBits t) (hk : k < tyBits t) :
    (sarE t x c).testBit k = x.testBit (if k + c < tyBits t then k + c else tyBits t - 1) := by
  have hin : k + c < tyBits t → k + min c (tyBits t) = k + c := by omega
  cases h : x.testBit (tyBits t - 1) with
  | false =>
    rw [sarE_of_top_clear c h, Nat.testBit_div_two_pow]
    split
    next hc => rw [hin hc]
    next hc =>
      have hout : tyBits t ≤ k + min c (tyBits t) := by omega
      rw [h, Nat.testBit_lt_two_pow (Nat.lt_of_lt_of_le hx (Nat.pow_le_pow_right Nat.two_pos hout))]
  | true =>
    rw [sarE_of_top_set c h, Nat.testBit_two_pow_mul_add _ (div_pow_min_lt c hx), Nat.testBit_div_two_pow,
      Nat.testBit_two_pow_sub_one]
    split
    next hlow =>
      have hc : k + c < tyBits t := by omega
      rw [if_pos hc, hin hc]
    next hhigh =>
      have hc : ¬ k + c < tyBits t := by omega
      rw [if_neg hc, h, decide_eq_true_iff]
      omega

/-! ### The three words -/

/-- R322, R449: the field checks of a lane shift fail for a type that is no integer type and for an FP constant in either field. -/
theorem shiftSources_fail {v : View} {a b : BitVec 8} (h : tyInt v.ty = false ∨ isFC a = true ∨ isFC b = true) :
    (tyInt v.ty && arithSrcOk v false a && laneSrcOk v 1 true false b) = false := by
  rcases h with ht | ha | hb
  · rw [ht, Bool.false_and, Bool.false_and]
  · rw [arithSrcOk_fpConst false ha, Bool.false_and, Bool.and_false, Bool.false_and]
  · rw [laneSrcOk_fpConst v 1 true false hb, Bool.and_false]

/-- R449: a word whose meaning is a lane shift completes as one. -/
theorem shiftCompletes_of {mk : Bool → BitVec 8 → BitVec 8 → BitVec 8 → Instr} {op : Ty → Nat → Nat → Nat}
    (hx : ∀ e d a b s, exec (mk e d a b) s = laneShift (mk e d a b) op d a b s) : ShiftCompletes mk op :=
  fun e d a b => laneWord_completes (hx e d a b)

/-- R322, R449: a lane shift raises ILLOP for a type that is no integer type and for an FP constant. -/
theorem laneShift_illop {i : Instr} {s : State} {v : View} {op : Ty → Nat → Nat → Nat} {a b : BitVec 8} (d : BitVec 8)
    (hc : s.cur = some v.p) (hv : s.view v.p = some v) (hb : v.isBell = false)
    (h : tyInt v.ty = false ∨ isFC a = true ∨ isFC b = true) : laneShift i op d a b s = .next (raise s v (exc fILLOP)) :=
  laneWord_illop hc hv hb (shiftSources_fail h)

/-- R449: SHL is a lane shift. -/
theorem exec_opShl (e : Bool) (d a b : BitVec 8) (s : State) : exec (.opShl e d a b) s = laneShift (.opShl e d a b) shlE d a b s := rfl

/-- R449: SHR is a lane shift. -/
theorem exec_opShr (e : Bool) (d a b : BitVec 8) (s : State) : exec (.opShr e d a b) s = laneShift (.opShr e d a b) shrE d a b s := rfl

/-- R449: SAR is a lane shift. -/
theorem exec_opSar (e : Bool) (d a b : BitVec 8) (s : State) : exec (.opSar e d a b) s = laneShift (.opSar e d a b) sarE d a b s := rfl

/-- Settles O15: the three words are lane shifts, which complete as such and whose field checks fail for a type that is no integer
type and for an FP constant; bit by bit, SAR is the shifted element below the ones it places. -/
theorem shiftRules : Obligations.ShiftRules := by
  refine ⟨shiftCompletes_of exec_opShl, shiftCompletes_of exec_opShr, shiftCompletes_of exec_opSar, ?_, ?_, ?_⟩
  · intro ty x c _ hx _
    exact ⟨shlE_eq ty x c, shrE_eq c hx, sarE_lt c hx, fun k hk => sarE_testBit c hx hk⟩
  · intro e d a b s v hc hv hb h
    rw [exec_opShl, exec_opShr, exec_opSar]
    exact ⟨laneShift_illop d hc hv hb h, laneShift_illop d hc hv hb h, laneShift_illop d hc hv hb h⟩
  · decide

end Sys2Proof.Machine
